-- ==== Sys2Proof/Word.lean ====
section
/-! DEFINITION. The machine's words and the sparse tables that hold numbered things.
Multi-byte values are little-endian and bit 0 is the least significant bit (spec 00, R1). -/

namespace Sys2Proof

/-- One byte of memory. -/
abbrev Byte := BitVec 8

/-- A 32-bit word: an instruction word, a vector lane. -/
abbrev Word := BitVec 32

/-- A 64-bit doubleword: a scalar or cox register, an address. -/
abbrev DWord := BitVec 64

/-- A numbered collection of like things: key and value pairs, keys strictly rising, no entry equal to the value an
unlisted key has. `Host.Cell` is the entry of `Tab Byte`. -/
abbrev Tab (α : Type) := List (Nat × α)

/-- Bits `[lo+n-1:lo]` of `x`, as a number. -/
def fieldOf {w : Nat} (x : BitVec w) (lo n : Nat) : Nat := x.toNat / 2 ^ lo % 2 ^ n

/-- Bit `i` of `x`. -/
def bitOf {w : Nat} (x : BitVec w) (i : Nat) : Bool := x.getLsbD i

end Sys2Proof
end

