-- ==== Sys2Proof/Syntax.lean ====
section
/-! DEFINITION. The whole instruction set as syntax: operands, formats, working templates, and one constructor of
`Instr` for each row of the opcode table (spec/opcode_table.json): the fixed wave words, the template operations,
the cox words and the machine's own events, whose arguments name the unit concerned and carry what comes from
outside the model (spec 95). -/

namespace Sys2Proof

/-- Who executes: a compute wave in slot `k % 64` of core `k / 64`; the cox of core `c` (256 and 257 are the umpires);
the scarab of channel `k % 16` of stack `k / 16`; or the outside. -/
inductive Agent where
  | wave (k : Nat) | cox (c : Nat) | scarab (k : Nat) | outside
  deriving DecidableEq, Repr, Inhabited

/-- An operand field of a template: kind and index (03 R53). `m` covers the masks 0-7 and the special registers. -/
inductive Opnd where
  | v (i : BitVec 8) | s (i : BitVec 8) | m (i : BitVec 8) | k (i : BitVec 8)
  deriving DecidableEq, Repr

/-- The format codes of 03 R56. -/
inductive Fmt where
  | none | b8 | b16 | b32 | b64 | i4 | i8 | i16 | i32 | i64 | n4 | n8 | n16 | n32 | n64
  | f64 | f32 | f16 | bf16 | e4m3 | e5m2 | e3m2 | e2m3 | e2m1 | e8m0 | lc16 | f16x2 | bf16x2 | e4m3x4 | e5m2x4
  deriving DecidableEq, Repr

/-- The fields of a working template other than OP (03 R52, R55): holes are already filled. -/
structure TOp where
  att : BitVec 2 := 0
  bnd : Bool := false
  opmod : BitVec 9 := 0
  fmt : Fmt := .none
  d : Opnd := .v 0
  a : Opnd := .v 0
  b : Opnd := .v 0
  c : Opnd := .v 0
  imm : Word := 0
  deriving DecidableEq, Repr

/-- The management registers software may write that have no row of their own (20 R449, REGISTER_WRITE). -/
inductive MgmtReg where
  | peerto | peerrt (p : Nat) | acctbud (v : Nat) | mscwbase (n : Nat) | islreplay (n : Nat)
  | portctl (n : Nat) | queuePtr (v i : Nat) | readOnly
  deriving DecidableEq, Repr

/-- Protection grade of a page (13 R306). -/
inductive Grade where
  | x | s | p
  deriving DecidableEq, Repr

/-- What an agent outside the package names, an address or the number of a 128-byte line, and the grade its access is under: that of the
mapping it goes through there (13 R306). -/
structure OutAddr where
  addr : Nat
  grade : Grade
  deriving DecidableEq, Repr

/-- A write to a virtual interface's doorbell page: the interface, and the offset in the page (19 R428, 20 R449). -/
structure Doorbell where
  vf : Nat
  off : Nat
  deriving DecidableEq, Repr

/-- A replay on a link: the link, and the flits sent again (16 R372). -/
structure LinkReplay where
  link : Nat
  flits : Nat
  deriving DecidableEq, Repr

/-- How an engine record ends: its number, and whether a byte it read reported an uncorrected error. -/
structure RecEnd where
  id : Nat
  err : Bool
  deriving DecidableEq, Repr

/-- What a turn of an outstanding atomic or region does: how many lanes it performs, and whether one read an uncorrected error. -/
structure LanesDone where
  err : Bool
  lanes : Nat
  deriving DecidableEq, Repr

/-- What the debugger writes of a stopped wave's state (18 R414): a lane, a tag, a scalar, a mask, a link or a special register. -/
inductive DebugWrite where
  | vector (i lane : Nat) (v : Word) | tag (i : Nat) (t : Byte) | scalar (i : Nat) (v : DWord) | mask (i : Nat) (v : Word)
  | link (lane : Nat) (v : DWord) | pc (v : DWord) | pquant (v : BitVec 16) | pidx (v : Nat) | cbm (v : BitVec 512) | tvec (v : DWord)
  | dsel (v : BitVec 3) | wbase (v : Word) | tcause (v : Word) | tprov (v : DWord) | trec (i : Fin 3) (v : DWord) | spillBase (v : DWord)
  | flag (f count : Nat) | stack (entries : List (BitVec 128))
  deriving DecidableEq, Repr

/-- A release by the debugger: the wave, and what the debugger wrote of it while it stood. -/
structure DebugGo where
  wave : Nat
  writes : List DebugWrite := []
  deriving DecidableEq, Repr

/-- Where a collective message comes from: a scarab of this package with its `colsend`, or a scarab of another package, which executed a
release at sy before its `colsend` or did not (17 R394, R396). -/
inductive CollFrom where
  | scarab (k id : Nat) | peer (released : Bool)
  deriving DecidableEq, Repr

/-- One constructor per row of the opcode table, in its order. -/
inductive Instr where
  /-- Fixed entry 0x00 that has no effect and takes an issue slot in a clause of any class. (R135) -/
  | nop
  /-- Uniform branch that is always taken to the header at H plus 4 times the offset. (R136) -/
  | bra (i : BitVec 24)
  /-- Uniform branch taken when the scalar register is zero. (R136) -/
  | brsZ (i : BitVec 18) (a : BitVec 6)
  /-- Uniform branch taken when the scalar register is nonzero. (R136) -/
  | brsNz (i : BitVec 18) (a : BitVec 6)
  /-- Uniform branch taken when mN AND EXEC is nonzero. (R136) -/
  | brmAny (i : BitVec 21) (m : BitVec 3)
  /-- Uniform branch taken when mN AND EXEC equals EXEC. (R136) -/
  | brmAll (i : BitVec 21) (m : BitVec 3)
  /-- Uniform branch taken when mN AND EXEC is zero. (R136) -/
  | brmNone (i : BitVec 21) (m : BitVec 3)
  /-- Divergent branch that splits the active lanes by mN and pushes reconvergence and path entries when they disagree. (R137) -/
  | brd (i : BitVec 21) (m : BitVec 3)
  /-- Compacting divergent branch that holds the wave at a meeting of the block's waves, or acts as brd. (R132) -/
  | brdCmp (i : BitVec 21) (m : BitVec 3)
  /-- Bound-checks each lane's index, reads a jump table of word offsets and diverges the lanes by target. (R138) -/
  | jmpt (c b : BitVec 6) (a : BitVec 8)
  /-- Indirect jump to sT plus each lane's offset, diverging the lanes by target. (R139) -/
  | jmpi (b : BitVec 6) (a : BitVec 8)
  /-- Writes LK, pushes a frame and slides the register window before it jumps to the target. (R140) -/
  | call (n : BitVec 5) (i : BitVec 19)
  /-- Call through a scalar target address with a register-window slide. (R140) -/
  | calli (n : BitVec 5) (a : BitVec 6)
  /-- Pops a frame, slides the window back and returns each lane through its LK, diverging when the links differ. (R141) -/
  | ret
  /-- Ends the running path of the innermost divergence and starts the next live path, or merges the divergence. (R142) -/
  | join
  /-- Ends the active lanes, and exits the wave once it has no live lane and its attached operations are done. (R143) -/
  | exit
  /-- Selects a dictionary slot for the wave and updates the slot reference counts. (R144) -/
  | dsel (n : BitVec 3)
  /-- Discards prefetched clauses and invalidates the core's instruction cache. (R144) -/
  | ifence
  /-- Acts as a clause end with Y equal to 1. (R144) -/
  | yield
  /-- Raises software trap cause 0x046 with a code, resuming after the trap clause. (R145) -/
  | trap (i : BitVec 16)
  /-- Integer add, wrapping or saturating. (R152) -/
  | add (t : TOp)
  /-- Integer subtract, wrapping or saturating. (R152) -/
  | sub (t : TOp)
  /-- Add with a carry taken from and returned to a mask register. (R153) -/
  | addc (t : TOp)
  /-- Subtract with a borrow taken from and returned to a mask register. (R153) -/
  | subb (t : TOp)
  /-- Low half of an integer product. (R152) -/
  | mul (t : TOp)
  /-- High half of an integer product. (R152) -/
  | mulh (t : TOp)
  /-- Integer multiply-add, keeping the low bits. (R152) -/
  | mad (t : TOp)
  /-- Integer quotient rounded toward zero, with defined edge results. (R154) -/
  | div (t : TOp)
  /-- Integer remainder with the sign of A. (R154) -/
  | rem (t : TOp)
  /-- Smaller of two integers, signed or unsigned. (R152) -/
  | min (t : TOp)
  /-- Larger of two integers, signed or unsigned. (R152) -/
  | max (t : TOp)
  /-- Integer absolute value, wrapping or saturating. (R152) -/
  | abs (t : TOp)
  /-- Integer negation, wrapping or saturating. (R152) -/
  | neg (t : TOp)
  /-- Bitwise AND. (R155) -/
  | and (t : TOp)
  /-- Bitwise OR. (R155) -/
  | or (t : TOp)
  /-- Bitwise XOR. (R155) -/
  | xor (t : TOp)
  /-- A AND NOT B. (R155) -/
  | andn (t : TOp)
  /-- Bitwise complement. (R155) -/
  | not (t : TOp)
  /-- Shift left by the whole count. (R156) -/
  | shl (t : TOp)
  /-- Logical shift right. (R156) -/
  | shr (t : TOp)
  /-- Arithmetic shift right. (R156) -/
  | sra (t : TOp)
  /-- Rotate left by the count modulo the width. (R156) -/
  | rotl (t : TOp)
  /-- Funnel shift of A and B right by C modulo the width. (R157) -/
  | fsh (t : TOp)
  /-- Bit field extract. (R158) -/
  | bfe (t : TOp)
  /-- Bit field insert. (R158) -/
  | bfi (t : TOp)
  /-- Population count. (R159) -/
  | popc (t : TOp)
  /-- Count of leading zeros. (R159) -/
  | clz (t : TOp)
  /-- Count of trailing zeros. (R159) -/
  | ctz (t : TOp)
  /-- Bit reversal. (R159) -/
  | brev (t : TOp)
  /-- Byte permute by selector nibbles. (R160) -/
  | bperm (t : TOp)
  /-- Low half of a carry-less product. (R161) -/
  | clmul (t : TOp)
  /-- High half of a carry-less product. (R161) -/
  | clmulh (t : TOp)
  /-- Integer compare that writes a mask. (R162) -/
  | cmp (t : TOp)
  /-- Per-lane select by a mask. (R163) -/
  | sel (t : TOp)
  /-- Register move. (R163) -/
  | mov (t : TOp)
  /-- Move of the template's immediate. (R163) -/
  | movi (t : TOp)
  /-- Address arithmetic with scale and offset and no memory access. (R164) -/
  | lea (t : TOp)
  /-- Reads another lane's value by index, up, down or xor mode. (R165) -/
  | shfl (t : TOp)
  /-- Broadcasts one lane's value to the vector or a scalar. (R166) -/
  | bcast (t : TOp)
  /-- Collects the nonzero active lanes into a scalar or mask. (R167) -/
  | ballot (t : TOp)
  /-- Reduction across active lanes over a run of registers, with progress in PIDX. (R168) -/
  | wred (t : TOp)
  /-- Inclusive or exclusive prefix scan across active lanes over a run of registers. (R168) -/
  | scan (t : TOp)
  /-- Mask AND. (R169) -/
  | mand (t : TOp)
  /-- Mask OR. (R169) -/
  | mor (t : TOp)
  /-- Mask XOR. (R169) -/
  | mxor (t : TOp)
  /-- Mask complement. (R169) -/
  | mnot (t : TOp)
  /-- Popcount of a mask into a scalar. (R169) -/
  | mpop (t : TOp)
  /-- Floating-point add with a rounding mode and optional saturation. (R196) -/
  | fadd (t : TOp)
  /-- Floating-point subtract. (R196) -/
  | fsub (t : TOp)
  /-- Floating-point multiply. (R196) -/
  | fmul (t : TOp)
  /-- Fused multiply-add rounded once. (R196) -/
  | fma (t : TOp)
  /-- Floating-point minimum with NaN and signed-zero rules. (R198) -/
  | fmin (t : TOp)
  /-- Floating-point maximum with NaN and signed-zero rules. (R198) -/
  | fmax (t : TOp)
  /-- Floating-point compare that writes a mask. (R199) -/
  | fcmp (t : TOp)
  /-- Writes the class set of each element. (R200) -/
  | fclass (t : TOp)
  /-- Reciprocal. (R201) -/
  | frcp (t : TOp)
  /-- Reciprocal square root. (R201) -/
  | frsq (t : TOp)
  /-- Square root. (R201) -/
  | fsqrt (t : TOp)
  /-- Base-2 exponential. (R201) -/
  | fexp2 (t : TOp)
  /-- Base-2 logarithm. (R201) -/
  | flog2 (t : TOp)
  /-- Sine in radians. (R201) -/
  | fsin (t : TOp)
  /-- Cosine in radians. (R201) -/
  | fcos (t : TOp)
  /-- Hyperbolic tangent. (R201) -/
  | ftanh (t : TOp)
  /-- Two-element dot product with accumulate, using the group sum. (R203) -/
  | fdot2 (t : TOp)
  /-- Four-element 8-bit float dot product with accumulate. (R203) -/
  | fdot4 (t : TOp)
  /-- Multiplies by a scale read as e8m0, e4m3 or a power of two. (R204) -/
  | fscale (t : TOp)
  /-- Rounds to an integral value in the same format. (R205) -/
  | fround (t : TOp)
  /-- Converts between the listed types. (R206) -/
  | cvt (t : TOp)
  /-- Writes one packed element of a narrow or LC16 type, keeping the other elements. (R207) -/
  | pack (t : TOp)
  /-- Reads one packed element into f32 or a 32-bit integer. (R208) -/
  | unpack (t : TOp)
  /-- Enqueues a load of a format block into a format register and marks it LOADING. (R225) -/
  | tfmt (t : TOp)
  /-- Checks and enqueues a tile matrix task with a copy of its format block. (R226) -/
  | tmma (t : TOp)
  /-- Enqueues zeroing of accumulator buffers and sets their format. (R229) -/
  | tzero (t : TOp)
  /-- Enqueues a copy of buffer rows into vector registers. (R230) -/
  | trd (t : TOp)
  /-- Reads a register run and enqueues its copy into buffer rows. (R230) -/
  | twr (t : TOp)
  /-- Enqueues a 2:4 structured compression of a dense operand. (R231) -/
  | tcmp (t : TOp)
  /-- Enqueues a bitmap compression of a dense operand. (R232) -/
  | tbmp (t : TOp)
  /-- Enqueues a multicast copy of a scratchpad range to blocks of the cluster. (R234) -/
  | tmc (t : TOp)
  /-- Reads buffer or format-register status at issue. (R235) -/
  | tstat (t : TOp)
  /-- Cancels earlier incomplete tmma records that name the given buffers. (R236) -/
  | tcan (t : TOp)
  /-- Takes ownership of a crossbar array. (R252) -/
  | xown (t : TOp)
  /-- Releases ownership of a crossbar array after its earlier records. (R252) -/
  | xrel (t : TOp)
  /-- Enqueues programming of an array from a weight image. (R253) -/
  | xprog (t : TOp)
  /-- Enqueues a readback that counts weights differing from an image. (R254) -/
  | xverify (t : TOp)
  /-- Enqueues one analogue matrix-vector product on an array. (R255) -/
  | xmv (t : TOp)
  /-- Enqueues a product that is shifted and added to accumulator registers. (R255) -/
  | xmva (t : TOp)
  /-- Enqueues a recalibration of an array. (R257) -/
  | xcal (t : TOp)
  /-- Enqueues a reference product that reports reference errors and temperature. (R257) -/
  | xref (t : TOp)
  /-- Reads array status or the drift record at issue. (R258) -/
  | xstat (t : TOp)
  /-- Copies a bounded register and sets tag E. (R260) -/
  | xfix (t : TOp)
  /-- Writes a register's tag to a scalar. (R260) -/
  | xbnd (t : TOp)
  /-- Checks every active lane and loads from the resolved space. (R286) -/
  | ld (t : TOp)
  /-- Checks every active lane and stores with a byte mask. (R286) -/
  | st (t : TOp)
  /-- Loads a run of registers with a stride, with progress in PIDX. (R289) -/
  | ldg (t : TOp)
  /-- Stores a run of registers with a stride, with progress in PIDX. (R289) -/
  | stg (t : TOp)
  /-- Loads a whole register together with its tag. (R290) -/
  | ldt (t : TOp)
  /-- Stores a whole register together with its tag into both lines' tag bytes. (R290) -/
  | stt (t : TOp)
  /-- Store that is serialised and multicast to every replica through a replica-direct alias. (R292) -/
  | stmc (t : TOp)
  /-- Prefetches lines into a level, dropping failing lanes. (R293) -/
  | pf (t : TOp)
  /-- Drops clean copies of lines from L1 or the die cache. (R293) -/
  | cinv (t : TOp)
  /-- Writes dirty lines from the home slice to DRAM or pool memory. (R293) -/
  | cwb (t : TOp)
  /-- Sets the block's number of scratchpad extension ways. (R280) -/
  | spcfg (t : TOp)
  /-- Writes the global alias of each lane's private byte. (R274) -/
  | palias (t : TOp)
  /-- Reads the metadata image of each lane's line. (R308) -/
  | mdld (t : TOp)
  /-- Writes named metadata fields of each lane's line. (R308) -/
  | mdst (t : TOp)
  /-- Holds the wave until the release and acquire work of its scope is done. (R318) -/
  | fence (t : TOp)
  /-- Holds the wave until its earlier operations of the named kinds complete, then raises their deferred causes. (R319) -/
  | fjoin (t : TOp)
  /-- Atomic read-modify-write that returns the old value, per lane in ascending order. (R337) -/
  | amo (t : TOp)
  /-- Atomic compare-and-swap on bit patterns. (R338) -/
  | cas (t : TOp)
  /-- Atomic reduction that returns nothing. (R337) -/
  | red (t : TOp)
  /-- Atomic update of one nibble of a byte. (R339) -/
  | amonib (t : TOp)
  /-- Appends a load entry to the wave's atomic-region list. (R340) -/
  | aregLd (t : TOp)
  /-- Appends a store entry with its data to the wave's atomic-region list. (R340) -/
  | aregSt (t : TOp)
  /-- Performs the region list as one indivisible step per lane at the home slice and empties it. (R341) -/
  | aregGo (t : TOp)
  /-- Arrives at a named barrier as a release. (R346) -/
  | barv (t : TOp)
  /-- Waits while the barrier's phase bit equals the parity, then acquires. (R346) -/
  | barw (t : TOp)
  /-- Arrives and waits for the new phase. (R346) -/
  | bars (t : TOp)
  /-- Reads the barrier's phase and arrival counts. (R346) -/
  | barq (t : TOp)
  /-- Holds the wave until a memory condition holds in every active lane. (R349) -/
  | waitm (t : TOp)
  /-- Holds the wave until a completion flag clears, joining its operations. (R351) -/
  | waitf (t : TOp)
  /-- Makes the wave ineligible for a number of cycles. (R351) -/
  | nap (t : TOp)
  /-- Checks and queues a linear bulk copy on the copy engine. (R356) -/
  | cpy (t : TOp)
  /-- Checks and queues a strided two-dimensional copy. (R356) -/
  | cpy2 (t : TOp)
  /-- Checks and queues a per-lane gather copy. (R356) -/
  | cpyg (t : TOp)
  /-- Binds a command chain and appends records up to a new tail. (R364) -/
  | chapp (t : TOp)
  /-- Reads a chain's DONE count as an acquire. (R365) -/
  | chseq (t : TOp)
  /-- Queues a type 3 event to the core's cox. (R366) -/
  | evpost (t : TOp)
  /-- Sends remote-store packets per destination line to another package. (R376) -/
  | rst (t : TOp)
  /-- Sends an ordered flag packet that carries the count of earlier remote stores. (R377) -/
  | rstf (t : TOp)
  /-- Holds the wave until every remote-store packet it sent is acknowledged. (R379) -/
  | rfence (t : TOp)
  /-- Withdraws the lowest unplaced block of a privwork launch for the calling block. (R443) -/
  | getwork (t : TOp)
  /-- Reads a special register. (R412) -/
  | srd (t : TOp)
  /-- Writes a special register under its access code. (R412) -/
  | swr (t : TOp)
  /-- Delivers the next held cause, or pops the TRAP entry and resumes at the faulting point. (R408) -/
  | eret (t : TOp)
  /-- Returns from the handler past the word that the TRAP entry names. (R408) -/
  | eretSkip (t : TOp)
  /-- Stops the wave for the debugger, or raises cause 0x1C1. (R414) -/
  | brk (t : TOp)
  /-- Invalidates every translation of the wave's context. (R303) -/
  | tlbiCtx (t : TOp)
  /-- Invalidates the translations of one page of the context. (R303) -/
  | tlbiPage (t : TOp)
  /-- Invalidates the translations of a range of pages of the context. (R303) -/
  | tlbiRange (t : TOp)
  /-- Reads a TREC word or a word of the context's error-record view. (R413) -/
  | erd (t : TOp)
  /-- Writes the wave's registers to spill slots and its wave record, in handler mode. (R421) -/
  | ctxs (t : TOp)
  /-- Checks a wave record and restores registers from it, in handler mode. (R421) -/
  | ctxr (t : TOp)
  /-- Halts the block for the debugger, or exits the wave with the in-band error wave halted. (R415) -/
  | hlt (t : TOp)
  /-- Scarab opens row ROW(b) of a bank. (R390) -/
  | rowact (t : TOp)
  /-- Scarab closes a bank. (R390) -/
  | rowpre (t : TOp)
  /-- Scarab loads a burst of an open bank into a vector register. (R390) -/
  | rowld (t : TOp)
  /-- Scarab stores a vector register into a burst of an open bank. (R390) -/
  | rowst (t : TOp)
  /-- Scarab sends a 256-byte collective message to another scarab. (R394) -/
  | colsend (t : TOp)
  /-- Scarab waits for and takes a matching buffered message. (R395) -/
  | colrecv (t : TOp)
  /-- Scarab takes a matching message and combines it with a register. (R395) -/
  | colred (t : TOp)
  /-- Pushes the scarab mask stack and narrows EXEC by a mask. (R392) -/
  | mif (t : TOp)
  /-- Switches EXEC to the untaken lanes of the top mask entry. (R392) -/
  | melse (t : TOp)
  /-- Pops the scarab mask stack and restores EXEC. (R392) -/
  | mend (t : TOp)
  /-- Cox register add. (R85) -/
  | coxAdd (d : BitVec 5) (a : BitVec 5) (b : BitVec 5)
  /-- Cox register subtract. (R85) -/
  | coxSub (d : BitVec 5) (a : BitVec 5) (b : BitVec 5)
  /-- Cox bitwise AND. (R85) -/
  | coxAnd (d : BitVec 5) (a : BitVec 5) (b : BitVec 5)
  /-- Cox bitwise OR. (R85) -/
  | coxOr (d : BitVec 5) (a : BitVec 5) (b : BitVec 5)
  /-- Cox bitwise XOR. (R85) -/
  | coxXor (d : BitVec 5) (a : BitVec 5) (b : BitVec 5)
  /-- Cox shift left by gB[5:0]. (R85) -/
  | sll (d : BitVec 5) (a : BitVec 5) (b : BitVec 5)
  /-- Cox logical shift right. (R85) -/
  | srl (d : BitVec 5) (a : BitVec 5) (b : BitVec 5)
  /-- Cox arithmetic shift right. (R85) -/
  | coxSra (d : BitVec 5) (a : BitVec 5) (b : BitVec 5)
  /-- Cox signed set-less-than. (R85) -/
  | slt (d : BitVec 5) (a : BitVec 5) (b : BitVec 5)
  /-- Cox unsigned set-less-than. (R85) -/
  | sltn (d : BitVec 5) (a : BitVec 5) (b : BitVec 5)
  /-- Cox multiply, low 64 bits. (R85) -/
  | coxMul (d : BitVec 5) (a : BitVec 5) (b : BitVec 5)
  /-- Cox signed multiply, high 64 bits. (R85) -/
  | coxMulh (d : BitVec 5) (a : BitVec 5) (b : BitVec 5)
  /-- Cox signed divide with defined edge results. (R85) -/
  | coxDiv (d : BitVec 5) (a : BitVec 5) (b : BitVec 5)
  /-- Cox signed remainder. (R85) -/
  | coxRem (d : BitVec 5) (a : BitVec 5) (b : BitVec 5)
  /-- Cox add of a sign-extended immediate. (R86) -/
  | addi (d : BitVec 5) (a : BitVec 5) (i : BitVec 16)
  /-- Cox AND with a zero-extended immediate. (R86) -/
  | andi (d : BitVec 5) (a : BitVec 5) (i : BitVec 16)
  /-- Cox OR with a zero-extended immediate. (R86) -/
  | ori (d : BitVec 5) (a : BitVec 5) (i : BitVec 16)
  /-- Cox XOR with a zero-extended immediate. (R86) -/
  | xori (d : BitVec 5) (a : BitVec 5) (i : BitVec 16)
  /-- Cox shift left by an immediate. (R86) -/
  | slli (d : BitVec 5) (a : BitVec 5) (s : BitVec 6)
  /-- Cox logical shift right by an immediate. (R86) -/
  | srli (d : BitVec 5) (a : BitVec 5) (s : BitVec 6)
  /-- Cox arithmetic shift right by an immediate. (R86) -/
  | srai (d : BitVec 5) (a : BitVec 5) (s : BitVec 6)
  /-- Cox bit field extract. (R87) -/
  | ext (d : BitVec 5) (a : BitVec 5) (p : BitVec 6) (l : BitVec 6)
  /-- Cox bit field insert. (R87) -/
  | ins (d : BitVec 5) (a : BitVec 5) (p : BitVec 6) (l : BitVec 6)
  /-- Cox load of an upper immediate. (R88) -/
  | lui (d : BitVec 5) (i : BitVec 21)
  /-- Cox PC plus an upper immediate. (R88) -/
  | apc (d : BitVec 5) (i : BitVec 21)
  /-- Cox sign-extending byte load. (R89) -/
  | ldB (d : BitVec 5) (a : BitVec 5) (i : BitVec 16)
  /-- Cox sign-extending halfword load. (R89) -/
  | ldH (d : BitVec 5) (a : BitVec 5) (i : BitVec 16)
  /-- Cox sign-extending word load. (R89) -/
  | ldW (d : BitVec 5) (a : BitVec 5) (i : BitVec 16)
  /-- Cox doubleword load. (R89) -/
  | ldD (d : BitVec 5) (a : BitVec 5) (i : BitVec 16)
  /-- Cox zero-extending byte load. (R89) -/
  | ldBn (d : BitVec 5) (a : BitVec 5) (i : BitVec 16)
  /-- Cox zero-extending halfword load. (R89) -/
  | ldHn (d : BitVec 5) (a : BitVec 5) (i : BitVec 16)
  /-- Cox zero-extending word load. (R89) -/
  | ldWn (d : BitVec 5) (a : BitVec 5) (i : BitVec 16)
  /-- Cox byte store into the store buffer. (R89) -/
  | stB (b : BitVec 5) (a : BitVec 5) (i : BitVec 16)
  /-- Cox halfword store. (R89) -/
  | stH (b : BitVec 5) (a : BitVec 5) (i : BitVec 16)
  /-- Cox word store. (R89) -/
  | stW (b : BitVec 5) (a : BitVec 5) (i : BitVec 16)
  /-- Cox doubleword store. (R89) -/
  | stD (b : BitVec 5) (a : BitVec 5) (i : BitVec 16)
  /-- Cox atomic read-modify-write, performed at the home slice or in local memory. (R91) -/
  | coxAmo (d : BitVec 5) (a : BitVec 5) (b : BitVec 5) (o : BitVec 4) (s : BitVec 3) (z : BitVec 1) (r : BitVec 2)
  /-- Cox fence at a scope, draining the store buffer for a release. (R92) -/
  | coxFence (s : BitVec 3) (r : BitVec 2)
  /-- Cox branch if equal. (R93) -/
  | beq (a : BitVec 5) (b : BitVec 5) (i : BitVec 16)
  /-- Cox branch if not equal. (R93) -/
  | bne (a : BitVec 5) (b : BitVec 5) (i : BitVec 16)
  /-- Cox branch if less than, signed. (R93) -/
  | blt (a : BitVec 5) (b : BitVec 5) (i : BitVec 16)
  /-- Cox branch if greater or equal, signed. (R93) -/
  | bge (a : BitVec 5) (b : BitVec 5) (i : BitVec 16)
  /-- Cox branch if less than, unsigned. (R93) -/
  | bltn (a : BitVec 5) (b : BitVec 5) (i : BitVec 16)
  /-- Cox branch if greater or equal, unsigned. (R93) -/
  | bgen (a : BitVec 5) (b : BitVec 5) (i : BitVec 16)
  /-- Cox jump and link. (R93) -/
  | jal (d : BitVec 5) (i : BitVec 21)
  /-- Cox indirect jump and link. (R93) -/
  | jalr (d : BitVec 5) (a : BitVec 5) (i : BitVec 16)
  /-- Cox CSR read. (R94) -/
  | csrr (d : BitVec 5) (c : BitVec 12)
  /-- Cox CSR write under the CSR's access code. (R94) -/
  | csrw (a : BitVec 5) (c : BitVec 12)
  /-- Raises cox trap cause 0x187 with a code. (R94) -/
  | coxTrap (i : BitVec 16)
  /-- Returns from the cox handler to XEPC. (R94) -/
  | coxEret
  /-- Cox waits for an event, a cycle limit or a save request. (R94) -/
  | wfe (a : BitVec 5)
  /-- Pops the oldest cox event into a register pair. (R94) -/
  | evq (d : BitVec 4)
  /-- Sets the clause buffer header and empties its words. (R102) -/
  | hdr (a : BitVec 5) (i : BitVec 16)
  /-- Composes an instruction word for a dictionary entry from hole values. (R104) -/
  | cmpw (d : BitVec 5) (a : BitVec 5) (b : BitVec 5) (n : BitVec 3)
  /-- Appends one word to the clause buffer. (R103) -/
  | emw (a : BitVec 5)
  /-- Appends two words to the clause buffer. (R103) -/
  | emw2 (a : BitVec 5) (b : BitVec 5)
  /-- Commits the buffered clause to the code arena and invalidates the die's instruction caches. (R106) -/
  | emc (d : BitVec 5) (a : BitVec 5)
  /-- Commits the buffered clause to a wave slot's injection queue, stalling for room. (R107) -/
  | ems (d : BitVec 5) (a : BitVec 5)
  /-- Commits to an injection queue, or returns busy without waiting. (R107) -/
  | emsC (d : BitVec 5) (a : BitVec 5)
  /-- Loads a dictionary image into a core slot and returns a status. (R117) -/
  | dld (d : BitVec 5) (a : BitVec 5) (n : BitVec 3)
  /-- Starts waves of a placed block from a spawn descriptor. (R119) -/
  | spawn (d : BitVec 5) (a : BitVec 5) (b : BitVec 5)
  /-- Copies a stock clause group into the arena with patched holes. (R109) -/
  | stk (d : BitVec 5) (a : BitVec 5) (i : BitVec 16)
  /-- Umpire maps a user queue into a hardware queue slot. (R438) -/
  | qmap (d : BitVec 5) (a : BitVec 5) (b : BitVec 5)
  /-- Umpire writes the queue indices back and frees a hardware queue slot. (R438) -/
  | qunmap (d : BitVec 5) (a : BitVec 5)
  /-- Umpire finds and clears the next set pending-kick bit. (R438) -/
  | kscan (d : BitVec 5) (a : BitVec 5)
  /-- Umpire appends a record to the journal in protected HBM. (R438) -/
  | japp (d : BitVec 5) (a : BitVec 5)
  /-- Umpire copies a journal record to local memory. (R438) -/
  | jsync (d : BitVec 5) (a : BitVec 5) (b : BitVec 5)
  /-- Umpire posts an admitted launch to the distributors of its die mask. (R438) -/
  | lpost (d : BitVec 5) (a : BitVec 5)
  /-- Umpire cancels the launches at or below a level. (R438) -/
  | lcan (d : BitVec 5) (a : BitVec 5) (l : BitVec 2)
  /-- Umpire holds completion records in SRAM, or writes the kept records out. (R438) -/
  | hold (a : BitVec 5)
  /-- At a clause boundary the wave takes an injected or fetched clause, decodes it and starts it once its WAIT flags clear. (R38) -/
  | clauseStart (g : Agent)
  /-- When the running path's count reaches PQUANT at a clause boundary, the quadrant starts the next live path. (R129) -/
  | pathSwitch (k : Nat)
  /-- A brd.cmp meeting closes 4,096 cycles after its first arrival, and the groups are repacked. (R132) -/
  | compactionMeetingTimeout (b : Nat)
  /-- The driver maps the page and the wave reissues the word, or declines and the wave takes cause 0x082. (R273) -/
  | privateGrowthResolved (k : Nat) (mapped : Bool)
  /-- A wave ready and unissued for 2,048 cycles is raised to level 2. (R444) -/
  | issueAgePromote (k : Nat)
  /-- A nap's cycle count runs out and the wave becomes eligible again. (R351) -/
  | napExpire (k : Nat)
  /-- A wfe returns after gA cycles with no event. (R94) -/
  | wfeTimeout (c : Nat)
  /-- A load's data returns and its destination is written, completing the operation and counting its flag down. (R285) -/
  | loadDataReturn (g : Agent) (id : Nat) (err : Bool)
  /-- A store is acknowledged at its home slice, completing it. (R285) -/
  | storeAck (g : Agent) (id : Nat)
  /-- A home slice applies a store with its byte mask, write-through from the core. (R276) -/
  | storeApplyHome (g : Agent) (id : Nat)
  /-- A line fill arrives and installs, unless the line was invalidated while it was outstanding. (R278) -/
  | cacheFill (c line : Nat)
  /-- The executing unit reads, computes and writes an atomic indivisibly and returns the old value. (R332) -/
  | atomicPerform (k id : Nat) (done : LanesDone)
  /-- A waiting wave polls its line every 128 cycles and is parked after 64 failed polls. (R350) -/
  | waitmPoll (k : Nat)
  /-- Once LAST has been spawned and every wave and tile operation has ended, the block is reported and a type 5 event is queued. (R120) -/
  | blockFinish (b : Nat)
  /-- A dictionary load ends READY or EMPTY with its status, and waiting dsel words proceed or fault. (R62) -/
  | dictLoadEnd (c n : Nat)
  /-- The scheduler starts the oldest ready tile record on a free engine or port. (R216) -/
  | tileRecordStart (c : Nat)
  /-- A format block load ends and its register becomes READY or INVALID. (R214) -/
  | tfmtLoadEnd (c id : Nat)
  /-- A tile task finishes its groups, writes out, adds its counter and completes. (R228) -/
  | tmmaTaskComplete (c : Nat) (r : RecEnd)
  /-- A cancelled running task stops at its next group boundary and poisons its buffers. (R236) -/
  | tmmaCancelStop (c id : Nat)
  /-- Buffers are zeroed and their poison cleared. (R229) -/
  | tzeroComplete (c id : Nat)
  /-- Buffer rows are converted and written into the register run. (R230) -/
  | trdComplete (c id : Nat)
  /-- Register rows are written into the buffer. (R230) -/
  | twrComplete (c id : Nat)
  /-- A 2:4 compression is written and the lost count returned. (R231) -/
  | tcmpComplete (c : Nat) (r : RecEnd)
  /-- A bitmap compression is written and the kept count returned. (R232) -/
  | tbmpComplete (c : Nat) (r : RecEnd)
  /-- A multicast copy finishes every destination and releases at cluster scope. (R234) -/
  | tmcComplete (c : Nat) (r : RecEnd)
  /-- After its earlier records complete, a released array becomes unowned and EMPTY. (R252) -/
  | xrelTakesEffect (c x : Nat)
  /-- Array programming finishes its rows and calibration, or fails with an error code. (R253) -/
  | xprogComplete (c x : Nat) (missRow : Option Nat) (calOk : Bool) (temp : BitVec 16)
  /-- A readback finishes and writes the mismatch count. (R254) -/
  | xverifyComplete (c x : Nat)
  /-- A crossbar product completes, writing results with a bounded or poisoned tag and recording drift. (R255) -/
  | xmvComplete (c x : Nat) (delta refMeas : List Int)
  /-- A calibration finishes, or marks the array FAILED. (R257) -/
  | xcalComplete (c x : Nat) (calOk : Bool) (temp : BitVec 16)
  /-- A reference product completes and writes the reference errors. (R257) -/
  | xrefComplete (c x : Nat) (refMeas : List Int) (temp : BitVec 16)
  /-- A copy finishes, releases at its scope and may queue a type 4 event. (R359) -/
  | copyComplete (c id : Nat) (err : Bool)
  /-- Chain record NOP completes with no effect. (R362) -/
  | chainNop (c ch seq : Nat)
  /-- Chain record COPY runs as cpy. (R362) -/
  | chainCopy (c ch seq : Nat)
  /-- Chain record COPY2 runs as cpy2. (R362) -/
  | chainCopy2 (c ch seq : Nat)
  /-- Chain record ADD adds to an n64 at its home as a release. (R362) -/
  | chainAdd (c ch seq : Nat)
  /-- Chain record WAIT completes when an n64 reaches a value, as an acquire. (R362) -/
  | chainWait (c ch seq : Nat)
  /-- Chain record EVENT queues a type 4 event. (R362) -/
  | chainEvent (c ch seq : Nat)
  /-- A record with an undefined OP or bad fields completes with ERR 8. (R362) -/
  | chainBadRecord (c ch seq : Nat)
  /-- A destination home slice applies a remote-store packet and notifies the keeper. (R376) -/
  | remoteStorePacket (src : Nat) (epoch : Bool) (line : OutAddr) (mask : BitVec 128) (data : BitVec 1024)
  /-- The keeper counts an applied packet and lets its acknowledgement go. (R378) -/
  | keeperNotice (src : Nat) (epoch : Bool)
  /-- The keeper applies a flag store once its count of applied packets is reached. (R378) -/
  | keeperFlag (src : Nat) (epoch : Bool) (count : Nat) (addr : OutAddr) (size : Nat) (data : DWord)
  /-- The keeper resets a wave's counter on a clear once its count is reached. (R378) -/
  | keeperClear (src : Nat) (epoch : Bool) (count : Nat)
  /-- A flag or clear held for TIMEOUT is abandoned and negatively acknowledged. (R378) -/
  | keeperTimeout (src : Nat) (epoch : Bool)
  /-- A failed keeper entry is freed after twice TIMEOUT. (R378) -/
  | keeperEntryFree (src : Nat)
  /-- A positive or negative acknowledgement for a remote-store packet reaches the source. (R376) -/
  | remoteAck (k id : Nat) (neg : Bool)
  /-- A flit failing its CRC is discarded and the sender replays from it. (R372) -/
  | flitReplay (r : LinkReplay)
  /-- A failing port lane is replaced by the spare, or a second failure takes the port DOWN. (R373) -/
  | portLaneFail (n : Nat) (lane : BitVec 4)
  /-- A request through a failed peer port completes as a timeout after TIMEOUT. (R381) -/
  | peerTimeout (g : Agent) (id n : Nat)
  /-- On the fabric manager's report of a lost package, keepers discard its entries and flags. (R381) -/
  | peerPackageLost (p : Nat)
  /-- Setting PORTCTL.DRAIN puts the port into DRAINING. (R380) -/
  | portDrain (n : Nat)
  /-- Clearing DRAIN on a DRAINED port retrains it. (R374) -/
  | portRetrain (n : Nat)
  /-- When messages on a draining port have finished, its STATE becomes DRAINED. (R380) -/
  | portDrained (n : Nat)
  /-- A host CXL.mem access is served at the home slice with back-invalidation. (R448) -/
  | hostAccess (write : Bool) (addr : OutAddr) (data : List Byte)
  /-- An inbound peer access is served at its home or refused with an error record. (R298) -/
  | peerAccess (write : Bool) (addr : OutAddr) (data : List Byte)
  /-- A walker walks the page tables and installs the translation or faults. (R302) -/
  | tlbWalk (c : Nat) (va : DWord)
  /-- Every 2^20 base-die cycles the bloom filters clear and pinned windows age or fade. (R310) -/
  | epochBoundary
  /-- A write to MSCWCTL enables or disables a pinned window, or sets REFUSED. (R311) -/
  | mscwEnable (n : Nat) (v : DWord)
  /-- The fabric manager grants a pool extent. (R312) -/
  | extentGrant (n base size : Nat)
  /-- A release drains and writes back an extent before it is acknowledged. (R313) -/
  | extentRelease (n : Nat)
  /-- A forced release revokes an extent and drops its dirty lines. (R313) -/
  | extentForcedRelease (n : Nat)
  /-- A scarab block starts one wave on each scarab of its stack. (R388) -/
  | scarabBlockStart (l stack : Nat)
  /-- A collective message is placed in a destination buffer and acknowledged. (R394) -/
  | collMessageArrive (dst : Nat) (from_ : CollFrom) (src : DWord) (grp : BitVec 16) (data : List Word)
  /-- A message with no bound scarab is refused after PEERTO. (R394) -/
  | collHoldTimeout (k id : Nat)
  /-- A receive wait that passes PEERTO raises cause 0x151. (R395) -/
  | colrecvTimeout (k : Nat)
  /-- A scarab fault or cancel stops every scarab of the launch at its next clause boundary. (R397) -/
  | scarabFaultStop (l : Nat)
  /-- The umpire installs a context on a cox, which starts its generator. (R100) -/
  | contextInstall (c ctx : Nat)
  /-- The umpire stops and saves every part of a context and removes it from its cores. (R417) -/
  | contextSave (ctx : Nat)
  /-- A saved context is restored onto qualifying cores in reverse order. (R418) -/
  | contextRestore (ctx : Nat) (cores : List (Nat × Nat))
  /-- A completed launch's context is removed and its TLB entries invalidated. (R433) -/
  | contextRemove (ctx : Nat)
  /-- A queue that has held its slot for QUANT is saved and unmapped for a waiting queue. (R432) -/
  | queueQuantumExpire (q : Nat)
  /-- A doorbell write sets the queue's pending-kick bit. (R428) -/
  | doorbellWrite (d : Doorbell)
  /-- The umpire consumes a launch record from a command ring. (R429) -/
  | launchRecord (slot : Nat)
  /-- A cancel record cancels launches at a level. (R436) -/
  | cancelRecord (slot : Nat)
  /-- A malformed record is skipped and consumed with a status-1 completion. (R429) -/
  | badCommandRecord (slot : Nat)
  /-- A launch that fits its account and the power cap is admitted with a context. (R434) -/
  | launchAdmit (l ctx : Nat) (arena arenaSize : DWord) (powerFits : Bool)
  /-- A distributor places a block on a suitable core and queues a type 1 event. (R440) -/
  | blockPlacement (die : Nat)
  /-- The distributor later writes the withdrawn block's index and READY into the mailbox. (R443) -/
  | getworkMailbox (k : Nat)
  /-- When every block has ended, the launch and any levels above it complete. (R435) -/
  | launchComplete (l energy : Nat)
  /-- A completion record is written to CRING and CWRIDX advances, or it is held while the ring is full or unwritable. (R435) -/
  | completionRecordWrite (q : Nat)
  /-- The active umpire journals a heartbeat every 10 µs. (R445) -/
  | journalHeartbeat
  /-- The standby takes over when the active umpire double-faults or reads an uncorrected error. (R445) -/
  | umpireTakeoverFault
  /-- The standby takes over after 100 µs without a journal record. (R445) -/
  | umpireTakeoverSilence
  /-- A shadow latch sees a late transition and replays the cycle at half clock. (R426) -/
  | timingReplay (n : Nat)
  /-- After 2^24 cycles without a storm, an island raises its frequency by one step. (R426) -/
  | replayStepUp (n : Nat)
  /-- Each energy meter adds its count every 1 µs. (R450) -/
  | meterTick (n energy : Nat)
  /-- Every 100 µs the anchor die divides the cap among the islands into LIMW. (R452) -/
  | capDistribute (weights : List Nat)
  /-- The rack controller writes CAPCFG over SMBus, unless it is locked. (R452) -/
  | capcfgWrite (v : DWord)
  /-- The driver writes USED, applied before any same-cycle hardware addition. (R451) -/
  | acctuseWrite (n : Nat) (v : DWord)
  /-- Writing 1 to VALID frees an error record. (R459) -/
  | errorRecordFree (bank n : Nat)
  /-- Power request that restores the package to A0. (R455) -/
  | pkgA0
  /-- Power request that saves every context, zeroes on-chip state and puts HBM into self-refresh. (R455) -/
  | pkgA2
  /-- Power request that powers off every island and the HBM, unless work is present. (R455) -/
  | pkgA3
  /-- Power request that returns an island to service. (R455) -/
  | islandReturn (n : Nat)
  /-- Power request that gates an island after saving its contexts. (R455) -/
  | islandGate (n : Nat)
  /-- Power request that returns a stack's channels to service. (R455) -/
  | stackReturn (n : Nat)
  /-- Power request that puts every channel of a stack into self-refresh. (R455) -/
  | stackSelfRefresh (n : Nat)
  /-- Power request that powers off a stack, refused while a scarab is live. (R455) -/
  | stackPowerOff (n : Nat)
  /-- Power request that returns a channel to service, restoring its scarab. (R455) -/
  | channelReturn (n ch : Nat)
  /-- Power request that puts a channel into self-refresh. (R399) -/
  | channelSelfRefresh (n ch : Nat)
  /-- Power request that powers off a channel, refused while a scarab is live. (R455) -/
  | channelPowerOff (n ch : Nat)
  /-- A power request with an unlisted target, kind or index completes with STATUS 5. (R455) -/
  | pwrreqMalformed (v : DWord)
  /-- A request to change the debug state, refused where the state table forbids it. (R454) -/
  | debugRequest (mode : BitVec 2)
  /-- A confidential-guest bind of a virtual function. (R454) -/
  | tdispBind (vf : Nat)
  /-- A signed command fuses the lifecycle forward, erasing everything at Returned. (R453) -/
  | lifecycleAdvance (signed : Bool)
  /-- Package reset runs secure boot, trains links and resets counters and registers. (R457) -/
  | packageReset (verified : Bool)
  /-- A compute die fails, its launches complete with errors and its barriers break. (R21) -/
  | computeDieFailure (die : Nat)
  /-- The anchor die is lost, so no queue is scanned and the islands keep their last limits. (R22) -/
  | anchorDieLoss
  /-- A stack base die is lost, which raises an uncorrected error and refuses new launches. (R23) -/
  | stackBaseDieLoss (stack : Nat)
  /-- A write to a register with no row of its own, applied under its access code. (R4) -/
  | registerWrite (r : MgmtReg) (v : DWord)
  /-- At the end of each window of 2^20 island cycles the island's replay COUNT starts a new window. (R426) -/
  | replayWindowEnd (n : Nat)
  /-- The debugger releases a wave stopped by brk, or a block halted by hlt, and it resumes issuing. (R414) -/
  | debuggerRelease (k : DebugGo)
  /-- The debugger arms or disarms breakpoints for a launch, which decides whether brk stops the wave or raises cause 0x1C1. (R414) -/
  | breakpointArm (l : Nat) (on : Bool)
  /-- The host acknowledges a back-invalidation snoop, which lets the waiting store and any sy release complete. (R448) -/
  | backInvalidationResponse (line : Nat)
  /-- An authenticated SPDM session is established or ended, which decides whether halt-and-inspect is allowed in Provisioned and Deployed. (R454) -/
  | spdmSession (on : Bool)
  /-- A virtual function leaves the TDISP RUN state, so CONF can return to 0. (R457) -/
  | tdispRunExit (vf : Nat)
  /-- A port ends link training and its STATE moves from TRAINING to UP. (R374) -/
  | portTrainingComplete (n : Nat)
  deriving DecidableEq, Repr

/-- Where an error strikes that no check corrects (18 R411, 20 R456): a lane of a vector register of a wave slot, a scalar or mask register
of one, a register of a cox, a byte of a block's scratchpad, a byte of memory. -/
inductive Upset where
  | vector (k p lane : Nat) | scalar (k i : Nat) | mask (k i : Nat) | cox (c i : Nat) | scratchpad (blk off : Nat) | memory (pa : Nat)
  deriving DecidableEq, Repr

/-- What moves next: an agent issues its next instruction, an event of the table happens, or an error strikes. -/
inductive Turn where
  | agent (g : Agent) | event (i : Instr) | upset (u : Upset)
  deriving DecidableEq, Repr, Inhabited

end Sys2Proof
end

