-- ==== Sys2Proof/Config.lean ====
section
/-! DEFINITION. The free values: what the spec leaves open and the machine still has a value for. Each is a constant
with no body, so no proof can see it and a claim about it holds for every value. -/

namespace Sys2Proof.Config

/-- The free values of a step: by the step's number State.tick and an index within it (assumption 4): open results of
races, whether a clean copy of a line is still held, which word an overlapping fetch returns. -/
opaque freeValue : Nat → Nat → DWord

/-- Which turn is taken when the agenda lists none (assumption 4). -/
opaque arbiter : Nat → Turn

/-- Core cycles of 1.2 GHz that pass in a step (assumption 5: timing is left out, the counters still rise). -/
opaque elapsed : Nat → Nat

/-- `frsq` in f64 (true) and f32 lies within 1 ulp (09 R201): the result proposed for an operand's bits. -/
opaque frsq : Bool → DWord → DWord

/-- The part of an f32 transcendental the bounds of 09 R201 leave open, by operation number and operand bits. -/
opaque transcendental : Nat → Word → Word

/-- The voltage and clock an island is brought up with, in mV and MHz: the spec states no reset value (20 R450). -/
opaque islandMv : Nat → BitVec 16
opaque islandMhz : Nat → BitVec 16

/-- The error code of each kind of error and the syndrome of a record: the spec gives neither (20 R459). -/
opaque errCode : Nat → BitVec 16
opaque syndrome : Nat → DWord

/-- The package's serial number, and the digest of a firmware image by the number of the boot (20 R457, R460). -/
opaque serial : DWord
opaque firmware : Nat → BitVec 384

end Sys2Proof.Config
end

