-- ==== Sys2Proof/Machine/State.lean ====
section
/-! DEFINITION. The state of one Hexrorvo G48 package as plain data: waves, blocks, coxes, cores with their engines,
dies, home memory, fabric, scarabs, scheduling, power, security and error records; the reasons a step can stop; and
the state after package reset. Sparse collections are tables (Word.lean). Fields marked (model) are not the spec's. -/

namespace Sys2Proof.Machine

/-! ## Accesses in flight -/

/-- Where one byte of an access lies: a physical byte under the grade of the mapping that reached it, with the bytes of
the further replicas a store also writes (12 R291), or a byte of a block's scratchpad (12 R271). -/
inductive Loc where
  | phys (pa : Nat) (g : Grade) (others : List Nat)
  | spad (blk off : Nat)
  deriving DecidableEq, Repr

/-- The bytes one lane touches, lowest first, with the value it stores. -/
structure Part where
  lane : Nat
  locs : List Loc
  data : DWord
  deriving DecidableEq, Repr

/-- A register of a wave, for the dependences of 02 R41: a vector register by its physical slot. -/
inductive RegRef where
  | v (p : Nat) | s (i : Nat) | m (i : Nat)
  deriving DecidableEq, Repr

/-- Where a returning value goes: a vector register or pair (`n` its width in bytes), a scalar, or a whole register with
its tag (`ldt`). Vector registers by their window-relative index at issue resolved to a physical slot. -/
inductive LoadDst where
  | vec (p : Nat) (hi : Option Nat) | scal (i : Nat) | whole (p : Nat)
  deriving DecidableEq, Repr

/-- The read-modify-write of an atomic (15 R337 to R339), its scope and whether it acquires. -/
structure AtomSpec where
  aop : Nat
  fmt : Fmt
  nib : Bool
  cas : Bool
  scope : Nat
  acq : Bool
  deriving DecidableEq, Repr

/-- One member of an atomic region as `areg.go` performs it (15 R341). -/
structure RegionStep where
  ix : Nat                       -- the entry of the list it belongs to
  store : Bool
  part : Part
  dst : Option LoadDst
  deriving DecidableEq, Repr

/-- Kinds of outstanding operations, as `fjoin` names them (14 R319); `rst` stands outside. -/
inductive PendCls where
  | mem | tile | xbar | async | rst
  deriving DecidableEq, Repr

/-! ## Threads, releases and what they have seen (14 R315 to R327) -/

/-- The sorts of threads that scopes tell apart (14 R316, R317): those of a wave and of the engine operations it issued, coxes and
umpires, scarabs, the host, other packages. -/
inductive ThreadKind where
  | wave | engine | cox | scarab | host | peer
  deriving DecidableEq, Repr

/-- A thread as its scope instances name it: its wave, block, cluster and die. -/
structure Who where
  kind : ThreadKind
  id : Nat := 0
  launch : Nat := 0
  index : Nat := 0
  cluster : Nat := 0
  die : Nat := 0
  deriving DecidableEq, Repr

/-- A release: by whom, at which scope, and the stamp up to which it covers stores. -/
structure Rel where
  who : Who
  scope : Nat
  at_ : Nat
  deriving DecidableEq, Repr

/-- A write in the coherence order of a byte: its stamp, the value, the releases it carries, and of an atomic its thread and scope. -/
structure Write where
  at_ : Nat
  val : Byte
  rels : List Rel := []
  atom : Option (Who × Nat) := none
  deriving DecidableEq, Repr

/-- What an agent has seen of memory: it reads nothing overwritten at or before stamp `floor`, nor of a byte in `seen` at or before
its stamp; the releases its loads have read; its own releases, which its later stores carry; the stamp of the last engine operation
of its own to complete; and the 128-byte lines it has written since its last release at sy. -/
structure Sight where
  floor : Nat := 0
  seen : Tab Nat := []
  got : List Rel := []
  marks : List Rel := []
  joined : Nat := 0
  wrote : List Nat := []
  deriving DecidableEq, Repr

/-- What a store in the running step carries: the releases before it, and of an atomic its thread and scope. -/
structure Hand where
  rels : List Rel := []
  atom : Option (Who × Nat) := none
  deriving DecidableEq, Repr

/-- A cached copy of a line: its data, and of each 32-byte sector it holds the stamp as of which it was read, plus 1 (12 R276). -/
structure Copy where
  data : BitVec 1024 := 0
  secs : Tab Nat := []
  deriving DecidableEq, Repr

/-- An outstanding line miss of a core: the sectors of the line it fetches, whether a load without `.na` or `.hs` waits for it (R283),
and whether it still installs them in the L1 and in the die cache (12 R276 to R278). -/
structure Fill where
  line : Nat
  secs : List Nat
  fills : Bool := true
  inst : Bool := true
  die : Bool := true
  deriving DecidableEq, Repr

/-- What a read of some bytes gives: the value, whether any reported an uncorrected error, the worst line tag (11 R264). -/
structure Got where
  val : Nat
  bad : Bool
  tag : Byte
  deriving DecidableEq, Repr

/-- What is left to do of an outstanding operation. -/
inductive Work where
  | load (d : LoadDst) (parts : List Part) (cp : Nat)
  | store (parts : List Part) (tag : Option Byte) (applied : Bool)
  | atomic (sp : AtomSpec) (d : Option LoadDst) (parts : List Part) (cmp : List (Nat × DWord)) (got : List (Nat × Got))
  | region (steps : List RegionStep) (scope : Nat) (acq : Bool) (got : List (Nat × LoadDst × Nat × Got))
  | ways (n : Nat)
  | engine (rec : Nat)
  | packets (outstanding : List Nat)
  | collSend (dst : DWord) (data : List Word)
  | collRecv (d : Nat) (src : DWord) (lanes : BitVec 64) (op : Option (Nat × Fmt)) (other : List Word)
  deriving DecidableEq, Repr

/-- A request to another package awaiting its acknowledgement: the 128-byte line it names, the path it chose and the port of that path
(16 R375, R381). -/
structure FarReq where
  line : Nat
  path : Nat
  port : Nat
  deriving DecidableEq, Repr

/-- An outstanding operation of a wave (02 R40): the flag it attached to, the registers it will write (02 R41). -/
structure Pend where
  id : Nat
  flag : Option Nat
  cls : PendCls
  dst : List RegRef
  work : Work
  homes : List (Option Nat) := []   -- of a compacted wave: the home wave of each lane
  rels : List Rel := []             -- the releases that its stores carry (14 R320)
  port : Nat := 0                   -- of a store a bk release found accepted by the memory port: the step it did, plus 1 (14 R318)
  reqs : List FarReq := []          -- its requests to other packages (16 R375)
  hits : Tab (Option Copy) := []    -- of a load: the copies of lines it hit when it issued (12 R278)
  pc : DWord := 0                   -- of a scarab's row operation: the PC of its word (17 R391)
  deriving DecidableEq, Repr

/-- A cause found after issue, raised at the first word that observes it (18 R403): by reading one of `regs`, by waiting
on `flag`, by an `fjoin` of `cls`, by a release fence or an `rfence` where the cause says so (16 R381). -/
structure Deferred where
  cause : Nat
  detail : Nat
  regs : List RegRef
  flag : Option Nat
  cls : PendCls
  atFence : Bool := false
  atRfence : Bool := false
  pathIx : Nat := 0
  origin : Option Nat := none    -- the engine record that it stems from
  run : List Nat := []           -- vector registers of a drifted product's run, numbered from the bottom of the call stack (11 R256)
  deriving DecidableEq, Repr

/-! ## Waves -/

/-- An entry of the reconvergence stack (06 R125). Addresses are clause header addresses. `run` (model) marks the PATH
entry whose lanes are running. -/
inductive Entry where
  | reconv (jaddr : Option DWord) (tmask mask : Word)
  | path (addr : DWord) (pos : Nat) (mask : Word) (run : Bool)
  | frame (nsl : Nat) (mask : Word)
  | trap (addr : DWord) (pos : Nat) (cause : Nat) (mask : Word)
  | cpath (addr : DWord) (pos : Nat) (kidx : Nat) (taken : Bool) (mask : Word)
  deriving DecidableEq, Repr

/-- A word of a decoded clause: as fetched, with the dictionary entry its index named (03 R63, R65). -/
structure CWord where
  raw : Word
  entry : Option (BitVec 128)
  deriving DecidableEq, Repr

/-- The clause a wave is issuing: header, address of a fetched header, words, position of the next word, provenance
(05 R113) and whether it was injected. -/
structure Clause where
  hdr : Word
  addr : DWord
  words : List CWord
  pos : Nat
  prov : DWord
  inj : Bool
  deriving DecidableEq, Repr

/-- A clause of an injection queue (05 R110, R121). -/
structure InjClause where
  hdr : Word
  words : List Word
  prov : DWord
  ipos : Nat
  started : Bool
  at_ : Nat := 0        -- stamp of memory at its `ems`, a release at die scope (05 R116)
  deriving DecidableEq, Repr

/-- An entry of the atomic-region list (15 R340). -/
structure RegionEntry where
  store : Bool
  size : Nat
  exec : Word
  addrs : Vector DWord 32
  dst : Opnd
  data : Vector DWord 32
  deriving DecidableEq, Repr

/-- A remote-store destination of a wave (16 R376). -/
structure RemoteDst where
  pkg : Nat
  cnt : Nat
  epoch : Bool
  flagOut : Bool
  perPath : List Nat
  deriving DecidableEq, Repr

/-- Membership of a compacted wave (06 R133): group, path, index, and the home wave of the thread in each lane. -/
structure Comp where
  group : Nat
  taken : Bool
  kidx : Nat
  homes : Vector (Option Nat) 32
  deriving DecidableEq, Repr

/-- A cause to take, with its TCAUSE detail, the address and lanes of TREC, whether the resume point is the next clause
(`trap`, `brk`), and whether a poison was set in the block's present interval (18 R425). -/
structure Trapped where
  cause : Nat
  detail : Nat := 0
  addr : Nat := 0
  lanes : Nat := 0
  next : Bool := false
  fresh : Bool := false
  deriving DecidableEq, Repr

/-- Where a trap resumes: the entry's address and position, the position TCAUSE names, the clause's provenance. -/
structure Resume where
  addr : DWord
  pos : Nat
  wordPos : Nat
  prov : DWord
  deriving DecidableEq, Repr

/-- What taking a trap does to the clause in issue: nothing, marks an injected head as started, ends the clause of a `trap`
or `brk`, or removes an injected head that cannot decode (05 R121). -/
inductive TrapClause where
  | keep | mark | past | drop
  deriving DecidableEq, Repr

/-- Why a wave does not issue, beyond pending registers and flags: among them an access that waits for the driver, and a
trap entry whose stack spill does (12 R273, 06 R127). -/
inductive Hold where
  | no | waitm | parked | nap (left : Nat) | growth (e : Trapped) | entryGrowth (e : Trapped) (r : Resume) (kept : Bool) (c : TrapClause)
  | meeting | dictWait (slot : Nat) | dictFailed (slot : Nat) | brk (code : Nat) (prov : DWord) | halted
  deriving DecidableEq, Repr

/-- A live compute wave (02 R25, R26 and the chapters named in INVENTORY.md). -/
structure Wave where
  block : Nat
  num : Nat
  bud : Nat
  base : Nat := 0
  rlo : Nat := 0
  vregs : Tab (Vector Word 32) := []
  vtags : Tab Byte := []
  sregs : Tab DWord := []
  exec : Word
  mregs : Tab Word := []
  exited : Word := 0
  flagCnt : Tab Nat := []        -- operations attached and outstanding
  flagOpen : Tab Nat := []       -- clauses that name the flag and have not issued their last word
  pcHdr : DWord
  pcPos : Nat := 0
  dsel : Nat := 0
  lk : Vector DWord 32 := Vector.replicate 32 0
  pquant : BitVec 16 := 256
  pidx : Nat := 0
  cbm : BitVec 512 := 0
  tvec : DWord
  tcause : Word := 0
  tprov : DWord := 0
  trec0 : DWord := 0
  trec1 : DWord := 0
  trec2 : DWord := 0
  spillBase : DWord
  stack : List Entry := []
  spilled : Nat := 0
  count : Nat := 0
  fenced : Option (List Nat) := none  -- since its last `ifence`: the lines fetched, each first from memory (06 R144)
  oldWords : Tab (Option Word) := []  -- words overwritten while its fetch may be under way, by physical word (05 R115)
  oldPc : DWord := 0                  -- the clause address of that fetch
  clause : Option Clause := none
  inj : List InjClause := []
  region : List RegionEntry := []
  regionOvf : Bool := false
  nextId : Nat := 0
  pend : List Pend := []
  deferred : List Deferred := []
  rdst : List RemoteDst := []
  hold : Hold := .no
  polls : Nat := 0
  watch : List Nat := []         -- lines watched: physical, or 2^60 + block * 2^20 + offset, over 128
  aged : Bool := false
  /-- The cycle of the last word it issued, or of its start (19 R444). -/
  issuedAt : Nat := 0
  yielded : Bool := false
  barArrived : Option (Nat × Bool) := none   -- a `bars` that has arrived: its barrier and the phase bit then
  barWait : Option Nat := none               -- the barrier a `barw` or `bars` waits at
  barOpen : Bool := false                    -- a phase of that barrier has completed since: the word leaves (15 R345)
  polled : Option (List (Nat × List Loc)) := none  -- what a `waitm` polls, its addresses checked (15 R349)
  comp : Option Comp := none
  fencing : Bool := false        -- a `fence` or `rfence` waits at issue (18 R417)
  parity : List (RegRef × Nat) := []         -- parity errors: a register, and of a vector register the lane (18 R411)
  freshPoison : List Nat := []
  deriving DecidableEq, Repr

/-! ## Blocks -/

/-- A compacted wave of a group, running or waiting for its path's turn (06 R133). -/
structure CWave where
  taken : Bool
  kidx : Nat
  carrier : Nat
  addr : DWord
  pos : Nat
  mask : Word
  count : Nat
  ended : Bool
  homes : Vector (Option Nat) 32
  deriving DecidableEq, Repr

/-- A compaction group of a block: its home waves (wave keys), compacted waves and the path whose turn it is. -/
structure Group where
  gid : Nat
  homes : List Nat
  waves : List CWave
  cur : Bool
  deriving DecidableEq, Repr


/-- A physical barrier (15 R343 to R345), shared by the blocks its key names. -/
structure Barrier where
  members : List Nat              -- blockKey * 32 + wave
  phase : Bool := false
  arrived : List Nat := []
  gone : List Nat := []           -- members counted as exited
  broken : Bool := false
  full : Bool := false            -- a block barrier whose map entry names every wave of the block (18 R423)
  at_ : Nat := 0                  -- (model) the store stamp at which its latest phase completed
  deriving DecidableEq, Repr

/-- What a checkpoint keeps of a shadowed block (18 R423): its waves past their barrier word, its scratchpad, the barriers it
uses, and the number records issued after it start at. -/
structure Shadow where
  waves : List (Nat × Wave)
  spad : Tab Byte
  bars : List (Nat × Barrier) := []
  mark : Nat := 0
  deriving DecidableEq, Repr

/-- An in-band error: class, unit type, unit index and address (20 R458), and what its rule has it carry beside them: a cause
(04 R96, 06 R127), the provenance of a clause (05 R113), the number of a dictionary slot or a crossbar array (03 R66, 11 R265). -/
structure InBand where
  cls : Nat
  unit : Nat
  unitIx : Nat
  addr : DWord
  cause : Nat := 0
  tprov : DWord := 0
  num : Nat := 0
  deriving DecidableEq, Repr

/-- A placed block, keyed core * 64 + handle (19 R440, R441). -/
structure Block where
  launch : Nat
  ctx : Nat
  index : Nat
  cluster : Nat
  rank : Nat
  pslot : Nat
  slots : Tab Nat := []          -- wave number -> slot + 1
  spawned : List Nat := []
  gone : List Nat := []          -- spawned waves that have exited
  last : Bool := false
  spad : Tab Byte := []
  spadSize : Nat
  ext : Nat := 0
  bspill : Option DWord := none
  meeting : List Nat := []       -- wave numbers waiting at brd.cmp
  shut : Bool := false           -- the meeting has closed, and its waves' accesses are still outstanding (06 R132)
  missed : List (Nat × DWord) := []          -- waves that took no part in a meeting closed at an address (06 R132)
  groups : List Group := []
  nextGroup : Nat := 0
  shadowed : Bool := false
  idempotent : Bool := false
  shadow : Option Shadow := none
  escaped : Bool := false
  rolled : Bool := false
  rolling : Bool := false                   -- a rollback waits for outstanding accesses (18 R425)
  crossed : List Nat := []                  -- shared barriers its waves have arrived at since the checkpoint (15 R345)
  poison : Tab Bool := []                   -- 32-bit words of its scratchpad with an uncorrected error (20 R456)
  killed : Bool := false
  halted : Bool := false
  waysPend : Option (Nat × Nat × Nat) := none   -- a `spcfg` that runs: the count it sets, its wave and operation (12 R280)
  mates : Tab Nat := []                     -- of each rank of its cluster: the core its block was placed on, plus 1 (12 R279)
  mailbox : List (Nat × Nat × Nat) := []    -- getwork: owner block, offset, linear index (plus 2^32 when cancelled)
  withdrawn : List Nat := []
  deriving DecidableEq, Repr


/-! ## Core engines -/

/-- State of a dictionary slot (03 R62). -/
inductive SlotState where
  | empty | loading | ready
  deriving DecidableEq, Repr

structure DictSlot where
  state : SlotState := .empty
  owner : Nat := 0
  image : DWord := 0
  icrc : Word := 0
  selcnt : Nat := 0
  entries : Tab (Option (BitVec 128)) := []
  deriving DecidableEq, Repr

/-- Declared format of an accumulator buffer (10 R213). -/
inductive AccFmt where
  | f32 | i32 | f64
  deriving DecidableEq, Repr

/-- An accumulator buffer: elements by row * 64 + column (10 R212, R213). -/
structure Acc where
  fmt : AccFmt := .f32
  poison : Bool := false
  err : Nat := 0
  data : Tab DWord := []
  deriving DecidableEq, Repr

inductive FRegState where
  | empty | loading | ready | invalid
  deriving DecidableEq, Repr

/-- A format register (10 R214, R218). -/
structure FReg where
  state : FRegState := .empty
  reason : Nat := 0
  block : BitVec 512 := 0
  deriving DecidableEq, Repr

/-- A tile operand address resolved to the block it names (10 R217). -/
structure TileAddr where
  blk : Nat
  off : Nat
  deriving DecidableEq, Repr

/-- What a tile record does (10 R225 to R234). -/
inductive TileWork where
  | tfmt (n : Nat) (addr : DWord)
  | tmma (fb : BitVec 512) (a b : TileAddr) (kb ooff acc nt fr : Nat) (accum wout : Bool)
  | tzero (mask : BitVec 16)
  | trd (buf row0 n cv mode : Nat) (sat : Bool) (phase : Nat) (dst : List Nat)
  | twr (buf row0 n : Nat) (clear : Bool) (rows : List (Vector Word 32))
  | tcmp (src dst : TileAddr) (kb rows : Nat) (fmt : Fmt) (d : Nat)
  | tbmp (src dst : TileAddr) (kb rows : Nat) (fmt : Fmt) (d : Nat)
  | tmc (src : TileAddr) (off bytes : Nat) (dsts : List Nat)
  deriving DecidableEq, Repr

structure TileRec where
  id : Nat
  wave : Nat
  pend : Nat
  blk : Nat
  ctx : Nat
  work : TileWork
  running : Bool := false
  cancelled : Bool := false
  gdone : Nat := 0
  tdone : Nat := 0
  peers : List (Nat × Nat × Nat) := []   -- the blocks its ranges name, each by key, launch and index (10 R233)
  deriving DecidableEq, Repr

inductive ArrState where
  | empty | programming | ready | failed
  deriving DecidableEq, Repr

/-- What a crossbar record does (11 R253 to R257). -/
inductive XWork where
  | xrel
  | xprog (image : DWord)
  | xverify (image : DWord) (d : Nat)
  | xmv (x : List Int) (dst : List Nat) (dreg : Nat)
  | xmva (x : List Int) (accs : List (Vector Word 32)) (tags : List Byte) (shift : Nat) (dst : List Nat) (dreg : Nat)
  | xcal
  | xref (dst : Nat)
  deriving DecidableEq, Repr

structure XRec where
  id : Nat
  wave : Nat
  pend : Nat
  work : XWork
  failed : Bool := false         -- the array failed while the record stood in the queue (11 R255, R257)
  deriving DecidableEq, Repr

/-- A crossbar array (11 R245, R258). Weights by 256 * row + column. -/
structure XArr where
  owner : Option Nat := none
  state : ArrState := .empty
  image : DWord := 0
  icrc : Word := 0
  sh : Nat := 0
  calibrated : Bool := false     -- the next product is the first after a calibration (11 R246)
  corr : List (Nat × Nat) := []  -- per-column gain and offset corrections from the last calibration (11 R245)
  tempc : BitVec 16 := 0
  pcount : Nat := 0
  drift : Nat := 0
  err : Nat := 0
  dreg : Nat := 0
  derr : Nat := 0
  dref : Nat := 0
  cells : Tab Int := []
  queue : List XRec := []
  prog : Nat := 0
  deriving DecidableEq, Repr

/-- A copy of the copy engine (16 R354 to R356). -/
inductive CopyWork where
  | cpy (dst src : DWord) (len : Nat)
  | cpy2 (dst src : DWord) (rowb rows sstr dstr : Nat)
  | cpyg (dst : DWord) (srcs : List (Nat × DWord)) (size : Nat)
  | evpost (hdr payload : DWord)
  deriving DecidableEq, Repr

structure CopyRec where
  id : Nat
  wave : Nat
  pend : Nat
  ctx : Nat
  blk : Nat
  work : CopyWork
  crc : Bool := false
  stash : Bool := false
  ev : Bool := false
  scope : Nat := 4
  written : Bool := false        -- only the queueing of its event is left (16 R359)
  evHdr : DWord := 0
  evPay : DWord := 0
  path : Nat := 0                -- the path index of a timeout, while only its event is left (16 R358, 18 R405)
  seg : Nat := 0                 -- line segments moved before a context save, and the CRC register then (16 R360)
  part : Nat := 0xFFFFFFFF
  deriving DecidableEq, Repr

/-- What one `chapp` appended to a chain: the records below a number that no earlier one did, its place in issue order, its wave's block
and thread (14 R328, 16 R364). -/
structure ChainIssue where
  upto : Nat
  id : Nat
  blk : Nat
  who : Who
  deriving DecidableEq, Repr

/-- A bound command chain (16 R361 to R363): header address, context, records appended and not yet completed. -/
structure Chain where
  hdr : DWord
  ctx : Nat
  tail : Nat
  done : Nat
  finished : List Nat := []      -- completed records above done
  halt : Nat := 0                -- ERR of the record that stopped the chain + 256 * (its number + 1)
  scope : Nat := 4               -- CSCOPE of its header
  upto : Nat := 0                -- once a record has stopped the chain: the records below this number had been started
  issued : List ChainIssue := [] -- the appends that its records stem from, oldest first
  moved : List (Nat × Nat × Nat) := [] -- of copies whose event waits for room: number, CRC, ERR (16 R359)
  prog : List (Nat × Nat × Nat) := []  -- of records stopped by a context save: number, line segments moved, CRC register
  deriving DecidableEq, Repr

/-- A translation held by a TLB (13 R302): context, page number in 64 KiB units, page size and the leaf entry. -/
structure TlbEntry where
  ctx : Nat
  vpage : Nat
  pages : Nat
  pte : DWord
  deriving DecidableEq, Repr

/-- One compute core beside its waves, blocks and cox. -/
structure Core where
  slots : Tab DictSlot := []
  accs : Tab Acc := []
  fregs : Tab FReg := []
  tileQ : List TileRec := []
  arrays : Tab XArr := []
  copies : List CopyRec := []
  chains : List Chain := []
  l1 : Tab (Option Copy) := []
  fills : List Fill := []
  icache : Tab (Option (BitVec 1024)) := []
  tlb : List TlbEntry := []
  heldEvents : List (DWord × DWord) := []
  ctx : Option Nat := none
  deriving DecidableEq, Repr

/-! ## Coxes and umpires -/

/-- What a cox waits for (04 R94, 05 R107, R117). -/
inductive CoxWait where
  | no | wfe (limit : DWord) | dict (slot d : Nat)
  deriving DecidableEq, Repr

/-- A cox (04 R75 to R81, 05 R101). Keys 0-255 are the cores, 256 and 257 the umpires. -/
structure Cox where
  gregs : Tab DWord := []
  pc : DWord := 0
  ctx : Option Nat := none
  hm : Bool := false
  xvec : DWord := 0
  xepc : DWord := 0
  xcause : DWord := 0
  xval : DWord := 0
  xscr : DWord := 0
  retired : DWord := 0
  held : Bool := false
  eseq : Word := 0
  lmlim : Nat := 0
  lmem : Tab Byte := []
  sbuf : List Pend := []
  nextId : Nat := 0
  icache : Tab (Option (BitVec 1024)) := []  -- by virtual line of 128 bytes (04 R79)
  hv : Bool := false
  cbh : Word := 0
  cbw : List Word := []
  events : List (DWord × DWord) := []
  wait : CoxWait := .no
  stopped : Bool := false
  parity : List Nat := []
  deriving DecidableEq, Repr

/-- A completion record held or to be written (19 R435). -/
structure Compl where
  queue : Nat
  level : Nat
  status : Nat
  ident : Nat
  errWord : Word
  errAddr : DWord
  user : DWord
  energy : Nat
  failed : Bool := false         -- its write has failed and been recorded
  intent : Bool := false         -- the intent to write it is journalled (19 R445)
  waits : Bool := false          -- it waits for the queue's next kick
  deriving DecidableEq, Repr

/-- The CSRs of an umpire and what `hold` keeps (19 R438, R439). -/
structure Umpire where
  active : Bool
  qtab : DWord := 0
  jbase : DWord := 0
  jsize : Word := 0
  jseq : DWord := 0
  quant : Word := 2000
  lwindef : DWord := 0
  pwindef : DWord := 0
  holding : Bool := false
  kept : List Compl := []
  lastJ : Nat := 0               -- time of the last journal record (19 R445)
  deriving DecidableEq, Repr

/-! ## Contexts and launches -/

/-- The parameters of a context (12 R268, 13 R300, 04 R80). -/
structure Context where
  launch : Nat
  troot : DWord
  lwin : DWord
  pwin : DWord
  pbase : DWord
  plim : Nat
  cbase : DWord
  csz : Nat
  kbase : DWord
  args : DWord
  arena : DWord
  arenaSize : DWord
  lmlim : Nat
  scarab : Bool := false
  saving : Bool := false         -- it issues nothing more until it is saved (18 R417)
  deriving DecidableEq, Repr

/-- How far a launch has come. -/
inductive LaunchState where
  | waiting | admitted | posted | completed
  deriving DecidableEq, Repr

/-- A launch record once consumed (19 R429), with its counter (19 R435). -/
structure Launch where
  queue : Nat
  prio : Nat
  lastG : Bool
  lastP : Bool
  lastJ : Bool
  fuse : Bool
  clusterSize : Nat
  ix : Nat
  graph : Nat
  phase : Nat
  job : Nat
  dieMask : BitVec 8
  kbase : DWord
  args : DWord
  gx : Nat
  gy : Nat
  gz : Nat
  psmax : Nat
  barMap : DWord
  ntiles : Nat
  tileIt : Nat
  fixBase : DWord
  deps : List Nat
  collgrp : BitVec 16
  user : DWord
  est : Nat
  attr : BitVec 4
  scarab : Bool := false
  affOff : Nat := 0
  state : LaunchState := .waiting
  ctx : Nat := 0xFFFF
  dies : List Nat := []          -- dies it is posted to
  postedAt : Nat := 0            -- order of posting (model)
  unplaced : List Nat := []      -- linear block indices not yet placed, withdrawn or cancelled
  toEnd : Nat := 0               -- blocks still to end
  status : Nat := 0
  err : Option InBand := none
  energy : Nat := 0
  ended : Nat := 0               -- order of completion (model)
  graphDone : Bool := false
  phaseDone : Bool := false
  jobDone : Bool := false
  rowBlocks : List (Nat × Nat × Nat × Grade) := []  -- scarab grid: block index, stack, row number, grade of its page (17 R388)
  scDict : Option (Tab (Tab (Option (BitVec 128)))) := none   -- scarab grid: the dictionary each of its base dies has loaded (17 R386)
  scStarted : List (Nat × Nat) := []   -- scarab grid: blocks of `rowBlocks` and the channels whose wave of them has started (17 R388)
  failedDies : List Nat := []
  short : Bool := false          -- it has failed the test of the power cap, and its queue waits behind it (19 R434)
  report : Nat := 0              -- order of a report that the umpire has no room for, plus 1 (19 R438)
  deriving DecidableEq, Repr

/-- A hardware queue slot with the descriptor it loaded (19 R427, R432). -/
structure QSlot where
  queue : Nat
  ring : DWord
  lg : Nat
  clg : Nat
  troot : DWord
  pbase : DWord
  plim : Nat
  cring : DWord
  rdidx : Nat
  cwridx : Nat
  since : Nat
  suspended : Bool := false
  blocked : Bool := false        -- an unreadable record waits for the queue's next kick
  deriving DecidableEq, Repr

/-! ## Memory side and fabric -/

/-- Die-level state of a compute die: die cache copies and die TLB. -/
structure Die where
  cache : Tab (Option Copy) := []
  tlb : List TlbEntry := []
  lost : Bool := false
  deriving DecidableEq, Repr

/-- A pinned window of the memory-side cache (13 R311). -/
structure Window where
  base : DWord := 0
  en : Bool := false
  refused : Bool := false
  fade : Nat := 0
  idle : Nat := 0
  size : Nat := 0
  deriving DecidableEq, Repr

inductive ExtState where
  | absent | granted | releasing | revoked
  deriving DecidableEq, Repr

/-- A second-tier extent (13 R312). -/
structure Extent where
  base : Nat := 0
  size : Nat := 0
  state : ExtState := .absent
  dropped : Nat := 0
  deriving DecidableEq, Repr

inductive PortState where
  | down | training | up | draining | drained
  deriving DecidableEq, Repr

/-- An off-package port (16 R374). -/
structure Port where
  pool : Bool := false
  state : PortState := .down
  timeouts : Nat := 0
  retries : Nat := 0
  failLane : BitVec 4 := 0xF
  spare : Bool := false
  drain : Bool := false
  deriving DecidableEq, Repr

/-- A keeper's entry for one source wave (16 R378). -/
structure Keeper where
  applied0 : Nat := 0
  applied1 : Nat := 0
  failed : Bool := false
  deriving DecidableEq, Repr

/-- A flag or clear a keeper holds (16 R378). -/
structure HeldFlag where
  src : Nat
  epoch : Bool
  count : Nat
  store : Option (OutAddr × Nat × DWord)
  deriving DecidableEq, Repr

/-- A remote-store packet sent and not yet acknowledged (16 R376, R377). -/
structure Packet where
  id : Nat
  wave : Nat
  pend : Option Nat
  pkg : Nat
  path : Nat
  port : Nat                     -- the port of its path when it was sent (16 R380)
  isFlag : Bool
  epoch : Bool
  count : Nat := 0
  line : Nat
  mask : BitVec 128
  data : BitVec 1024
  deriving DecidableEq, Repr

/-! ## Scarabs -/

/-- A mask stack entry (17 R392). -/
structure MaskEntry where
  saved : BitVec 64
  taken : BitVec 64
  els : Bool
  deriving DecidableEq, Repr

/-- A buffered collective message (17 R394). -/
structure CollMsg where
  src : DWord
  grp : BitVec 16
  data : List Word
  rels : List Rel := []          -- the releases of its sender before the `colsend` (17 R396)
  launch : Nat := 0              -- the launch it was placed for (17 R397)
  deriving DecidableEq, Repr

inductive ScarabState where
  | idle | running | selfRefresh | stopped | saved
  deriving DecidableEq, Repr

/-- A scarab and the wave bound to it (17 R383, R400). -/
structure Scarab where
  state : ScarabState := .idle
  launch : Nat := 0
  ctx : Nat := 0
  block : Nat := 0
  row : Nat := 0
  grade : Grade := .x
  cause : Nat := 0
  vregs : Tab (Vector Word 64) := []
  sregs : Tab DWord := []
  exec : BitVec 64 := 0
  mregs : Tab (BitVec 64) := []
  flagCnt : Tab Nat := []
  flagOpen : Tab Nat := []
  pcHdr : DWord := 0
  pcPos : Nat := 0
  clause : Option Clause := none
  maskStack : List MaskEntry := []
  open_ : List Nat := []
  nextId : Nat := 0
  pend : List Pend := []
  deferred : List Deferred := []
  dict : Tab (Option (BitVec 128)) := []
  msgs : List CollMsg := []
  stopping : Bool := false
  deriving DecidableEq, Repr

/-- A saved context (18 R419): its waves, blocks, coxes and core engines by the core they ran on. -/
structure Saved where
  ctx : Nat
  cores : List (Nat × Core × Cox)
  waves : List (Nat × Wave)
  blocks : List (Nat × Block)
  bars : List (Nat × Barrier)
  scarabs : List (Nat × Scarab)
  deriving DecidableEq, Repr

/-! ## Power, security, records -/

/-- A voltage and frequency island (18 R426, 20 R450). -/
structure Island where
  gated : Bool := false
  mhz : BitVec 16
  mv : BitVec 16
  limw : Nat
  count : Nat := 0
  limit : Nat := 4096
  steps : Nat := 0
  storms : Nat := 0
  duty : Bool := false
  deriving DecidableEq, Repr

/-- An error record (20 R459): its slot in the bank, the four words and the order of arrival (model). -/
structure ErrRec where
  slot : Nat := 0
  sev : Nat
  addr : Option Nat
  ovf : Bool
  unit : Nat
  unitIx : Nat
  ctx : Nat
  code : Nat
  synd : DWord
  die : Nat
  at_ : Nat
  order : Nat
  deriving DecidableEq, Repr

/-- A record posted to the host as CPER: with the package's serial number behind it, and the virtual function it also reaches (20 R460). -/
structure Cper extends ErrRec where
  serial : DWord
  vf : Option Nat
  deriving DecidableEq, Repr

inductive ChanState where
  | on | selfRefresh | off
  deriving DecidableEq, Repr

/-- Power and security state of the package (20 R453 to R457). -/
structure Sys where
  life : Nat := 2
  dbg : Nat := 0
  session : Bool := false
  pwr : Nat := 0                 -- 0, 2 in A2, 3 in A3; A1 is read from the islands
  running : List Nat := []       -- virtual functions in the TDISP RUN state
  pwrreq : DWord := 0
  chans : Tab ChanState := []    -- stack * 16 + channel
  capcfg : DWord := 0x00000A0A00000AF0
  avgw : Nat := 0
  throttles : Nat := 0
  admitStop : Bool := false
  throttling : Bool := false
  armed : List Nat := []         -- launches with breakpoints armed
  anchorLost : Bool := false
  stacksLost : List Nat := []
  refuseLaunches : Bool := false
  bootFailed : Bool := false
  beats : Nat := 0               -- heartbeats journalled
  answer : Nat := 0              -- the status the last debug request or TDISP bind completed with (20 R454)
  measure : BitVec 384 := 0      -- the measurement register that the firmware digests extend (20 R457)
  msix : Nat := 0                -- interrupts sent for posted records (20 R460)
  hist : List (Nat × Nat) := []  -- time and energy at the meter ticks of the rolling window (20 R452)
  deriving DecidableEq, Repr

/-- The whole machine. -/
structure State where
  /-- (model) steps taken (which numbers the free values), core-cycle time, turns to take, agent of the running step -/
  tick : Nat := 0
  time : Nat := 0
  agenda : List Turn := []
  cur : Agent := .outside
  /-- (model) next number for records, launches and packets -/
  nextId : Nat := 0
  mem : Tab Byte := []
  /-- (model) stores applied so far; of each byte written its writes, newest first, down to the value before them; the sights of waves,
  coxes and scarabs; what the store in hand carries -/
  clock : Nat := 0
  hist : Tab (List Write) := []
  sights : Tab Sight := []
  hand : Hand := {}
  poison : Tab Bool := []        -- 32-byte sectors with an uncorrected error
  md : Tab DWord := []           -- metadata image of each 64-byte line
  dirty : Tab (Option (BitVec 1152)) := []   -- dirty home-slice lines of pool memory: the pool's data and images behind them
  slice : List Nat := []         -- pool lines held by the home slices (01 R9)
  pkg : Nat := 0                 -- the package's own index in its domain
  grades : Tab Nat := []         -- grade code + 1 each 64-byte line was last written under
  slGiB : Nat := 0
  mcGiB : Nat := 0
  msc : Tab (Option (Option (BitVec 1152))) := []   -- pool lines held by the memory-side cache; the data of one not yet in the pool
  bloom : List Nat := []         -- lines inserted in the bloom filters this epoch
  mscw : Tab Window := []
  extents : Tab Extent := []
  waves : Tab (Option Wave) := []
  blocks : Tab (Option Block) := []
  bars : Tab (Option Barrier) := []
  cores : Tab Core := []
  coxes : Tab Cox := []
  umps : Tab (Option Umpire) := []
  dies : Tab Die := []
  contexts : Tab (Option Context) := []
  saved : List Saved := []
  launches : Tab (Option Launch) := []
  taken : List Nat := []         -- queues whose kick the umpire has taken and whose records it reads (19 R428)
  kicks : List Nat := []         -- pending-kick bits that are set, oldest first
  qslots : Tab (Option QSlot) := []
  complQ : List Compl := []      -- completion records not yet written, oldest first
  packets : List Packet := []
  keepers : Tab Keeper := []
  notices : List (Nat × Bool) := []
  keeperHeld : List HeldFlag := []
  ports : Tab Port := []
  peerto : Nat := 1000
  peerrt : Tab Word := []
  hostLines : List Nat := []     -- 128-byte lines the host may hold
  snoops : List Nat := []        -- of those, with a back-invalidation outstanding
  scarabs : Tab Scarab := []
  scRows : Tab (Option Scarab) := []   -- what the reserved rows of a channel hold while it is in self-refresh (17 R399)
  islands : Tab (Option Island) := []
  meters : Tab DWord := []
  ctxMeter : Tab Nat := []       -- energy in µJ attributed to each context (20 R451)
  charged : Tab Nat := []        -- energy of engines not yet in its meter, by meter, in units of 0.1 nJ (11 R267)
  acctBud : Tab Nat := []
  acctUse : Tab Nat := []
  banks : Tab (List ErrRec) := []
  cper : List Cper := []
  sys : Sys := {}
  deriving DecidableEq, Repr

/-! ## Stops -/

/-- Reasons the machine stops. -/
inductive Fault where
  /-- Model: a word is executed while no agent that could issue it is current (no live wave, cox or scarab in `cur`).
  Raised by the meanings through `waveDo`, `coxDo` and `scarabDo`; no run reaches it. Safe. -/
  | noAgent
  deriving DecidableEq, Repr

/-- Reasons a step has no meaning. -/
inductive Refusal where
  /-- The instruction of this mnemonic is not modelled. Raised by the dispatcher only. Safe. -/
  | notModelled (mnemonic : String)
  deriving DecidableEq, Repr

/-! ## Reset -/

/-- Port roles of the rack maker's default: port 1 of every stack but S0, S5, S10 and S15 is a pool port (01 R14).
Port n is port n % 2 of stack n / 2. -/
def defaultPort (n : Nat) : Port :=
  { pool := n % 2 == 1 && !([0, 5, 10, 15].contains (n / 2)) }

/-- An island after bring-up: its clock and voltage are free values, its share the even part of its design allocation
(assumption 1). -/
def defaultIsland (n : Nat) : Island :=
  { mhz := Config.islandMhz n, mv := Config.islandMv n, limw := if n < 16 then 100 else 130 }

/-- The machine right after package reset (20 R457, the Reset columns, and assumptions 1 to 4). -/
def State.reset : State :=
  { ports := (List.range 32).map (fun n => (n, defaultPort n))
    islands := (List.range 24).map (fun n => (n, some (defaultIsland n)))
    umps := [(0, some { active := true }), (1, some { active := false })]
    coxes := [(256, { lmlim := 16 }), (257, { lmlim := 16 })] }

end Sys2Proof.Machine
end

