-- ==== Sys2Proof/Machine/Tab.lean ====
section
/-! DEFINITION. Operations of sparse tables (Word.lean): reading, and writing in canonical form. -/

namespace Sys2Proof

/-- What key `k` holds: its entry, or the default `d` of an unlisted key. -/
def Tab.look {α : Type} (d : α) : Tab α → Nat → α
  | [], _ => d
  | (j, v) :: t, k => if k = j then v else Tab.look d t k

/-- Insert an entry in its place, replacing one of the same key. -/
def Tab.ins {α : Type} : Tab α → Nat → α → Tab α
  | [], k, v => [(k, v)]
  | (j, u) :: t, k, v =>
    if k = j then (k, v) :: t else if k < j then (k, v) :: (j, u) :: t else (j, u) :: Tab.ins t k v

/-- Remove the entry of a key. -/
def Tab.del {α : Type} : Tab α → Nat → Tab α
  | [], _ => []
  | (j, u) :: t, k => if k = j then Tab.del t k else (j, u) :: Tab.del t k

/-- Write `v` at `k`: writing the default removes the entry. -/
def Tab.put {α : Type} [DecidableEq α] (d : α) (t : Tab α) (k : Nat) (v : α) : Tab α :=
  if v = d then t.del k else t.ins k v

/-- The canonical form: keys strictly rising, no entry equal to the default. -/
def Tab.wf {α : Type} [DecidableEq α] (d : α) : Tab α → Bool
  | [] => true
  | [(_, v)] => decide (v ≠ d)
  | (j, v) :: (k, u) :: t => decide (v ≠ d) && decide (j < k) && Tab.wf d ((k, u) :: t)

/-- The memory's canonical form: an unlisted byte reads 0x00 (assumption 2). -/
abbrev Memory.wf (m : Tab Byte) : Prop := Tab.wf 0 m = true

end Sys2Proof
end

