-- ==== Sys2Proof/Machine/Num.lean ====
section
/-! DEFINITION. Number formats, exact values, the one rounding function, ordered dither and group sums (08). -/

namespace Sys2Proof.Machine

/-! ## Widths and integers -/

/-- Width in bits of a format's value: the lane width of a packed one (03 R56, 08 R170, R174, R175). -/
def fmtBits : Fmt → Nat
  | .none => 32
  | .b8 | .i8 | .n8 | .e4m3 | .e5m2 | .e8m0 => 8
  | .b16 | .i16 | .n16 | .f16 | .bf16 | .lc16 => 16
  | .b32 | .i32 | .n32 | .f32 => 32
  | .b64 | .i64 | .n64 | .f64 => 64
  | .i4 | .n4 | .e2m1 => 4
  | .e3m2 | .e2m3 => 6
  | .f16x2 | .bf16x2 | .e4m3x4 | .e5m2x4 => 32

/-- Whether a format is one of the signed integers (08 R174). -/
def fmtSigned : Fmt → Bool
  | .i4 | .i8 | .i16 | .i32 | .i64 => true
  | _ => false

/-- The value of the low `n` bits of `x` as two's complement. -/
def toSigned (n x : Nat) : Int :=
  let y := x % 2 ^ n
  if 2 ^ n ≤ 2 * y then (y : Int) - (2 : Int) ^ n else y

/-- The low `n` bits of an integer, two's complement. -/
def wrapTo (n : Nat) (x : Int) : Nat := (x % (2 : Int) ^ n).toNat

/-- The value of the low `n` bits, signed or unsigned. -/
def toInt (signed : Bool) (n x : Nat) : Int := if signed then toSigned n x else ((x % 2 ^ n : Nat) : Int)

/-- Range of an integer type. -/
def intMin (signed : Bool) (n : Nat) : Int := if signed then -((2 : Int) ^ (n - 1)) else 0
def intMax (signed : Bool) (n : Nat) : Int := if signed then (2 : Int) ^ (n - 1) - 1 else (2 : Int) ^ n - 1

/-- The exact value clamped to the range of the type (07 R152). -/
def clampTo (signed : Bool) (n : Nat) (x : Int) : Int := max (intMin signed n) (min (intMax signed n) x)

/-- The low `n` bits of `x` extended to `m` bits: with the sign, or with zero (07 R148). -/
def extTo (signed : Bool) (n m x : Nat) : Nat := wrapTo m (toInt signed n x)

/-- Bit `i` of a natural number. -/
def natBit (x i : Nat) : Bool := x / 2 ^ i % 2 == 1

/-- The number of set bits among the low `n` of `x`. -/
def popcount : Nat → Nat → Nat
  | 0, _ => 0
  | n + 1, x => x % 2 + popcount n (x / 2)

/-- Zeros below the lowest set bit of the low `n` bits, `n` for none (07 R159). -/
def trailingZeros : Nat → Nat → Nat
  | 0, _ => 0
  | n + 1, x => if x % 2 == 1 then 0 else 1 + trailingZeros n (x / 2)

/-- The low `n` bits of `x` in reverse order (07 R159). -/
def reverseBits : Nat → Nat → Nat
  | 0, _ => 0
  | n + 1, x => x % 2 * 2 ^ n + reverseBits n (x / 2)

/-- The carry-less product of `a` and the low `n` bits of `b` (07 R161). -/
def carryless : Nat → Nat → Nat → Nat
  | 0, _, _ => 0
  | n + 1, a, b => (if b % 2 == 1 then a else 0) ^^^ (2 * carryless n a (b / 2))

/-- The number whose bit `i` is `f i`, for `i < n`. -/
def ofBits (f : Nat → Bool) : Nat → Nat
  | 0 => 0
  | n + 1 => ofBits f n + (if f n then 2 ^ n else 0)

/-- The places below `n` of the bits that are set, ascending. -/
def setBits (n x : Nat) : List Nat := (List.range n).filter (natBit x)

/-- Floor of the square root of `x`, found bit by bit from bit `n - 1` downward. -/
def isqrt (x : Nat) : Nat → Nat → Nat
  | 0, r => r
  | n + 1, r => if (r + 2 ^ n) * (r + 2 ^ n) ≤ x then isqrt x n (r + 2 ^ n) else isqrt x n r

/-- Smallest `k` with `x ≤ 2 ^ k`. -/
def ceilLog2 (x : Nat) : Nat := if x ≤ 1 then 0 else Nat.log2 (x - 1) + 1

/-! ## Floating-point formats (08 R170 to R172) -/

/-- Fields of a floating-point format; `top` is the encoding of the largest finite magnitude. -/
structure FloatSpec where
  ebits : Nat
  mbits : Nat
  bias : Int
  top : Nat
  hasInf : Bool
  nan : Option Nat      -- canonical NaN
  deriving DecidableEq, Repr

/-- The table of R170 with the specials of R172. -/
def floatSpec : Fmt → Option FloatSpec
  | .f64 => some ⟨11, 52, 1023, 0x7FEFFFFFFFFFFFFF, true, some 0x7FF8000000000000⟩
  | .f32 => some ⟨8, 23, 127, 0x7F7FFFFF, true, some 0x7FC00000⟩
  | .f16 | .f16x2 => some ⟨5, 10, 15, 0x7BFF, true, some 0x7E00⟩
  | .bf16 | .bf16x2 => some ⟨8, 7, 127, 0x7F7F, true, some 0x7FC0⟩
  | .e5m2 | .e5m2x4 => some ⟨5, 2, 15, 0x7B, true, some 0x7E⟩
  | .e4m3 | .e4m3x4 => some ⟨4, 3, 7, 0x7E, false, some 0x7F⟩
  | .e3m2 => some ⟨3, 2, 3, 0x1F, false, none⟩
  | .e2m3 => some ⟨2, 3, 1, 0x1F, false, none⟩
  | .e2m1 => some ⟨2, 1, 1, 0x7, false, none⟩
  | _ => none

/-- Bits of one element of a format: of a packed one, its element. -/
def elemBits : Fmt → Nat
  | .f16x2 | .bf16x2 => 16
  | .e4m3x4 | .e5m2x4 => 8
  | f => fmtBits f

/-- Elements an operation of the vector ALU handles in one lane: those of the packed codes (09 R194). -/
def elemCount : Fmt → Nat
  | .f16x2 | .bf16x2 => 2
  | .e4m3x4 | .e5m2x4 => 4
  | _ => 1

/-- An exact value: NaN, an infinity, or `± num / den * 2 ^ exp`, a zero keeping its sign. -/
inductive FVal where
  | nan
  | inf (neg : Bool)
  | fin (neg : Bool) (num den : Nat) (exp : Int)
  deriving DecidableEq, Repr

namespace FVal

def zero (neg : Bool) : FVal := .fin neg 0 1 0
def ofInt (x : Int) : FVal := .fin (x < 0) x.natAbs 1 0

def isNan : FVal → Bool
  | .nan => true
  | _ => false

def isZero : FVal → Bool
  | .fin _ 0 _ _ => true
  | _ => false

def isInf : FVal → Bool
  | .inf _ => true
  | _ => false

def neg? : FVal → Bool
  | .nan => false
  | .inf n => n
  | .fin n _ _ _ => n

def negate : FVal → FVal
  | .nan => .nan
  | .inf n => .inf (!n)
  | .fin n a d e => .fin (!n) a d e

/-- The signed numerator of a finite value over `den` at exponent `e`, no greater than its own. -/
def signedAt (n : Bool) (num : Nat) (exp e : Int) : Int :=
  let x : Int := (num * 2 ^ (exp - e).toNat : Nat)
  if n then -x else x

/-- The exact sum; an exact zero of opposite signs is +0, or -0 when `down` (09 R194, R197). -/
def add (down : Bool) : FVal → FVal → FVal
  | .nan, _ => .nan
  | _, .nan => .nan
  | .inf a, .inf b => if a == b then .inf a else .nan
  | .inf a, _ => .inf a
  | _, .inf b => .inf b
  | .fin na a da ea, .fin nb b db eb =>
    let e := min ea eb
    let x := signedAt na a ea e * db + signedAt nb b eb e * da
    if x = 0 then (if na == nb then .zero na else .zero down)
    else .fin (x < 0) x.natAbs (da * db) e

/-- The exact product (09 R197). -/
def mul : FVal → FVal → FVal
  | .nan, _ => .nan
  | _, .nan => .nan
  | .inf a, .inf b => .inf (a != b)
  | .inf a, .fin nb b _ _ => if b = 0 then .nan else .inf (a != nb)
  | .fin na a _ _, .inf b => if a = 0 then .nan else .inf (na != b)
  | .fin na a da ea, .fin nb b db eb => .fin (na != nb) (a * b) (da * db) (ea + eb)

/-- The exact quotient; a zero divisor divides into an infinity or NaN (09 R207). -/
def div : FVal → FVal → FVal
  | .nan, _ => .nan
  | _, .nan => .nan
  | .inf _, .inf _ => .nan
  | .inf a, .fin nb _ _ _ => .inf (a != nb)
  | .fin na _ _ _, .inf b => .zero (na != b)
  | .fin na a da ea, .fin nb b db eb =>
    if b = 0 then (if a = 0 then .nan else .inf (na != nb)) else .fin (na != nb) (a * db) (da * b) (ea - eb)

/-- Order of two values that are not NaN: -1, 0 or 1, with -0 equal to +0. -/
def cmp : FVal → FVal → Int
  | .nan, _ => 0
  | _, .nan => 0
  | .inf a, .inf b => if a == b then 0 else if a then -1 else 1
  | .inf a, _ => if a then -1 else 1
  | _, .inf b => if b then 1 else -1
  | .fin na a da ea, .fin nb b db eb =>
    let e := min ea eb
    (signedAt na a ea e * db - signedAt nb b eb e * da).sign

end FVal

/-- The value of an encoding of a floating-point format (08 R171, R172). -/
def decodeFloat (f : FloatSpec) (x : Nat) : FVal :=
  let m := x % 2 ^ f.mbits
  let e := x / 2 ^ f.mbits % 2 ^ f.ebits
  let neg := natBit x (f.mbits + f.ebits)
  let mag := x % 2 ^ (f.mbits + f.ebits)
  if f.top < mag then (if f.hasInf && m == 0 then .inf neg else .nan)
  else if e = 0 then .fin neg m 1 (1 - f.bias - f.mbits)
  else .fin neg (2 ^ f.mbits + m) 1 (e - f.bias - f.mbits)

/-- E8M0: 2^(c-127), 0xFF NaN (08 R173). -/
def decodeE8m0 (c : Nat) : FVal := if c % 256 = 255 then .nan else .fin false 1 1 ((c % 256 : Nat) - 127)

/-- The value of one element of a float format, E8M0 included. -/
def decodeElem (f : Fmt) (x : Nat) : FVal :=
  match floatSpec f with
  | some sp => decodeFloat sp x
  | none => match f with
    | .e8m0 => decodeE8m0 x
    | _ => .ofInt (toInt (fmtSigned f) (fmtBits f) x)

/-! ## Rounding (08 R181 to R187) -/

/-- Rounding modes by code (R181). -/
inductive RMode where
  | rn | rz | rd | ru | dit
  deriving DecidableEq, Repr

def rmodeOf : Nat → RMode
  | 0 => .rn
  | 1 => .rz
  | 2 => .rd
  | 3 => .ru
  | _ => .dit

/-- T[r][c] (R187). -/
def ditherT (r c : Nat) : Nat :=
  let z := r ^^^ c
  let bit (x i : Nat) := x / 2 ^ i % 2
  128 * bit z 0 + 32 * bit z 1 + 8 * bit z 2 + 2 * bit z 3 + 64 * bit r 0 + 16 * bit r 1 + 4 * bit r 2 + bit r 3

/-- The dither value d of row, column and phase (R186). -/
def ditherD (r c phase : Nat) : Nat := (ditherT (r % 16) (c % 16) + phase) % 256

/-- Whether the magnitude moves away from zero: `r / d` is the part above the lower magnitude `fl` (R182, R186). -/
def roundUp (mode : RMode) (neg : Bool) (dith fl r d : Nat) : Bool :=
  if r = 0 then false else
  match mode with
  | .rn => d < 2 * r || (2 * r == d && fl % 2 == 1)
  | .rz => false
  | .rd => neg
  | .ru => !neg
  | .dit => 512 * d ≤ 512 * r + (2 * dith + 1) * d

/-- A delivered result: its bits, whether overflow or `.sat` changed it, whether it is NaN or infinite, and for an inexact
result the exponent of hi - lo (R182, R183; 09 R210). -/
structure Rounded where
  bits : Nat
  clamped : Bool := false
  special : Bool := false
  gap : Option Int := none
  deriving DecidableEq, Repr

/-- floor(log2 (num / den)) of a positive quotient. -/
def floorLog2 (num den : Nat) : Int :=
  let k : Int := (Nat.log2 num : Int) - Nat.log2 den
  if den * 2 ^ Nat.log2 num ≤ num * 2 ^ Nat.log2 den then k else k - 1

/-- `num / den * 2 ^ s` split into its integer part, and remainder over divisor. -/
def splitAt (num den : Nat) (s : Int) : Nat × Nat × Nat :=
  let n := num * 2 ^ s.toNat
  let d := den * 2 ^ (-s).toNat
  (n / d, n % d, d)

/-- The bits of an overflow or of an infinity the format lacks (R183), `neg` its sign. -/
def overflowBits (f : FloatSpec) (mode : RMode) (sat neg : Bool) : Nat :=
  let sgn := if neg then 2 ^ (f.mbits + f.ebits) else 0
  let toTop := sat || (match mode with
    | .rn | .dit => false
    | .rz => true
    | .rd => !neg
    | .ru => neg)
  if toTop then sgn + f.top
  else if f.hasInf then sgn + f.top + 1
  else match f.nan with
    | some n => sgn + n
    | none => sgn + f.top

/-- round(mode, x) into a floating-point format, with `.sat` (R182, R183). -/
def deliver (f : FloatSpec) (mode : RMode) (sat : Bool) (dith : Nat) : FVal → Rounded
  | .nan => { bits := f.nan.getD 0, special := true }
  | .inf neg =>
    if f.hasInf && !sat then { bits := (if neg then 2 ^ (f.mbits + f.ebits) else 0) + f.top + 1, special := true }
    else { bits := overflowBits f mode sat neg, clamped := true }
  | .fin neg num den exp =>
    let sgn := if neg then 2 ^ (f.mbits + f.ebits) else 0
    if num = 0 then { bits := sgn } else
    let k := floorLog2 num den + exp
    let qe := max k (1 - f.bias) - f.mbits
    let (fl, r, d) := splitAt num den (exp - qe)
    let m := if roundUp mode neg dith fl r d then fl + 1 else fl
    let enc := (qe + f.mbits + f.bias - 1).toNat * 2 ^ f.mbits + m
    if f.top < enc then { bits := overflowBits f mode sat neg, clamped := true, gap := some qe }
    else { bits := sgn + enc, gap := if r = 0 then none else some qe }

/-- Delivery into E8M0 (R184). -/
def deliverE8m0 (mode : RMode) (sat : Bool) : FVal → Rounded
  | .nan => { bits := 0xFF, special := true }
  | .inf neg => if neg then { bits := 0xFF, special := true } else { bits := if sat then 0xFE else 0xFF, clamped := true }
  | .fin neg num den exp =>
    if neg || num = 0 then { bits := 0xFF, special := true } else
    let k := floorLog2 num den + exp
    let (fl, r, d) := splitAt num den (exp - k)
    let exact := fl == 1 && r == 0
    -- the value is fl + r/d times 2^k with fl = 1
    let up := match mode with
      | .ru => !exact
      | .rz | .rd => false
      | .rn | .dit => d < 2 * r || (2 * r == d && (k + 127) % 2 != 0)
    let c : Int := k + 127 + (if up then 1 else 0)
    if k < -127 then { bits := 0 }
    else if 254 < k + 127 || (k + 127 == 254 && !exact) then { bits := if sat then 0xFE else 0xFF, clamped := true }
    else { bits := c.toNat }

/-- Delivery into one element of a float format, E8M0 included. -/
def deliverTo (f : Fmt) (mode : RMode) (sat : Bool) (dith : Nat) (x : FVal) : Rounded :=
  match floatSpec f with
  | some sp => deliver sp mode sat dith x
  | none => deliverE8m0 mode sat x

/-- A finite value rounded to an integer, with whether it was inexact (09 R205). -/
def roundInt (mode : RMode) (dith : Nat) (neg : Bool) (num den : Nat) (exp : Int) : Int × Bool :=
  let (fl, r, d) := splitAt num den exp
  let m := if roundUp mode neg dith fl r d then fl + 1 else fl
  (if neg then -(m : Int) else m, r != 0)

/-! ## Group sums (08 R189) -/

/-- floor(log2 |x|) of a nonzero finite value. -/
def FVal.log2 : FVal → Int
  | .fin _ num den exp => if num = 0 then 0 else floorLog2 num den + exp
  | _ => 0

/-- A finite value's magnitude truncated to units of 2^q, signed. -/
def FVal.unitsAt (q : Int) : FVal → Int
  | .fin neg num den exp => let (fl, _, _) := splitAt num den (exp - q); if neg then -(fl : Int) else fl
  | _ => 0

/-- The sum S of a group of exact products in a 48-bit window (R189). -/
def groupSum (ps : List FVal) : FVal :=
  let pinf := ps.any (fun p => p == .inf false)
  let ninf := ps.any (fun p => p == .inf true)
  if ps.any FVal.isNan || (pinf && ninf) then .nan
  else if pinf then .inf false
  else if ninf then .inf true
  else
    let nz := ps.filter (fun p => !p.isZero)
    match nz.map FVal.log2 with
    | [] => .zero false
    | k :: ks =>
      let q := ks.foldl max k - 47
      let t := nz.foldl (fun a p => a + p.unitsAt q) (0 : Int)
      .fin (t < 0) t.natAbs 1 q

/-- f32, the accumulators' format. -/
def f32Spec : FloatSpec := ⟨8, 23, 127, 0x7F7FFFFF, true, some 0x7FC00000⟩
def f64Spec : FloatSpec := ⟨11, 52, 1023, 0x7FEFFFFFFFFFFFFF, true, some 0x7FF8000000000000⟩

/-- round(rn, x) into f32. An exact zero group sum is +0 (R189). -/
def toF32 (x : FVal) : Nat := (deliver f32Spec .rn false 0 x).bits
def toF64 (x : FVal) : Nat := (deliver f64Spec .rn false 0 x).bits
def ofF32 (x : Nat) : FVal := decodeFloat f32Spec x
def ofF64 (x : Nat) : FVal := decodeFloat f64Spec x

/-! ## LC16 (08 R177, R178) -/

/-- The vectors of the default base table by ascending norm, then lexicographic: those of one norm (`rest` what is left of
it) over `n` further elements of 0 to 7, with the parity of the sum so far. -/
def latticeVecs : Nat → Nat → Bool → List Nat → List (List Nat)
  | 0, rest, odd, acc => if rest = 0 && !odd then [acc.reverse] else []
  | n + 1, rest, odd, acc =>
    ((List.range 8).filter (fun a => a * a ≤ rest)).flatMap
      (fun a => latticeVecs n (rest - a * a) (odd != (a % 2 == 1)) (a :: acc))

/-- The default base table (R178): m_j = 2 * a_j. -/
def defaultLattice (k : Nat) : List Nat :=
  let vs := ((List.range 7).flatMap (fun nrm => latticeVecs 8 nrm false [])).take 256
  (vs.getD k []).map (2 * ·)

/-- Element `j` of code `c` under base row `m` (R177), in quarters; magnitude 0 is 0 whatever its sign. -/
def lc16Elem (m : List Nat) (c j : Nat) : FVal :=
  let h := c % 2
  let n := popcount 7 (c / 2)
  let neg := if j < 7 then natBit c (1 + j) else n % 2 == 1
  let q := m.getD j 0 + h
  .fin (neg && q != 0) q 1 (-2)

/-- `x` with the `n` bits from `lo` replaced. -/
def insertBits (x lo n v : Nat) : Nat := x - x / 2 ^ lo % 2 ^ n * 2 ^ lo + v % 2 ^ n * 2 ^ lo

end Sys2Proof.Machine
end

