-- ==== Sys2Proof/Machine/Crc.lean ====
section
/-! DEFINITION. The two CRCs of the machine: CRC-32C of images, records and filters (03 R61, 13 R310, 18 R420) and the CRC-32 of
IEEE 802.3 of copy payloads (16 R357), both reflected, starting at and finally inverted by all ones. -/

namespace Sys2Proof.Machine

/-- Eight steps of a reflected CRC of polynomial `p`. -/
def crcShift (p : Nat) : Nat → Nat → Nat
  | 0, c => c
  | n + 1, c => crcShift p n (if c % 2 = 1 then c / 2 ^^^ p else c / 2)

def crcByte (p c b : Nat) : Nat := crcShift p 8 (c ^^^ b % 256)

/-- A reflected CRC-32 of a list of bytes. -/
def crcOf (p : Nat) (bs : List Nat) : Nat := bs.foldl (crcByte p) 0xFFFFFFFF ^^^ 0xFFFFFFFF

def crc32c : List Nat → Nat := crcOf 0x82F63B78
def crc32 : List Nat → Nat := crcOf 0xEDB88320

/-- The register of the CRC-32 of IEEE 802.3 after some more bytes. -/
def crc32Run (c : Nat) (bs : List Nat) : Nat := bs.foldl (crcByte 0xEDB88320) c

/-- The `n` bytes of a number, lowest first. -/
def numBytes (n x : Nat) : List Nat := (List.range n).map (fun i => x / 256 ^ i % 256)

end Sys2Proof.Machine
end

