-- ==== Sys2Proof/Machine/Flags.lean ====
section
/-! DEFINITION. Register tags and what a class-B word does to them: the ranking, the tag a write leaves, and the propagated
bound (02 R33 to R36, 09 R209 to R211, 11 R263). A tag is eight bits: CLASS in [7:6], BEXP in [5:0]. -/

namespace Sys2Proof.Machine

/-- Tag E, tag P, and tag B with a bound exponent (02 R33). -/
def tagE : Byte := 0
def tagP : Byte := 0x80
def tagB (e : Nat) : Byte := BitVec.ofNat 8 (0x40 + e % 64)

def tagClass (t : Byte) : Nat := fieldOf t 6 2
def tagIsB (t : Byte) : Bool := tagClass t == 1
def tagIsP (t : Byte) : Bool := 2 ≤ tagClass t

/-- BEXP of a class-B tag (02 R33). -/
def tagBexp (t : Byte) : Nat := fieldOf t 0 6

/-- P over B over E; between two B tags the larger BEXP (02 R35). -/
def tagWorst (a b : Byte) : Byte :=
  if tagIsP a || tagIsP b then tagP
  else if tagIsB a && tagIsB b then (if tagBexp a < tagBexp b then b else a)
  else if tagIsB a then a else b

/-- The tag a write leaves: the result tag where every lane is replaced, else the worse (02 R35). -/
def tagWrite (full : Bool) (old new : Byte) : Byte := if full then new else tagWorst old new

/-- A stored class 0b11 installs class P; E and P carry BEXP zero (02 R33, R36). -/
def tagInstall (t : Byte) : Byte :=
  match tagClass t with
  | 0 => tagE
  | 1 => t
  | _ => tagP

/-! ## Bounds -/

/-- A bound: `num * 2 ^ exp`. -/
structure Bnd where
  num : Nat
  exp : Int
  deriving DecidableEq, Repr

def Bnd.zero : Bnd := ⟨0, 0⟩

def Bnd.add (a b : Bnd) : Bnd :=
  let e := min a.exp b.exp
  ⟨a.num * 2 ^ (a.exp - e).toNat + b.num * 2 ^ (b.exp - e).toNat, e⟩

def Bnd.max (a b : Bnd) : Bnd :=
  let e := min a.exp b.exp
  if a.num * 2 ^ (a.exp - e).toNat < b.num * 2 ^ (b.exp - e).toNat then b else a

/-- The bound times the magnitude of a finite value. -/
def Bnd.scale (a : Bnd) : FVal → Bnd
  | .fin _ num _ exp => ⟨a.num * num, a.exp + exp⟩
  | _ => a

/-- β of a source: 2^(BEXP-32) for class B, else 0 (09 R210). -/
def tagBound (t : Byte) : Bnd := if tagIsB t then ⟨1, (tagBexp t : Int) - 32⟩ else Bnd.zero

/-- A bound as an exact value. -/
def Bnd.val (b : Bnd) : FVal := .fin false b.num 1 b.exp

/-- The class-B tag of a bound, or P past BEXP 63 (09 R210). -/
def boundTag (b : Bnd) : Byte :=
  if b.num = 0 then tagB 0 else
  let e := max 0 ((ceilLog2 b.num : Int) + b.exp + 32)
  if 63 < e then tagP else tagB e.toNat

/-- ρ of a set of rounded results (09 R210): half the gap under `.rn`, else the gap. -/
def rhoOf (mode : RMode) (rs : List Rounded) : Bnd :=
  rs.foldl (fun b r => match r.gap with
    | some q => b.max ⟨1, if mode = .rn then q - 1 else q⟩
    | none => b) Bnd.zero

/-- The result tag of a `.b` word (09 R210): E if no source is class B; P if an active result is NaN, infinite or changed by
clamping; else the bound's. -/
def boundedTag (anyB : Bool) (rs : List Rounded) (b : Bnd) : Byte :=
  if !anyB then tagE
  else if rs.any (fun r => r.special || r.clamped) then tagP
  else boundTag b

/-- The largest magnitude of a list of values, NaN and infinities left out. -/
def maxMag (xs : List FVal) : FVal :=
  let mag : FVal → FVal
    | .fin _ n d e => .fin false n d e
    | x => x
  (xs.filter (fun x => !x.isNan && !x.isInf)).foldl
    (fun m x => if FVal.cmp m (mag x) < 0 then mag x else m) (.zero false)

/-! ## Comparison of bounded values (09 R199, R211) -/

/-- Condition `c` on two values with bounds: each relation over the whole intervals, an infinity being a point. -/
def boundedCond (c : Nat) (a b : FVal) (ba bb : Bnd) : Bool :=
  let num := !a.isNan && !b.isNan
  let wide := !a.isInf && !b.isInf
  let r := (ba.add bb).val
  -- a < b with the intervals apart, or within touching distance
  let lt (x y : FVal) := if wide then decide (FVal.cmp (FVal.add false x r) y < 0) else decide (FVal.cmp x y < 0)
  let le (x y : FVal) := if wide then decide (FVal.cmp (FVal.add false x r) y ≤ 0) else decide (FVal.cmp x y ≤ 0)
  let eq := if wide then
      decide (FVal.cmp a (FVal.add false b r) ≤ 0) && decide (FVal.cmp b (FVal.add false a r) ≤ 0)
    else decide (FVal.cmp a b = 0)
  match c with
  | 0 => num && eq
  | 1 => !(num && eq)
  | 2 => num && lt a b
  | 3 => num && le a b
  | 4 => num && lt b a
  | 5 => num && le b a
  | 6 => !num
  | _ => num

/-- Carry and borrow out of an n-bit addition and subtraction (07 R153). -/
def carryOut (n a b c : Nat) : Bool := 2 ^ n ≤ a + b + c
def borrowOut (a b c : Nat) : Bool := a < b + c

end Sys2Proof.Machine
end

