-- ==== Sys2Proof/Machine/Operands.lean ====
section
/-! DEFINITION. Operand forms of the vector ALU: what a word sees of its agent, how a source supplies a lane (03 R53, R54,
07 R148, R149, 09 R193), and what it writes. The same for the 32 lanes of a wave and the 64 of a scarab. -/

namespace Sys2Proof.Machine

/-- What an ALU word sees of its agent. `once` stands for the lane number where a word executes once (07 R150), which the
spec leaves open. -/
structure View where
  lanes : Nat
  exec : Nat
  vec : Nat → Nat → Nat
  sca : Nat → Nat
  msk : Nat → Nat
  tag : Nat → Byte
  wave : Nat
  once : Nat
  lattice : Nat → List Nat

/-- A write of a vector register: index, new lane values, result tag, and whether the old tag is always kept in the
ranking (`pack`, 09 R207). -/
structure VecWrite where
  reg : Nat
  vals : List (Nat × Nat)
  tag : Byte
  keep : Bool := false
  deriving DecidableEq, Repr

/-- What a word writes. -/
structure Out where
  vecs : List VecWrite := []
  scas : List (Nat × Nat) := []
  msks : List (Nat × Nat) := []
  deriving DecidableEq, Repr

namespace View

def active (w : View) : List Nat := setBits w.lanes w.exec
def isActive (w : View) (l : Nat) : Bool := natBit w.exec l

end View

/-- The exact value of selects 0x50 to 0x57 in eighths of no more than 4.0 (03 R54). -/
def constReal (c : Nat) : FVal :=
  .fin (4 ≤ c % 8) (2 ^ (c % 4)) 1 (-1)

/-- Whether a format is read as floating point (E8M0 among them). -/
def isFloatFmt (f : Fmt) : Bool := (floatSpec f).isSome || f == .e8m0

/-- Whether a format is one of the packed codes. -/
def isPackedFmt : Fmt → Bool
  | .f16x2 | .bf16x2 | .e4m3x4 | .e5m2x4 => true
  | _ => false

/-- The value of one element repeated in every element of the lane (03 R54). -/
def repeatElem (f : Fmt) (x : Nat) : Nat :=
  (List.range (elemCount f)).foldl (fun a j => a + x * 2 ^ (elemBits f * j)) 0

/-- The integer of an integer select, with `lane` and `wave` for #lane and #wave (03 R54). -/
def constInt (c lane wave : Nat) : Int :=
  if c < 0x40 then (c : Int) else if c < 0x50 then (c : Int) - 0x50 else if c = 0x58 then (lane : Int) else (wave : Int)

/-- The exact value a select other than #imm stands for in a floating-point format. -/
def constVal (c lane wave : Nat) : FVal :=
  if 0x50 ≤ c ∧ c ≤ 0x57 then constReal c else .ofInt (constInt c lane wave)

/-- The bits a constant select supplies to a lane, read in format `f` (03 R54): in lc16, a packed type (08 R175), #imm is the whole
lane. -/
def constBits (f : Fmt) (c : Nat) (imm : Word) (lane wave : Nat) : Nat :=
  if isFloatFmt f then
    if c = 0x5A then (if f = .f64 then toF64 (ofF32 imm.toNat) else imm.toNat % 2 ^ fmtBits f)
    else repeatElem f (deliverTo f .rn false 0 (constVal c lane wave)).bits
  else if f == .lc16 then imm.toNat
  else if c = 0x5A then wrapTo (fmtBits f) (toSigned 32 imm.toNat)
  else wrapTo (fmtBits f) (constInt c lane wave)

/-- Whether a select is accepted in an operand read in format `f`: exactly representable, and 0x50 to 0x57 only in a
floating-point format (03 R54). No integer is a lane of LC16 codes (assumption 116). -/
def constOk (f : Fmt) (c : Nat) : Bool :=
  let exact (x : FVal) := (deliverTo f .rn false 0 x).gap.isNone && !(deliverTo f .rn false 0 x).clamped &&
    (!(f == .e8m0) || ((deliverTo f .rn false 0 x).bits != 0xFF && FVal.cmp (decodeE8m0 (deliverTo f .rn false 0 x).bits) x == 0 && !x.isZero))
  if 0x5B ≤ c then false
  else if c = 0x5A then true
  else if f == .lc16 then false
  else if 0x50 ≤ c && c ≤ 0x57 then isFloatFmt f && exact (constReal c)
  else if isFloatFmt f then
    (if c = 0x58 || c = 0x59 then (List.range 32).all (fun l => exact (constVal c l l)) else exact (constVal c 0 0))
  else true

/-- A source operand's bits for a lane, read in format `f`: a register or pair, a scalar, a mask bit or a constant. -/
def srcBits (w : View) (t : TOp) (f : Fmt) (o : Opnd) (l : Nat) : Nat :=
  match o with
  | .v i => if fmtBits f = 64 then w.vec i.toNat l + w.vec (i.toNat + 1) l * 2 ^ 32 else w.vec i.toNat l % 2 ^ fmtBits f
  | .s i => w.sca i.toNat % 2 ^ fmtBits f
  | .m i => if natBit (w.msk i.toNat) l then 1 else 0
  | .k c => constBits f c.toNat t.imm l w.wave

/-- The exact value of element `j` of a source lane read in a float format. -/
def srcElem (w : View) (t : TOp) (f : Fmt) (o : Opnd) (l j : Nat) : FVal :=
  decodeElem f (srcBits w t f o l / 2 ^ (elemBits f * j) % 2 ^ elemBits f)

/-- The tag of a source: a pair's the worse of its two. -/
def srcTag (w : View) (f : Fmt) : Opnd → Byte
  | .v i => if fmtBits f = 64 then tagWorst (w.tag i.toNat) (w.tag (i.toNat + 1)) else w.tag i.toNat
  | _ => tagE

/-- The writes of a vector register or pair: 64-bit values in two registers tagged alike (07 R148, R151). -/
def vecOut (bits reg : Nat) (vals : List (Nat × Nat)) (tag : Byte) : List VecWrite :=
  if bits = 64 then
    [{ reg := reg, vals := vals.map (fun p => (p.1, p.2 % 2 ^ 32)), tag := tag },
     { reg := reg + 1, vals := vals.map (fun p => (p.1, p.2 / 2 ^ 32 % 2 ^ 32)), tag := tag }]
  else [{ reg := reg, vals := vals.map (fun p => (p.1, p.2 % 2 ^ 32)), tag := tag }]

/-- The lanes a word's results are computed for: the active ones, or the one execution of a scalar destination. -/
def resultLanes (w : View) (d : Opnd) : List Nat :=
  match d with
  | .s _ => [w.once]
  | _ => w.active

/-- Results of `n` bits for the lanes, extended into the destination (07 R148, R149): a vector register or pair, a scalar,
or a mask of the nonzero ones (0 in inactive lanes, R162). -/
def putResult (w : View) (signed : Bool) (n : Nat) (d : Opnd) (tag : Byte) (vals : List (Nat × Nat)) : Out :=
  match d with
  | .v i => { vecs := vecOut n i.toNat (vals.map (fun p => (p.1, extTo signed n (max n 32) p.2))) tag }
  | .s i => { scas := vals.map (fun p => (i.toNat, extTo signed n 64 p.2)) }
  | .m i => { msks := [(i.toNat, ofBits (fun l => vals.any (fun p => p.1 == l && p.2 != 0)) w.lanes)] }
  | .k _ => {}

/-- A lane-by-lane operation of `n`-bit results (07 R151). -/
def laneOp (w : View) (t : TOp) (n : Nat) (f : Nat → Nat) : Out :=
  putResult w (fmtSigned t.fmt) n t.d tagE ((resultLanes w t.d).map (fun l => (l, f l)))

end Sys2Proof.Machine
end

