-- ==== Sys2Proof/Machine/IntOps.lean ====
section
/-! DEFINITION. What the integer, address and bit operations compute (07), as functions of the agent's view. -/

namespace Sys2Proof.Machine

/-- The width of the format and the lane sources read in it. -/
def srcA (w : View) (t : TOp) (l : Nat) : Nat := srcBits w t t.fmt t.a l
def srcB (w : View) (t : TOp) (l : Nat) : Nat := srcBits w t t.fmt t.b l
def srcC (w : View) (t : TOp) (l : Nat) : Nat := srcBits w t t.fmt t.c l

/-- A source read as the integer type of FMT. -/
def intA (w : View) (t : TOp) (l : Nat) : Int := toInt (fmtSigned t.fmt) (fmtBits t.fmt) (srcA w t l)
def intB (w : View) (t : TOp) (l : Nat) : Int := toInt (fmtSigned t.fmt) (fmtBits t.fmt) (srcB w t l)
def intC (w : View) (t : TOp) (l : Nat) : Int := toInt (fmtSigned t.fmt) (fmtBits t.fmt) (srcC w t l)

/-- The exact result wrapped, or clamped with `.sat` (OPMOD[0], R152). -/
def narrow (t : TOp) (x : Int) : Nat :=
  let n := fmtBits t.fmt
  wrapTo n (if bitOf t.opmod 0 then clampTo (fmtSigned t.fmt) n x else x)

def addOp (w : View) (t : TOp) : Out := laneOp w t (fmtBits t.fmt) (fun l => narrow t (intA w t l + intB w t l))
def subOp (w : View) (t : TOp) : Out := laneOp w t (fmtBits t.fmt) (fun l => narrow t (intA w t l - intB w t l))
def absOp (w : View) (t : TOp) : Out := laneOp w t (fmtBits t.fmt) (fun l => narrow t ((intA w t l).natAbs : Int))
def negOp (w : View) (t : TOp) : Out := laneOp w t (fmtBits t.fmt) (fun l => narrow t (-(intA w t l)))

def mulOp (w : View) (t : TOp) : Out :=
  laneOp w t (fmtBits t.fmt) (fun l => wrapTo (fmtBits t.fmt) (intA w t l * intB w t l))
def mulhOp (w : View) (t : TOp) : Out :=
  laneOp w t (fmtBits t.fmt) (fun l => wrapTo (fmtBits t.fmt) ((intA w t l * intB w t l) / (2 : Int) ^ fmtBits t.fmt))
def madOp (w : View) (t : TOp) : Out :=
  laneOp w t (fmtBits t.fmt) (fun l => wrapTo (fmtBits t.fmt) (intA w t l * intB w t l + intC w t l))
def minOp (w : View) (t : TOp) : Out :=
  laneOp w t (fmtBits t.fmt) (fun l => wrapTo (fmtBits t.fmt) (min (intA w t l) (intB w t l)))
def maxOp (w : View) (t : TOp) : Out :=
  laneOp w t (fmtBits t.fmt) (fun l => wrapTo (fmtBits t.fmt) (max (intA w t l) (intB w t l)))

/-- Quotient toward zero and remainder with the edge results of R154. -/
def divRem (signed : Bool) (n : Nat) (a b : Int) : Nat × Nat :=
  if b = 0 then (2 ^ n - 1, wrapTo n a)
  else if signed && a == intMin true n && b == -1 then (wrapTo n a, 0)
  else (wrapTo n (a.tdiv b), wrapTo n (a.tmod b))

def divOp (w : View) (t : TOp) : Out :=
  laneOp w t (fmtBits t.fmt) (fun l => (divRem (fmtSigned t.fmt) (fmtBits t.fmt) (intA w t l) (intB w t l)).1)
def remOp (w : View) (t : TOp) : Out :=
  laneOp w t (fmtBits t.fmt) (fun l => (divRem (fmtSigned t.fmt) (fmtBits t.fmt) (intA w t l) (intB w t l)).2)

/-- The mask a carrying operation leaves: new bits in active lanes, the rest unchanged (R153). -/
def carryMask (w : View) (m : Nat) (out : Nat → Bool) : Nat :=
  ofBits (fun l => if w.isActive l then out l else natBit (w.msk m) l) w.lanes

/-- Index of a mask operand. -/
def opndIx : Opnd → Nat
  | .v i => i.toNat
  | .s i => i.toNat
  | .m i => i.toNat
  | .k i => i.toNat

/-- The carry or borrow bit lane `l` takes in. -/
def carryIn (w : View) (t : TOp) (l : Nat) : Nat := if natBit (w.msk (opndIx t.c)) l then 1 else 0

def addcOp (w : View) (t : TOp) : Out :=
  let n := fmtBits t.fmt
  { laneOp w t n (fun l => (srcA w t l + srcB w t l + carryIn w t l) % 2 ^ n) with
    msks := [(opndIx t.c, carryMask w (opndIx t.c) (fun l => carryOut n (srcA w t l) (srcB w t l) (carryIn w t l)))] }
def subbOp (w : View) (t : TOp) : Out :=
  let n := fmtBits t.fmt
  { laneOp w t n (fun l => wrapTo n ((srcA w t l : Int) - srcB w t l - carryIn w t l)) with
    msks := [(opndIx t.c, carryMask w (opndIx t.c) (fun l => borrowOut (srcA w t l) (srcB w t l) (carryIn w t l)))] }

/-! ## Logic, shifts, bits (R155 to R161) -/

def notBits (n x : Nat) : Nat := 2 ^ n - 1 - x % 2 ^ n

def andOp (w : View) (t : TOp) : Out := laneOp w t (fmtBits t.fmt) (fun l => srcA w t l &&& srcB w t l)
def orOp (w : View) (t : TOp) : Out := laneOp w t (fmtBits t.fmt) (fun l => srcA w t l ||| srcB w t l)
def xorOp (w : View) (t : TOp) : Out := laneOp w t (fmtBits t.fmt) (fun l => srcA w t l ^^^ srcB w t l)
def andnOp (w : View) (t : TOp) : Out :=
  laneOp w t (fmtBits t.fmt) (fun l => srcA w t l &&& notBits (fmtBits t.fmt) (srcB w t l))
def notOp (w : View) (t : TOp) : Out := laneOp w t (fmtBits t.fmt) (fun l => notBits (fmtBits t.fmt) (srcA w t l))

def shlOp (w : View) (t : TOp) : Out :=
  let n := fmtBits t.fmt
  laneOp w t n (fun l => if srcB w t l < n then srcA w t l * 2 ^ srcB w t l % 2 ^ n else 0)
def shrOp (w : View) (t : TOp) : Out :=
  let n := fmtBits t.fmt
  laneOp w t n (fun l => if srcB w t l < n then srcA w t l / 2 ^ srcB w t l else 0)
def sraOp (w : View) (t : TOp) : Out :=
  let n := fmtBits t.fmt
  laneOp w t n (fun l => wrapTo n (toSigned n (srcA w t l) / (2 : Int) ^ min n (srcB w t l)))
def rotlOp (w : View) (t : TOp) : Out :=
  let n := fmtBits t.fmt
  laneOp w t n (fun l => (srcA w t l * 2 ^ (srcB w t l % n) + srcA w t l / 2 ^ (n - srcB w t l % n)) % 2 ^ n)

def fshOp (w : View) (t : TOp) : Out :=
  let n := fmtBits t.fmt
  laneOp w t n (fun l => (srcA w t l * 2 ^ n + srcB w t l) / 2 ^ (srcC w t l % n) % 2 ^ n)

/-- Field length clipped to the width (R158). -/
def fieldLen (n pos len : Nat) : Nat := if n ≤ pos then 0 else min len (n - pos)

def bfeOp (w : View) (t : TOp) : Out :=
  let n := fmtBits t.fmt
  laneOp w t n (fun l =>
    let pos := srcB w t l % 256
    let len := fieldLen n pos (srcC w t l % 256)
    if len = 0 then 0 else extTo (fmtSigned t.fmt) len n (srcA w t l / 2 ^ pos % 2 ^ len))
def bfiOp (w : View) (t : TOp) : Out :=
  let n := fmtBits t.fmt
  laneOp w t n (fun l =>
    let pos := srcC w t l % 256
    let len := fieldLen n pos (srcC w t l / 256 % 256)
    let b := srcB w t l
    b - b / 2 ^ pos % 2 ^ len * 2 ^ pos + srcA w t l % 2 ^ len * 2 ^ pos)

def popcOp (w : View) (t : TOp) : Out :=
  laneOp w t (fmtBits t.fmt) (fun l => popcount (fmtBits t.fmt) (srcA w t l))
def clzOp (w : View) (t : TOp) : Out :=
  laneOp w t (fmtBits t.fmt) (fun l => trailingZeros (fmtBits t.fmt) (reverseBits (fmtBits t.fmt) (srcA w t l)))
def ctzOp (w : View) (t : TOp) : Out :=
  laneOp w t (fmtBits t.fmt) (fun l => trailingZeros (fmtBits t.fmt) (srcA w t l))
def brevOp (w : View) (t : TOp) : Out :=
  laneOp w t (fmtBits t.fmt) (fun l => reverseBits (fmtBits t.fmt) (srcA w t l))

/-- One byte of a byte permute, by its selector nibble (R160). -/
def permByte (a sel : Nat) : Nat :=
  if sel < 4 then a / 2 ^ (8 * sel) % 256
  else if sel < 8 then (if natBit a (8 * (sel - 4) + 7) then 0xFF else 0)
  else 0

def bpermOp (w : View) (t : TOp) : Out :=
  laneOp w t 32 (fun l => (List.range 4).foldl
    (fun d j => d + permByte (srcA w t l) (srcB w t l / 2 ^ (4 * j) % 16) * 2 ^ (8 * j)) 0)

def clmulOp (w : View) (t : TOp) : Out :=
  let n := fmtBits t.fmt
  laneOp w t n (fun l => carryless n (srcA w t l) (srcB w t l) % 2 ^ n)
def clmulhOp (w : View) (t : TOp) : Out :=
  let n := fmtBits t.fmt
  laneOp w t n (fun l => carryless n (srcA w t l) (srcB w t l) / 2 ^ n)

/-! ## Compare, select, moves, addresses (R162 to R164) -/

/-- The six conditions of R162. -/
def intCond (c : Nat) (a b : Int) : Bool :=
  match c with
  | 0 => a == b
  | 1 => a != b
  | 2 => decide (a < b)
  | 3 => decide (a ≤ b)
  | 4 => decide (b < a)
  | _ => decide (b ≤ a)

def cmpOp (w : View) (t : TOp) : Out :=
  putResult w false 32 t.d tagE (w.active.map (fun l =>
    (l, if intCond (t.opmod.toNat % 8) (intA w t l) (intB w t l) then 1 else 0)))

def selOp (w : View) (t : TOp) : Out :=
  laneOp w t (fmtBits t.fmt) (fun l => if natBit (w.msk (opndIx t.c)) l then srcA w t l else srcB w t l)
def movOp (w : View) (t : TOp) : Out := laneOp w t (fmtBits t.fmt) (fun l => srcA w t l)
def moviOp (w : View) (t : TOp) : Out :=
  laneOp w t (fmtBits t.fmt) (fun _ => wrapTo (fmtBits t.fmt) (toSigned 32 t.imm.toNat))

def leaOp (w : View) (t : TOp) : Out :=
  laneOp w t 64 (fun l =>
    let b := srcBits w t .i32 t.b l
    wrapTo 64 ((srcBits w t .n64 t.a l : Int) +
      toInt (!bitOf t.opmod 3) 32 b * (2 : Int) ^ (t.opmod.toNat % 8) + toSigned 32 t.imm.toNat))

/-! ## Lane operations (R165 to R167) -/

/-- The lane `shfl` reads, if it is one of the wave's. Distances are taken as unsigned. -/
def shflLane (w : View) (mode l d : Nat) : Option Nat :=
  let n := w.lanes
  match mode with
  | 0 => some (d % n)
  | 1 => if d ≤ l then some (l - d) else none
  | 2 => if l + d < n then some (l + d) else none
  | _ => some (l ^^^ (d % n))

def shflOp (w : View) (t : TOp) : Out :=
  laneOp w t (fmtBits t.fmt) (fun l =>
    srcA w t ((shflLane w (t.opmod.toNat % 4) l (srcBits w t .n32 t.b l)).getD l))

def bcastOp (w : View) (t : TOp) : Out :=
  let n := fmtBits t.fmt
  let first := bitOf t.opmod 0
  let j := if first then w.active.head? else some (srcBits w t .n32 t.b w.once % w.lanes)
  match j with
  | some j => laneOp w t n (fun _ => srcA w t j)
  | none => match t.d with
    | .s i => { scas := [(i.toNat, 0)] }
    | _ => {}

def ballotOp (w : View) (t : TOp) : Out :=
  let x := ofBits (fun l => w.isActive l && srcBits w t .b32 t.a l != 0) w.lanes
  match t.d with
  | .s i => { scas := [(i.toNat, x)] }
  | .m i => { msks := [(i.toNat, x)] }
  | _ => {}

/-! ## Mask operations (R169) -/

def maskOp (w : View) (t : TOp) (f : Nat → Nat → Nat) : Out :=
  { msks := [(opndIx t.d, f (w.msk (opndIx t.a)) (w.msk (opndIx t.b)) % 2 ^ w.lanes)] }

def mandOp (w : View) (t : TOp) : Out := maskOp w t (· &&& ·)
def morOp (w : View) (t : TOp) : Out := maskOp w t (· ||| ·)
def mxorOp (w : View) (t : TOp) : Out := maskOp w t (· ^^^ ·)
def mnotOp (w : View) (t : TOp) : Out := maskOp w t (fun a _ => notBits w.lanes a)
def mpopOp (w : View) (t : TOp) : Out := { scas := [(opndIx t.d, popcount w.lanes (w.msk (opndIx t.a)))] }

end Sys2Proof.Machine
end

