-- ==== Sys2Proof/Machine/Transcend.lean ====
section
/-! DEFINITION. Reciprocal, roots and transcendentals (09 R201, R202). The correctly rounded ones are computed. Of the others
the spec bounds the error only: the result is a free value of Config, kept where it lies within the bound of an
enclosure of the exact function computed here in fixed point, else the enclosure's own middle (assumption 14). -/

namespace Sys2Proof.Machine

/-- Fixed point with 320 fraction bits. -/
def fxBits : Nat := 320
def fxOne : Int := (2 : Int) ^ fxBits

/-- atan(1/k) by its series, `n` terms from the `i`-th, `p` holding 2^320 / k^(2i+1). -/
def atanInv (k : Nat) : Nat → Nat → Int → Int
  | 0, _, _ => 0
  | n + 1, i, p => (if i % 2 = 0 then 1 else -1) * (p / (2 * i + 1 : Nat)) + atanInv k n (i + 1) (p / (k * k : Nat))

/-- 2π by Machin's formula. -/
def fxTwoPi : Int := 8 * (4 * atanInv 5 72 0 (fxOne / 5) - atanInv 239 24 0 (fxOne / 239))

/-- ln 2 = 2 atanh(1/3), by its series. -/
def atanhInv3 : Nat → Nat → Int → Int
  | 0, _, _ => 0
  | n + 1, i, p => p / (2 * i + 1 : Nat) + atanhInv3 n (i + 1) (p / 9)

def fxLn2 : Int := 2 * atanhInv3 104 0 (fxOne / 3)

/-- exp(x) - the terms from the `i`-th, `p` holding x^i / i!. -/
def expSeries (x : Int) : Nat → Nat → Int → Int
  | 0, _, _ => 0
  | n + 1, i, p => p + expSeries x n (i + 1) (p * x / fxOne / (i + 1 : Nat))

/-- sin and cos series: every second term of the exponential's, with alternating signs. -/
def trigSeries (x : Int) : Nat → Nat → Int → Int
  | 0, _, _ => 0
  | n + 1, i, p => p - trigSeries x n (i + 2) (p * x / fxOne / (i + 1 : Nat) * x / fxOne / (i + 2 : Nat))

/-- A finite f32 value times 2^320, exactly or rounded down. -/
def fxOf : FVal → Int
  | .fin neg num den exp =>
    let (q, _, _) := splitAt num den (exp + fxBits)
    if neg then -(q : Int) else q
  | _ => 0

/-- A fixed-point number scaled by 2^k, as an exact value. -/
def fxVal (x : Int) (k : Int) : FVal := .fin (x < 0) x.natAbs 1 (k - fxBits)

/-- 2^x for a finite f32 x of magnitude below 256. -/
def exp2Fx (x : FVal) : FVal :=
  let f := fxOf x
  let k := f / fxOne
  fxVal (expSeries ((f - k * fxOne) * fxLn2 / fxOne) 80 0 fxOne) k

/-- log2 of m in [1, 2), bit by bit: `n` bits by repeated squaring. -/
def log2Bits : Nat → Int → Int → Int → Int
  | 0, _, _, acc => acc
  | n + 1, m, w, acc =>
    let s := m * m / fxOne
    if 2 * fxOne ≤ s then log2Bits n (s / 2) (w / 2) (acc + w) else log2Bits n s (w / 2) acc

/-- log2 of a positive finite value. -/
def log2Fx (x : FVal) : FVal :=
  let k := x.log2
  match x with
  | .fin _ num den exp =>
    let (q, _, _) := splitAt num den (exp - k + fxBits)
    fxVal (k * fxOne + log2Bits 64 q (fxOne / 2) 0) 0
  | _ => .nan

/-- 2π held to 128 bits: three before the point and 125 after it, rounded to nearest (assumption 80). -/
def heldTwoPi : Int := (fxTwoPi + 2 ^ 194) / 2 ^ 195 * 2 ^ 195

/-- The argument reduced modulo that 2π: exact for every finite f32. -/
def reduceFx (x : FVal) : Int := fxOf x % heldTwoPi

def sinFx (x : FVal) : FVal := let r := reduceFx x; fxVal (trigSeries r 48 1 r) 0
def cosFx (x : FVal) : FVal := let r := reduceFx x; fxVal (trigSeries r 48 0 fxOne) 0

/-- tanh by (e^2x - 1) / (e^2x + 1), saturating past 16. -/
def tanhFx (x : FVal) : FVal :=
  let f := fxOf x
  if 16 * fxOne ≤ f then fxVal fxOne 0
  else if f ≤ -(16 * fxOne) then fxVal (-fxOne) 0
  else
    let y := 2 * f
    let k := y / fxLn2
    -- e^y = 2^k e^(y - k ln 2)
    let r := expSeries (y - k * fxLn2) 80 0 fxOne
    let e := if 0 ≤ k then r * (2 : Int) ^ k.toNat else r / (2 : Int) ^ (-k).toNat
    fxVal ((e - fxOne) * fxOne / (e + fxOne)) 0

/-- |a - b| ≤ 2^k. -/
def within (k : Int) (a b : FVal) : Bool :=
  match FVal.add false a b.negate with
  | .fin _ num den exp => decide (FVal.cmp (.fin false num den exp) (.fin false 1 1 k) ≤ 0)
  | _ => false

/-- The exponent of one f32 ulp of a value. -/
def ulpExp (x : FVal) : Int := max x.log2 (-126) - 23

/-- The free result where it is finite and within 2^k of the exact value `y`, else `y` rounded. -/
def freeWithin (op x : Nat) (y : FVal) (k : Int) : Nat :=
  let c := (Config.transcendental op (BitVec.ofNat 32 x)).toNat
  if within k (ofF32 c) y then c else toF32 y

/-- frcp of a value (R202), exact before rounding. -/
def rcpVal (x : FVal) : FVal := FVal.div (.fin false 1 1 0) x

/-- The square root of a finite positive value, to 128 bits with the rest in a sticky bit: rounds as the exact root does to
any format of at most 53 bits. -/
def sqrtVal : FVal → FVal
  | .fin neg num den exp =>
    if num = 0 then .zero neg
    else if neg then .nan
    else
      -- num/den * 2^exp = q * 2^(e2) with e2 even and q of at least 256 bits
      let s : Int := 400
      let e := exp - s
      let e2 := if e % 2 = 0 then e else e - 1
      let n := num * 2 ^ (exp - e2).toNat
      let q := n / den
      let r := isqrt q (Nat.log2 q / 2 + 1) 0
      let sticky := if r * r = q && n % den == 0 then 0 else 1
      .fin false (2 * r + sticky) 1 (e2 / 2 - 1)
  | .inf neg => if neg then .nan else .inf false
  | .nan => .nan

/-- 1/sqrt (R202). -/
def rsqVal (x : FVal) : FVal :=
  match x with
  | .fin neg num _ _ => if num = 0 then .inf neg else if neg then .nan else
      -- the sticky root of 1/x
      sqrtVal (rcpVal x)
  | .inf neg => if neg then .nan else .zero false
  | .nan => .nan

/-- Whether a finite value is a power of two, and its exponent. -/
def pow2Exp : FVal → Option Int
  | .fin false num 1 exp => if num = 2 ^ Nat.log2 num then some (exp + Nat.log2 num) else none
  | _ => none

/-- Whether a finite value is an integer, and which. -/
def integral? : FVal → Option Int
  | .fin neg num den exp =>
    let (q, r, _) := splitAt num den exp
    if r = 0 then some (if neg then -(q : Int) else q) else none
  | _ => none

def f32One : Nat := 0x3F800000

/-- f32 results of the five transcendentals by operation number (R201, R202). -/
def transcend (op x : Nat) : Nat :=
  let v := ofF32 x
  match op, v with
  | _, .nan => 0x7FC00000
  | 0x10B, .inf neg => if neg then 0 else 0x7F800000
  | 0x10B, .fin neg num _ _ =>
    if num = 0 then f32One
    else match integral? v with
      | some k => if -400 < k && k < 400 then toF32 (.fin false 1 1 k) else if neg then 0 else 0x7F800000
      | none =>
        if FVal.cmp v (.ofInt 128) ≥ 0 then 0x7F800000
        else if FVal.cmp v (.ofInt (-150)) < 0 then 0
        else let y := exp2Fx v; freeWithin op x y (ulpExp y + 1)
  | 0x10C, .inf neg => if neg then 0x7FC00000 else 0x7F800000
  | 0x10C, .fin neg num _ _ =>
    if num = 0 then 0xFF800000
    else if neg then 0x7FC00000
    else match pow2Exp v with
      | some k => toF32 (.ofInt k)
      | none => let y := log2Fx v; freeWithin op x y (if y.log2 < 0 then -22 else ulpExp y + 1)
  | 0x10F, .inf neg => if neg then 0xBF800000 else f32One
  | 0x10F, .fin _ num _ _ => if num = 0 then x else let y := tanhFx v; freeWithin op x y (max (-22) (ulpExp y + 1))
  | _, .inf _ => 0x7FC00000
  | 0x10D, .fin _ num _ _ => if num = 0 then x else freeWithin op x (sinFx v) (-21)
  | _, .fin _ num _ _ => if num = 0 then f32One else freeWithin op x (cosFx v) (-21)

/-- The value of frcp, frsq or fsqrt before rounding. -/
def rootVal (op : Nat) (v : FVal) : FVal :=
  match op with
  | 0x108 => rcpVal v
  | 0x109 => rsqVal v
  | _ => sqrtVal v

/-- Bits of an operation 0x108 to 0x10F in a format (R201): `frsq` in f64 and f32 is a free value within 1 ulp. -/
def specialFn (op : Nat) (f : Fmt) (x : Nat) : Nat :=
  match floatSpec f with
  | none => 0
  | some sp =>
    if 0x10B ≤ op then
      (if f = .f32 then transcend op x
       else (deliver sp .rn false 0 (ofF32 (transcend op (toF32 (decodeFloat sp x))))).bits)
    else
      let v := rootVal op (decodeFloat sp x)
      if op = 0x109 && (f = .f64 || f = .f32) && FVal.cmp v (.ofInt 1) ≠ 0 && !v.isZero then
        let c := (Config.frsq (f == .f64) (BitVec.ofNat 64 x)).toNat % 2 ^ fmtBits f
        if within (v.log2 - sp.mbits) (decodeFloat sp c) v then c else (deliver sp .rn false 0 v).bits
      else (deliver sp .rn false 0 v).bits

end Sys2Proof.Machine
end

