-- ==== Sys2Proof/Machine/FloatOps.lean ====
section
/-! DEFINITION. What the floating-point and conversion operations compute (09), and the reductions of 07 R168. -/

namespace Sys2Proof.Machine

/-- The dither value of element `e` of lane `l` of a vector instruction (08 R188). -/
def laneDither (l e : Nat) : Nat := ditherD (l % 16) ((4 * (l / 16) + e) % 16) 0

/-- One destination element: what it rounded to and its place. -/
structure ElemRes where
  lane : Nat
  elem : Nat
  res : Rounded

/-- Results for every lane and element, from the exact value of each. -/
def elemResults (w : View) (t : TOp) (mode : RMode) (sat : Bool) (f : Nat → Nat → FVal) : List ElemRes :=
  (resultLanes w t.d).flatMap (fun l =>
    (List.range (elemCount t.fmt)).map (fun j =>
      { lane := l, elem := j, res := deliverTo t.fmt mode sat (laneDither l j) (f l j) }))

/-- Lane values of element results (08 R175). -/
def laneVals (w : View) (t : TOp) (rs : List ElemRes) : List (Nat × Nat) :=
  (resultLanes w t.d).map (fun l =>
    (l, rs.foldl (fun a r => if r.lane = l then a + r.res.bits * 2 ^ (elemBits t.fmt * r.elem) else a) 0))

/-- The result tag of a word with bound β before ρ, if a source is class B and the word has `.b`. -/
def floatTag (w : View) (t : TOp) (mode : RMode) (rs : List ElemRes) (srcs : List Opnd) (beta : Bnd) : Byte :=
  let rr := rs.map (·.res)
  boundedTag (t.bnd && srcs.any (fun o => tagIsB (srcTag w t.fmt o))) rr (beta.add (rhoOf mode rr))

/-- A floating-point operation on elements: exact value, mode, `.sat`, and bound of the sources (09 R196, R210). -/
def floatOp (w : View) (t : TOp) (mode : RMode) (sat : Bool) (srcs : List Opnd) (beta : Bnd) (f : Nat → Nat → FVal) : Out :=
  let rs := elemResults w t mode sat f
  putResult w false (fmtBits t.fmt) t.d (floatTag w t mode rs srcs beta) (laneVals w t rs)

def fmode (t : TOp) : RMode := rmodeOf (t.opmod.toNat % 8)
def fsat (t : TOp) : Bool := bitOf t.opmod 3

/-- β of a source operand (R210). -/
def betaOf (w : View) (t : TOp) (o : Opnd) : Bnd := tagBound (srcTag w t.fmt o)

/-- Largest magnitude of an operand over active lanes and elements (R210). -/
def maxOf (w : View) (t : TOp) (o : Opnd) : FVal :=
  maxMag ((resultLanes w t.d).flatMap (fun l => (List.range (elemCount t.fmt)).map (srcElem w t t.fmt o l)))

def faddOp (w : View) (t : TOp) : Out :=
  floatOp w t (fmode t) (fsat t) [t.a, t.b] ((betaOf w t t.a).add (betaOf w t t.b))
    (fun l j => FVal.add (fmode t == .rd) (srcElem w t t.fmt t.a l j) (srcElem w t t.fmt t.b l j))
def fsubOp (w : View) (t : TOp) : Out :=
  floatOp w t (fmode t) (fsat t) [t.a, t.b] ((betaOf w t t.a).add (betaOf w t t.b))
    (fun l j => FVal.add (fmode t == .rd) (srcElem w t t.fmt t.a l j) (srcElem w t t.fmt t.b l j).negate)
def fmulOp (w : View) (t : TOp) : Out :=
  floatOp w t (fmode t) (fsat t) [t.a, t.b] ((betaOf w t t.a).scale (maxOf w t t.b))
    (fun l j => FVal.mul (srcElem w t t.fmt t.a l j) (srcElem w t t.fmt t.b l j))

/-- The class-B factor of an `fma`, and the other (R210). -/
def fmaBound (w : View) (t : TOp) : Bnd :=
  if tagIsB (srcTag w t.fmt t.b) then (betaOf w t t.b).scale (maxOf w t t.a)
  else (betaOf w t t.a).scale (maxOf w t t.b)

def fmaOp (w : View) (t : TOp) : Out :=
  floatOp w t (fmode t) (fsat t) [t.a, t.b, t.c] ((fmaBound w t).add (betaOf w t t.c))
    (fun l j => FVal.add (fmode t == .rd)
      (FVal.mul (srcElem w t t.fmt t.a l j) (srcElem w t t.fmt t.b l j)) (srcElem w t t.fmt t.c l j))

/-- The smaller or larger value, -0 below +0, one NaN giving the other operand (R198). -/
def fminmax (larger : Bool) (a b : FVal) : FVal :=
  if a.isNan then b else if b.isNan then a else
  let c := FVal.cmp a b
  if c = 0 then (if a.neg? == larger then b else a)
  else if decide (c < 0) == larger then b else a

def fminOp (w : View) (t : TOp) : Out :=
  floatOp w t .rn false [t.a, t.b] ((betaOf w t t.a).max (betaOf w t t.b))
    (fun l j => fminmax false (srcElem w t t.fmt t.a l j) (srcElem w t t.fmt t.b l j))
def fmaxOp (w : View) (t : TOp) : Out :=
  floatOp w t .rn false [t.a, t.b] ((betaOf w t t.a).max (betaOf w t t.b))
    (fun l j => fminmax true (srcElem w t t.fmt t.a l j) (srcElem w t t.fmt t.b l j))

def fcmpOp (w : View) (t : TOp) : Out :=
  let j := if elemCount t.fmt = 2 && bitOf t.opmod 3 then 1 else 0
  let bnd := fun o => if t.bnd then betaOf w t o else Bnd.zero
  putResult w false 32 t.d tagE (w.active.map (fun l =>
    (l, if boundedCond (t.opmod.toNat % 8) (srcElem w t t.fmt t.a l j) (srcElem w t t.fmt t.b l j) (bnd t.a) (bnd t.b)
        then 1 else 0)))

/-- The class bit of an encoding (R200). -/
def classBit (f : FloatSpec) (x : Nat) : Nat :=
  let m := x % 2 ^ f.mbits
  let e := x / 2 ^ f.mbits % 2 ^ f.ebits
  let neg := natBit x (f.mbits + f.ebits)
  match decodeFloat f x with
  | .nan => if natBit m (f.mbits - 1) then 9 else 8
  | .inf n => if n then 0 else 7
  | .fin _ num _ _ =>
    if num = 0 then (if neg then 3 else 4)
    else if e = 0 then (if neg then 2 else 5)
    else if neg then 1 else 6

def fclassOp (w : View) (t : TOp) : Out :=
  match floatSpec t.fmt with
  | none => {}
  | some sp =>
    let n := if fmtBits t.fmt = 64 then 64 else 32
    putResult w false n t.d tagE ((resultLanes w t.d).map (fun l =>
      let x := srcA w t l
      (l, (List.range (elemCount t.fmt)).foldl (fun a j =>
        a + 2 ^ (16 * j + classBit sp (x / 2 ^ (elemBits t.fmt * j) % 2 ^ elemBits t.fmt))) 0)))

/-- Reciprocal, roots and transcendentals: one lane function of the operand's bits (R201). -/
def specialOp (op : Nat) (w : View) (t : TOp) : Out :=
  laneOp w t (fmtBits t.fmt) (fun l => specialFn op t.fmt (srcA w t l))

/-- Group sum of one lane's products, added to f32 C (R203). -/
def fdotOp (w : View) (t : TOp) : Out :=
  laneOp w t 32 (fun l =>
    let g := toF32 (groupSum ((List.range (elemCount t.fmt)).map (fun j =>
      FVal.mul (srcElem w t t.fmt t.a l j) (srcElem w t t.fmt t.b l j))))
    toF32 (FVal.add false (ofF32 (srcBits w t .f32 t.c l)) (ofF32 g)))

/-! ## fscale, fround (R204, R205) -/

/-- The second type of OPMOD[5:0] (03 R56). -/
def secondFmt (t : TOp) : Fmt :=
  match t.opmod.toNat % 64 with
  | 0x01 => .b8 | 0x02 => .b16 | 0x03 => .b32 | 0x04 => .b64
  | 0x08 => .i4 | 0x09 => .i8 | 0x0A => .i16 | 0x0B => .i32 | 0x0C => .i64
  | 0x10 => .n4 | 0x11 => .n8 | 0x12 => .n16 | 0x13 => .n32 | 0x14 => .n64
  | 0x18 => .f64 | 0x19 => .f32 | 0x1A => .f16 | 0x1B => .bf16
  | 0x20 => .e4m3 | 0x21 => .e5m2 | 0x22 => .e3m2 | 0x23 => .e2m3 | 0x24 => .e2m1 | 0x25 => .e8m0 | 0x26 => .lc16
  | 0x28 => .f16x2 | 0x29 => .bf16x2 | 0x2A => .e4m3x4 | 0x2B => .e5m2x4
  | _ => .none

/-- The scale value of `fscale` (R204). -/
def scaleVal (w : View) (t : TOp) (l : Nat) : FVal :=
  match secondFmt t with
  | .i32 => .fin false 1 1 (toSigned 32 (srcBits w t .i32 t.b l))
  | f => decodeElem f (srcBits w t f t.b l)

def fscaleOp (w : View) (t : TOp) : Out :=
  let mode := rmodeOf (t.opmod.toNat / 64)
  floatOp w t mode false [t.a] ((betaOf w t t.a).scale (maxMag ((resultLanes w t.d).map (scaleVal w t))))
    (fun l j => FVal.mul (srcElem w t t.fmt t.a l j) (scaleVal w t l))

/-- A value rounded to an integral one, a zero keeping its sign (R205). -/
def roundIntegral (mode : RMode) (dith : Nat) (x : FVal) : FVal :=
  match x with
  | .fin neg num den exp => let (i, _) := roundInt mode dith neg num den exp; .fin neg i.natAbs 1 0
  | y => y

def froundOp (w : View) (t : TOp) : Out :=
  floatOp w t .rn false [] Bnd.zero
    (fun l j => roundIntegral (fmode t) (laneDither l j) (srcElem w t t.fmt t.a l j))

/-! ## cvt (R206) -/

/-- Whether a format is a bit type. -/
def isBitFmt : Fmt → Bool
  | .b8 | .b16 | .b32 | .b64 => true
  | _ => false

/-- Whether a format is an integer type, signed or not. -/
def isIntFmt : Fmt → Bool
  | .i4 | .i8 | .i16 | .i32 | .i64 | .n4 | .n8 | .n16 | .n32 | .n64 => true
  | _ => false

/-- One value converted to an integer type: NaN gives 0, and the rest is clamped. -/
def toIntType (d : Fmt) (mode : RMode) (dith : Nat) (x : FVal) : Rounded :=
  let n := fmtBits d
  let sg := fmtSigned d
  match x with
  | .nan => { bits := 0, special := true }
  | .inf neg => { bits := wrapTo n (if neg then intMin sg n else intMax sg n), clamped := true }
  | .fin neg num den exp =>
    let (i, inexact) := roundInt mode dith neg num den exp
    let c := clampTo sg n i
    { bits := wrapTo n c, clamped := c != i, gap := if inexact then some 0 else none }

/-- One element converted from type `s` to type `d` (R206). -/
def convert (d s : Fmt) (mode : RMode) (dith x : Nat) : Rounded :=
  if d = s || isBitFmt d then { bits := x % 2 ^ elemBits d, special :=
      (match decodeElem d x with | .nan => (floatSpec d).isSome | .inf _ => true | _ => false) }
  else if isIntFmt d then
    (if isIntFmt s then
      let v := toInt (fmtSigned s) (fmtBits s) x
      let c := clampTo (fmtSigned d) (fmtBits d) v
      { bits := wrapTo (fmtBits d) c, clamped := c != v }
     else toIntType d mode dith (decodeElem s x))
  else deliverTo d mode false dith (decodeElem s x)

/-- The conversion of each lane: a vector lane's bits above the result are zero (R193), a scalar's extend it (07 R149). -/
def cvtOp (w : View) (t : TOp) : Out :=
  let s := secondFmt t
  let mode := rmodeOf (t.opmod.toNat / 64)
  let rs : List ElemRes := (resultLanes w t.d).flatMap (fun l =>
    (List.range (elemCount t.fmt)).map (fun j =>
      { lane := l, elem := j,
        res := convert t.fmt s mode (laneDither l j)
          (srcBits w t s t.a l / 2 ^ (elemBits s * j) % 2 ^ elemBits s) }))
  let tag := boundedTag (t.bnd && tagIsB (srcTag w s t.a)) (rs.map (·.res))
    ((tagBound (srcTag w s t.a)).add (rhoOf mode (rs.map (·.res))))
  let sg := match t.d with
    | .s _ => fmtSigned t.fmt && t.fmt != .i4
    | _ => false
  -- an LC16 lane is two codes, copied whole (08 R175)
  if s == .lc16 && t.fmt == .lc16 then
    let f := match t.a with
      | .k _ => Fmt.lc16
      | _ => .b32
    putResult w false 32 t.d tag ((resultLanes w t.d).map (fun l => (l, srcBits w t f t.a l)))
  else putResult w sg (fmtBits t.fmt) t.d tag (laneVals w t rs)

/-! ## pack and unpack (R207, R208) -/

/-- Element width and count of a type packed in one lane (08 R175). -/
def packedShape : Fmt → Nat × Nat
  | .f16x2 | .bf16x2 => (16, 2)
  | .e3m2 | .e2m3 => (6, 5)
  | .e2m1 | .i4 | .n4 => (4, 8)
  | .lc16 => (16, 2)
  | _ => (8, 4)

/-- The scale value of kind 0 none, 1 e8m0, 2 e4m3 from B. -/
def packScale (w : View) (t : TOp) (kind l : Nat) : FVal :=
  match kind with
  | 1 => decodeE8m0 (srcBits w t .e8m0 t.b l)
  | 2 => decodeElem .e4m3 (srcBits w t .e4m3 t.b l)
  | _ => .fin false 1 1 0

/-- Squared distance between the decoded vector of a code and eight quotients (08 R180). An infinite quotient is ±4. -/
def lc16Distance (row : List Nat) (c : Nat) (qs : List FVal) : FVal :=
  ((List.range 8).zip qs).foldl (fun d p =>
    let q := match p.2 with
      | .inf neg => FVal.fin neg 4 1 0
      | x => x
    let e := FVal.add false (lc16Elem row c p.1) q.negate
    FVal.add false d (FVal.mul e e)) (.zero false)

/-- The code of least squared distance, the lowest of those at equal distance; a NaN quotient makes 0x0000 (R180). -/
def lc16Encode (rows : Nat → List Nat) (qs : List FVal) : Nat :=
  if qs.any FVal.isNan then 0 else
  ((List.range 65536).foldl (fun (best : Nat × Option FVal) c =>
    let d := lc16Distance (rows (c / 256)) c qs
    match best.2 with
    | none => (c, some d)
    | some b => if FVal.cmp d b < 0 then (c, some d) else best) (0, none)).1

/-- The new element of `pack` for a lane (R207). -/
def packElem (w : View) (t : TOp) (l : Nat) : Nat :=
  let kind := t.opmod.toNat / 8 % 4
  let sat := bitOf t.opmod 5
  let j := t.opmod.toNat % 8
  match t.fmt with
  | .i4 | .n4 | .i8 | .n8 =>
    let n := fmtBits t.fmt
    let x := toSigned 32 (srcBits w t .i32 t.a l)
    wrapTo n (if sat then clampTo (fmtSigned t.fmt) n x else x)
  | .lc16 =>
    let s := packScale w t kind l
    lc16Encode w.lattice ((List.range 8).map (fun k => FVal.div (ofF32 (w.vec (opndIx t.a + k) l)) s))
  | f => (deliverTo f (rmodeOf (t.opmod.toNat / 64)) sat (laneDither l j)
      (FVal.div (ofF32 (srcBits w t .f32 t.a l)) (packScale w t kind l))).bits

/-- `pack` writes one element of a lane; the bits of the lane that no element uses become zero (08 R175). -/
def packOp (w : View) (t : TOp) : Out :=
  let n := (packedShape t.fmt).1
  let j := t.opmod.toNat % 8
  let used := n * (packedShape t.fmt).2
  let vals := w.active.map (fun l => (l, insertBits (w.vec (opndIx t.d) l % 2 ^ used) (n * j) n (packElem w t l)))
  { vecs := [{ reg := opndIx t.d, tag := tagE, keep := true, vals := vals }] }

def unpackElem (w : View) (t : TOp) (l : Nat) : Nat :=
  let kind := t.opmod.toNat / 16 % 4
  let j := t.opmod.toNat % 16
  let n := (packedShape t.fmt).1
  let x := srcBits w t .b32 t.a l
  let e := x / 2 ^ (n * j) % 2 ^ n
  match t.fmt with
  | .i4 | .n4 | .i8 | .n8 => extTo (fmtSigned t.fmt) (fmtBits t.fmt) 32 e
  | .lc16 =>
    let c := x / 2 ^ (16 * (j / 8)) % 65536
    toF32 (FVal.mul (lc16Elem (w.lattice (c / 256)) c (j % 8)) (packScale w t kind l))
  | f => toF32 (FVal.mul (decodeElem f e) (packScale w t kind l))

def unpackOp (w : View) (t : TOp) : Out := laneOp w { t with fmt := .b32 } 32 (unpackElem w t)

/-! ## wred and scan (07 R168) -/

/-- The identity of a reduction in a format. -/
def redIdentity (op : Nat) (f : Fmt) : Nat :=
  let n := fmtBits f
  let sg := fmtSigned f
  if (floatSpec f).isSome then
    match op with
    | 1 => (deliverTo f .rn false 0 (.inf false)).bits
    | 2 => (deliverTo f .rn false 0 (.inf true)).bits
    | _ => 0
  else match op with
    | 1 => wrapTo n (intMax sg n)
    | 2 => wrapTo n (intMin sg n)
    | 3 => 2 ^ n - 1
    | _ => 0

/-- One step of a reduction: integers wrap, floats round to nearest even. -/
def combine (op : Nat) (f : Fmt) (x y : Nat) : Nat :=
  let n := fmtBits f
  let sg := fmtSigned f
  if (floatSpec f).isSome then
    let a := decodeElem f x
    let b := decodeElem f y
    let r := match op with
      | 1 => fminmax false a b
      | 2 => fminmax true a b
      | _ => FVal.add false a b
    (deliverTo f .rn false 0 r).bits
  else match op with
    | 0 => (x + y) % 2 ^ n
    | 1 => wrapTo n (min (toInt sg n x) (toInt sg n y))
    | 2 => wrapTo n (max (toInt sg n x) (toInt sg n y))
    | 3 => x &&& y
    | 4 => x ||| y
    | _ => x ^^^ y

/-- The running values of a scan over the lanes in order: before and after each, and the last. -/
def scanList (op : Nat) (f : Fmt) : Nat → List (Nat × Nat) → List (Nat × Nat × Nat) × Nat
  | acc, [] => ([], acc)
  | acc, (l, x) :: r =>
    let a := combine op f acc x
    let (ys, z) := scanList op f a r
    ((l, acc, a) :: ys, z)

/-- Registers between two of a run: a pair for a 64-bit format. -/
def regStep (f : Fmt) : Nat := if fmtBits f = 64 then 2 else 1

/-- One register of the run of `wred` (`isScan` false) or `scan`. -/
def reduceReg (w : View) (t : TOp) (isScan : Bool) (j : Nat) : Out :=
  let op := t.opmod.toNat % 8
  let n := fmtBits t.fmt
  let a := opndIx t.a + j * regStep t.fmt
  let src := fun l => if n = 64 then w.vec a l + w.vec (a + 1) l * 2 ^ 32 else w.vec a l
  let (vals, total) := scanList op t.fmt (redIdentity op t.fmt) (w.active.map (fun l => (l, src l)))
  let excl := bitOf t.opmod 3
  let vs := if isScan then vals.map (fun p => (p.1, if excl then p.2.1 else p.2.2)) else w.active.map (fun l => (l, total))
  match t.d with
  | .v i => { vecs := vecOut n (i.toNat + j * regStep t.fmt) vs tagE }
  | .s i => { scas := [(i.toNat, extTo (fmtSigned t.fmt) n 64 total)] }
  | _ => {}

end Sys2Proof.Machine
end

