-- ==== Sys2Proof/Machine/OpTable.lean ====
section
/-! DEFINITION. The operation map (03 R73) with what each operation's entry accepts: operand kinds and the format each operand
is read in, formats, modifiers, `.b`, and the runs of registers a word fixes. The checks of `dld` (03 R60) and of decode
(02 R38, 03 R59) read this table. -/

namespace Sys2Proof

/-! ## Kinds of an operand -/

def Opnd.isV : Opnd → Bool
  | .v _ => true
  | _ => false
def Opnd.isS : Opnd → Bool
  | .s _ => true
  | _ => false
def Opnd.isK : Opnd → Bool
  | .k _ => true
  | _ => false
def Opnd.isM : Opnd → Bool
  | .m _ => true
  | _ => false

end Sys2Proof

namespace Sys2Proof.Machine

/-- Operand kinds a field accepts; all false for a field the operation does not use. -/
structure Kinds where
  v : Bool := false
  s : Bool := false
  m : Bool := false
  k : Bool := false
  sp : Bool := false
  zero : Bool := false    -- of the constants, #0 alone
  idle : Bool := false    -- a field the operation lists and does not read: a mask, or zero
  deriving DecidableEq, Repr

def kNone : Kinds := {}
def kV : Kinds := { v := true }
def kS : Kinds := { s := true }
def kM : Kinds := { m := true }
def kVS : Kinds := { v := true, s := true }
def kSK : Kinds := { s := true, k := true }
def kVSK : Kinds := { v := true, s := true, k := true }
def kSM : Kinds := { s := true, m := true }
def kSp : Kinds := { sp := true }
/-- An address base: a scalar, an even pair or #0 (12 R282). -/
def kBase : Kinds := { v := true, s := true, k := true, zero := true }
/-- B of `mnot`: 03 R73 lists the field, 07 R169 gives the form no B. The model takes a mask or zero there and reads neither
(assumption 76). -/
def kIdle : Kinds := { m := true, idle := true }
/-- A scalar or #0. -/
def kS0 : Kinds := { s := true, k := true, zero := true }

def Kinds.used (x : Kinds) : Bool := x.v || x.s || x.m || x.k || x.sp

/-- `.b` column of R73. -/
inductive BndKind where
  | no | may | native
  deriving DecidableEq, Repr

/-- The entry of one operation. -/
structure OpInfo where
  cls : Nat
  d : Kinds := kNone
  a : Kinds := kNone
  b : Kinds := kNone
  c : Kinds := kNone
  fmts : List Fmt := [.none]
  imm : Bool := false
  modHole : Bool := false
  bnd : BndKind := .no
  long : Bool := false
  ends : Bool := false
  fd : TOp → Fmt := fun t => t.fmt
  fa : TOp → Fmt := fun t => t.fmt
  fb : TOp → Fmt := fun t => t.fmt
  fc : TOp → Fmt := fun t => t.fmt
  modOk : TOp → Bool := fun t => t.opmod == 0
  extra : TOp → Bool := fun _ => true
  /-- Registers a vector operand's run has in D, A and C, where the word fixes it (02 R38). -/
  run : TOp → Nat := fun _ => 1
  runA : TOp → Nat := fun _ => 1
  runC : TOp → Nat := fun _ => 1

/-! ## Format sets -/

def fB : List Fmt := [.b8, .b16, .b32, .b64]
def fIN : List Fmt := [.i8, .i16, .i32, .i64, .n8, .n16, .n32, .n64]
def fI : List Fmt := [.i8, .i16, .i32, .i64]
def fBIN : List Fmt := fB ++ fIN
def fIN3264 : List Fmt := [.i32, .i64, .n32, .n64]
def fFA : List Fmt := [.f64, .f32, .f16, .bf16, .f16x2, .bf16x2]
def fF4 : List Fmt := [.f64, .f32, .f16, .bf16]
def fAtom : List Fmt := fIN3264 ++ [.f32, .f64]
def fPack : List Fmt := [.e4m3, .e5m2, .e3m2, .e2m3, .e2m1, .e8m0, .lc16, .f16x2, .bf16x2, .e4m3x4, .e5m2x4, .i4, .n4, .i8, .n8]

/-! ## Rules between fields -/

/-- A scalar destination goes with scalar and constant sources (07 R150). -/
def scalarRule (o : Opnd) (srcs : List Opnd) : Bool := !o.isS || srcs.all (fun x => x.isS || x.isK)

/-- `f16x2` to `bf16x2`, and the four-element pair (09 R206). -/
def packedPair (a b : Fmt) : Bool :=
  (a == .f16x2 && b == .bf16x2) || (a == .bf16x2 && b == .f16x2) || (a == .e4m3x4 && b == .e5m2x4) || (a == .e5m2x4 && b == .e4m3x4)

def isFloatType : Fmt → Bool
  | .f64 | .f32 | .f16 | .bf16 | .e5m2 | .e4m3 | .e3m2 | .e2m3 | .e2m1 => true
  | _ => false

/-- The pairs of types `cvt` lists, source first (09 R206). -/
def cvtPair (s d : Fmt) : Bool :=
  let num := fun f => isFloatType f || f == .e8m0
  s != .none && d != .none &&
  (s == d || packedPair s d || (isBitFmt s && isBitFmt d) || (isIntFmt s && (isIntFmt d || num d)) ||
    (num s && (isIntFmt d || num d)))

/-- Types `cvt.b` accepts (09 R209). -/
def cvtBType : Fmt → Bool
  | .f64 | .f32 | .f16 | .bf16 => true
  | f => isIntFmt f

/-- The selects 0x50 to 0x57, which `cvt` takes of a float type alone (03 R54). -/
def halfSelect : Opnd → Bool
  | .k c => decide (0x50 ≤ c.toNat) && decide (c.toNat ≤ 0x57)
  | _ => false

def packOk (t : TOp) : Bool :=
  let m := t.opmod.toNat
  let j := m % 8
  let kind := m / 8 % 4
  let mode := m / 64
  t.fmt != .e8m0 && decide (j < (packedShape t.fmt).2) && kind != 3 && decide (mode ≤ 4) &&
  (match t.fmt with
    | .i4 | .n4 | .i8 | .n8 => mode == 0 && kind == 0
    | .lc16 => mode == 0 && !bitOf t.opmod 5
    | _ => true)

def unpackOk (t : TOp) : Bool :=
  let m := t.opmod.toNat
  let n := if t.fmt = .lc16 then 16 else (packedShape t.fmt).2
  t.fmt != .e8m0 && decide (m % 16 < n) && m / 16 % 4 != 3 && m / 64 == 0 &&
  (match t.fmt with
    | .i4 | .n4 | .i8 | .n8 => m / 16 % 4 == 0
    | _ => true)

/-- The format a scale kind is read in. -/
def scaleFmt (kind : Nat) : Fmt := if kind = 1 then .e8m0 else if kind = 2 then .e4m3 else .i32

/-- AOP, order and scope of an atomic (15 R337, R339). -/
def atomOk (isRed isNib : Bool) (t : TOp) : Bool :=
  let aop := t.opmod.toNat % 16
  let ord := t.opmod.toNat / 16 % 4
  let sc := t.opmod.toNat / 64
  let flt := (floatSpec t.fmt).isSome
  1 ≤ sc && sc ≤ 6 && (!isRed || ord == 0 || ord == 2) &&
  (if isNib then aop ≤ 7
   else if flt then aop == 7 || (10 ≤ aop && aop ≤ 12)
   else aop ≤ 7 || ((aop == 8 || aop == 9) && !fmtSigned t.fmt))

def spaceOk (l : List Nat) (t : TOp) : Bool := l.contains (t.opmod.toNat % 8)

/-- OPMOD of `ld` (k and `.hs` allowed) and of `st` and `stmc` (12 R283). -/
def ldOk (isLd : Bool) (t : TOp) : Bool :=
  let m := t.opmod.toNat
  (m % 8 ≤ 3 || (isLd && m % 8 == 4)) && (m / 8 % 4 ≤ 1 || (isLd && m / 8 % 4 == 2)) && m / 256 == 0

def lineOk (levels : Nat) (t : TOp) : Bool :=
  spaceOk [0, 1, 3] t && t.opmod.toNat / 8 % 4 < levels && t.opmod.toNat / 32 == 0

/-- Registers of a 64-bit operand or a 32-bit one. -/
def width64 (f : Fmt) : Nat := if fmtBits f = 64 then 2 else 1

/-- An access word's D or C is scalar only with scalar and constant operands elsewhere (12 R286). -/
def accessRule (x : Opnd) (t : TOp) : Bool := !x.isS || !(t.a.isV || t.b.isV)

/-- The word indices `srd` and `swr` have for the special register A names (18 R412). -/
def specialWord (t : TOp) : Bool :=
  let w := t.opmod.toNat
  match t.a with
  | .m i => if i.toNat = 0x46 then decide (w < 8) else if i.toNat = 0x4A then decide (w < 2) else if 0x40 ≤ i.toNat then w == 0 else decide (w < 8)
  | _ => decide (w < 8)

/-- The special registers srd and swr name, and the kinds each takes (18 R412). -/
def specialOk (isWrite : Bool) (t : TOp) : Bool :=
  let other := if isWrite then t.b else t.d
  match t.a with
  | .m i =>
    decide (0x40 ≤ i.toNat) && decide (i.toNat ≤ 0x4B) &&
    (if i.toNat = 0x43 then other.isV || (isWrite && other.isS) else other.isS || (isWrite && other.isK))
  | _ => false

/-- The templates that filling a hole of width `w` in A gives, as far as they name special registers. -/
def specialFills (w : Nat) (t : TOp) : List TOp :=
  match t.a with
  | .m i => ((List.range 12).map (· + 0x40)).filterMap (fun r =>
      if r / 2 ^ w = i.toNat / 2 ^ w then some { t with a := .m (BitVec.ofNat 8 r) } else none)
  | _ => [t]

/-- `tlbi`: which of A and B are scalars, by kind (13 R303). -/
def tlbiOk (t : TOp) : Bool :=
  match t.opmod.toNat with
  | 0 => t.a.isK && t.b.isK
  | 1 => t.a.isS && t.b.isK
  | _ => t.a.isS && t.b.isS

/-! ## The map -/

/-- OPMOD of `ldg` and `stg` (12 R289). -/
def ldgOk (l : List Nat) (t : TOp) : Bool := spaceOk l t

/-- Registers of the runs of `wred` and `scan` (07 R168). -/
def redRun (t : TOp) : Nat := (t.opmod.toNat / 16 + 1) * width64 t.fmt

/-- Registers of the run of `ldg` and `stg`. -/
def groupRun (t : TOp) : Nat := (t.opmod.toNat / 8 % 32 + 1) * width64 t.fmt

/-- OPMOD of `mdld` and `mdst` (13 R308). -/
def mdOk (isLd : Bool) (t : TOp) : Bool :=
  spaceOk [0, 1, 3] t && decide (t.opmod.toNat < 64) && (isLd == (t.opmod.toNat / 8 == 0))

/-- OPMOD of `ldt` and `stt` (12 R290). -/
def ldtOk (t : TOp) : Bool := [0, 1, 3].contains t.opmod.toNat

/-- OPMOD of `cas`: order and scope, no AOP (15 R338). -/
def casOk (t : TOp) : Bool :=
  t.opmod.toNat % 16 == 0 && decide (1 ≤ t.opmod.toNat / 64) && decide (t.opmod.toNat / 64 ≤ 6)

/-- OPMOD of `waitm` (15 R350). -/
def waitmOk (t : TOp) : Bool :=
  let m := t.opmod.toNat
  decide (m % 8 ≤ 5) && decide (m < 128) && (if bitOf t.opmod 3 then 1 ≤ m / 16 && m / 16 ≤ 6 else m / 16 == 0)

/-- What the entry of an operation number accepts (03 R73). -/
def opInfo : Nat → Option OpInfo
  | 0x040 | 0x041 => some {
    cls := 0, d := kVS, a := kVSK, b := kVSK, fmts := fIN, modHole := true, modOk := fun t => decide (t.opmod.toNat
      ≤ 1), extra := fun t => scalarRule t.d [t.a, t.b] }
  | 0x042 | 0x043 => some { cls := 0, d := kV, a := kVSK, b := kVSK, c := kM, fmts := [.n32, .n64] }
  | 0x044 | 0x045 | 0x047 | 0x048 | 0x049 | 0x04A => some {
    cls := 0, d := kVS, a := kVSK, b := kVSK, fmts := fIN, extra := fun t => scalarRule t.d [t.a, t.b] }
  | 0x046 => some {
    cls := 0, d := kVS, a := kVSK, b := kVSK, c := kVSK, fmts := fIN, extra := fun t => scalarRule t.d [t.a, t.b,
      t.c] }
  | 0x04B | 0x04C => some {
    cls := 0, d := kVS, a := kVSK, fmts := fI, modHole := true, modOk := fun t => decide (t.opmod.toNat ≤ 1), extra
      := fun t => scalarRule t.d [t.a] }
  | 0x04D | 0x04E | 0x04F | 0x050 => some {
    cls := 0, d := kVS, a := kVSK, b := kVSK, fmts := fB, extra := fun t => scalarRule t.d [t.a, t.b] }
  | 0x051 => some { cls := 0, d := kVS, a := kVSK, fmts := fB, extra := fun t => scalarRule t.d [t.a] }
  | 0x052 | 0x053 | 0x054 | 0x055 => some {
    cls := 0, d := kVS, a := kVSK, b := kVSK, fmts := fBIN, extra := fun t => scalarRule t.d [t.a, t.b] }
  | 0x056 => some {
    cls := 0, d := kVS, a := kVSK, b := kVSK, c := kVSK, fmts := [.b32, .b64], extra := fun t => scalarRule t.d
      [t.a, t.b, t.c] }
  | 0x057 | 0x058 => some {
    cls := 0, d := kVS, a := kVSK, b := kVSK, c := kVSK, fmts := [.b32, .b64] ++ fIN3264, extra := fun t =>
      scalarRule t.d [t.a, t.b, t.c] }
  | 0x059 | 0x05A | 0x05B | 0x05C => some {
    cls := 0, d := kVS, a := kVSK, fmts := fB, extra := fun t => scalarRule t.d [t.a] }
  | 0x05D => some {
    cls := 0, d := kVS, a := kVSK, b := kVSK, fmts := [.b32], extra := fun t => scalarRule t.d [t.a, t.b] }
  | 0x05E | 0x05F => some {
    cls := 0, d := kVS, a := kVSK, b := kVSK, fmts := [.b32, .b64], extra := fun t => scalarRule t.d [t.a, t.b] }
  | 0x060 => some {
    cls := 0, d := kM, a := kVSK, b := kVSK, fmts := fBIN, modHole := true, modOk := fun t => decide (t.opmod.toNat
      ≤ (if [Fmt.b8, .b16, .b32, .b64].contains t.fmt then 1 else 5)), fd := fun _ => .b32 }
  | 0x061 => some { cls := 0, d := kV, a := kVSK, b := kVSK, c := kM, fmts := fB }
  | 0x062 => some { cls := 0, d := kVS, a := kVSK, fmts := fB, extra := fun t => scalarRule t.d [t.a] }
  | 0x063 => some { cls := 0, d := kVS, imm := true, fmts := [.b32, .b64] }
  | 0x064 => some {
    cls := 0, d := kVS, a := kVS, b := kVSK, fmts := [.n64], imm := true, modHole := true, modOk := fun t => decide
      (t.opmod.toNat % 8 ≤ 4) && decide (t.opmod.toNat < 16), fb := fun _ => .i32, extra := fun t => scalarRule t.d
      [t.a, t.b] }
  | 0x065 => some {
    cls := 0, d := kV, a := kV, b := kVSK, fmts := [.b32, .b64], modHole := true, modOk := fun t => decide
      (t.opmod.toNat < 4), fb := fun _ => .n32 }
  | 0x066 => some {
    cls := 0, d := kVS, a := kV, b := kSK, fmts := [.b32, .b64], modHole := true, modOk := fun t => decide
      (t.opmod.toNat ≤ 1), fb := fun _ => .n32, extra := fun t => t.opmod == 0 || t.b == .k 0 }
  | 0x067 => some { cls := 0, d := kSM, a := kV, fa := fun _ => .b32, fd := fun _ => .b32 }
  | 0x068 => some {
    cls := 0, d := kVS, a := kV, fmts := fAtom, extra := fun t => !t.d.isS || t.opmod.toNat / 16 == 0, modHole :=
      true, long := true, modOk := fun t => decide (t.opmod.toNat % 8 ≤ (if (floatSpec t.fmt).isSome then 2 else 5))
      && !bitOf t.opmod 3, run := redRun, runA := redRun }
  | 0x069 => some {
    cls := 0, d := kV, a := kV, fmts := fAtom, modHole := true, long := true, modOk := fun t => decide
      (t.opmod.toNat % 8 ≤ (if (floatSpec t.fmt).isSome then 2 else 5)) && decide (t.opmod.toNat < 512), run := redRun, runA := redRun }
  | 0x06A | 0x06B | 0x06C => some { cls := 0, d := kM, a := kM, b := kM }
  | 0x06D => some { cls := 0, d := kM, a := kM, b := kIdle }
  | 0x06E => some { cls := 0, d := kS, a := kM }
  | 0x100 | 0x101 | 0x102 => some {
    cls := 0, d := kVS, a := kVSK, b := kVSK, fmts := fFA, bnd := .may, modHole := true, modOk := fun t => decide
      (t.opmod.toNat % 8 ≤ 4) && decide (t.opmod.toNat < 16), extra := fun t => scalarRule t.d [t.a, t.b] }
  | 0x103 => some {
    cls := 0, d := kVS, a := kVSK, b := kVSK, c := kVSK, fmts := fFA, bnd := .may, modHole := true, modOk := fun t
      => decide (t.opmod.toNat % 8 ≤ 4) && decide (t.opmod.toNat < 16), extra := fun t => scalarRule t.d [t.a, t.b,
      t.c] }
  | 0x104 | 0x105 => some {
    cls := 0, d := kVS, a := kVSK, b := kVSK, fmts := fFA, bnd := .may, extra := fun t => scalarRule t.d [t.a, t.b] }
  | 0x106 => some {
    cls := 0, d := kM, a := kVSK, b := kVSK, fmts := fFA, bnd := .may, modHole := true, modOk := fun t => decide
      (t.opmod.toNat < 16) && (!bitOf t.opmod 3 || isPackedFmt t.fmt), fd := fun _ => .b32 }
  | 0x107 => some { cls := 0, d := kVS, a := kVSK, fmts := fFA, extra := fun t => scalarRule t.d [t.a] }
  | 0x108 | 0x109 | 0x10A => some {
    cls := 0, d := kVS, a := kVSK, fmts := fF4, extra := fun t => scalarRule t.d [t.a] }
  | 0x10B | 0x10C | 0x10D | 0x10E | 0x10F => some {
    cls := 0, d := kVS, a := kVSK, fmts := [.f32, .f16, .bf16], extra := fun t => scalarRule t.d [t.a] }
  | 0x110 => some { cls := 0, d := kV, a := kV, b := kV, c := kVSK, fmts := [.f16x2, .bf16x2], fc := fun _ => .f32 }
  | 0x111 => some {
    cls := 0, d := kV, a := kV, b := kV, c := kVSK, fmts := [.e4m3x4, .e5m2x4], fc := fun _ => .f32 }
  | 0x112 => some {
    cls := 0, d := kVS, a := kVSK, b := kVSK, fmts := fF4, bnd := .may, modHole := true, modOk := fun t =>
      (secondFmt t == .e8m0 || secondFmt t == .e4m3 || secondFmt t == .i32) && decide (t.opmod.toNat / 64 ≤ 4), fb :=
      secondFmt, extra := fun t => scalarRule t.d [t.a, t.b] }
  | 0x113 => some {
    cls := 0, d := kVS, a := kVSK, fmts := fF4, modHole := true, modOk := fun t => decide (t.opmod.toNat ≤ 4), extra
      := fun t => scalarRule t.d [t.a] }
  | 0x180 => some {
    cls := 0, d := kVS, a := kVSK, fmts := [.b8, .b16, .b32, .b64, .i4, .i8, .i16, .i32, .i64, .n4, .n8, .n16, .n32,
      .n64, .f64, .f32, .f16, .bf16, .e4m3, .e5m2, .e3m2, .e2m3, .e2m1, .e8m0, .lc16, .f16x2, .bf16x2, .e4m3x4,
      .e5m2x4], bnd := .may, modHole := true, modOk := fun t => cvtPair (secondFmt t) t.fmt && decide (t.opmod.toNat /
      64 ≤ 4) && (!t.bnd || (cvtBType (secondFmt t) && cvtBType t.fmt)), fa := secondFmt, extra := fun t => scalarRule
      t.d [t.a] && !(secondFmt t == .e8m0 && halfSelect t.a) }
  | 0x181 => some {
    cls := 0, d := kV, a := kV, b := kVSK, fmts := fPack, modHole := true, modOk := packOk, fa := fun t => if
      isIntFmt t.fmt then .i32 else .f32, fb := fun t => scaleFmt (t.opmod.toNat / 8 % 4), fd := fun _ => .b32, extra
      := fun t => t.opmod.toNat / 8 % 4 != 0 || t.b == .k 0,
      runA := fun t => if t.fmt = .lc16 then 8 else 1 }
  | 0x182 => some {
    cls := 0, d := kV, a := kV, b := kVSK, fmts := fPack, modHole := true, modOk := unpackOk, fa := fun _ => .b32,
      fb := fun t => scaleFmt (t.opmod.toNat / 16 % 4), fd := fun _ => .b32, extra := fun t => t.opmod.toNat / 16 % 4
      != 0 || t.b == .k 0 }
  | 0x1C0 => some {
    cls := 2, a := kSK, imm := true, long := true, fa := fun _ => .n64, fb := fun _ => .n64, fc := fun _ => .n64 }
  | 0x1C1 => some {
    cls := 2, a := kSK, b := kSK, c := kSK, imm := true, long := true, fa := fun _ => .n64, fb := fun _ => .n64, fc
      := fun _ => .n64 }
  | 0x1C2 => some {
    cls := 2, a := kSK, long := true, fa := fun _ => .n64, fb := fun _ => .n64, fc := fun _ => .n64 }
  | 0x1C3 => some {
    cls := 2, d := kV, a := kSK, long := true, fa := fun _ => .n64, fb := fun _ => .n64, fc := fun _ => .n64, fd :=
      fun _ => .b32 }
  | 0x1C4 => some { cls := 2, a := kSK, b := kV, long := true, fa := fun _ => .n64 }
  | 0x1C5 | 0x1C6 => some {
    cls := 2, d := kS, a := kSK, b := kSK, long := true, fa := fun _ => .n64, fb := fun _ => .n64, fc := fun _ =>
      .n64 }
  | 0x1C7 => some {
    cls := 2, a := kSK, b := kSK, imm := true, long := true, fa := fun _ => .n64, fb := fun _ => .n64, fc := fun _
      => .n64 }
  | 0x1C8 => some { cls := 2, d := kS, a := kSK, fa := fun _ => .n64, fb := fun _ => .n64, fc := fun _ => .n64 }
  | 0x1C9 => some { cls := 2, a := kSK, fa := fun _ => .n64, fb := fun _ => .n64, fc := fun _ => .n64 }
  | 0x200 | 0x201 => some { cls := 3, a := kSK, fa := fun _ => .n64, fb := fun _ => .n64, fc := fun _ => .n64 }
  | 0x202 => some {
    cls := 3, a := kSK, b := kS, long := true, fa := fun _ => .n64, fb := fun _ => .n64, fc := fun _ => .n64 }
  | 0x203 => some {
    cls := 3, d := kS, a := kSK, b := kS, long := true, fa := fun _ => .n64, fb := fun _ => .n64, fc := fun _ =>
      .n64 }
  | 0x204 => some { cls := 3, d := kV, a := kV, b := kSK, long := true, fb := fun _ => .n64 }
  | 0x205 => some {
    cls := 3, d := kV, a := kV, b := kSK, c := kSK, long := true, fb := fun _ => .n64, fc := fun _ => .n64 }
  | 0x206 => some {
    cls := 3, a := kSK, long := true, fa := fun _ => .n64, fb := fun _ => .n64, fc := fun _ => .n64 }
  | 0x207 => some {
    cls := 3, d := kV, a := kSK, long := true, fa := fun _ => .n64, fb := fun _ => .n64, fc := fun _ => .n64, fd :=
      fun _ => .b32 }
  | 0x208 => some { cls := 3, d := kS, a := kSK, fa := fun _ => .n64, fb := fun _ => .n64, fc := fun _ => .n64 }
  | 0x209 => some { cls := 3, d := kV, a := kV, bnd := .native }
  | 0x20A => some { cls := 3, d := kS, a := kV, bnd := .native }
  | 0x220 => some {
    cls := 1, d := kVS, a := kBase, b := kVSK, fmts := fB, imm := true, modHole := true, long := true, modOk := ldOk
      true, fa := fun _ => .b64, fb := fun _ => .i32, extra := fun t => accessRule t.d t }
  | 0x221 | 0x226 => some {
    cls := 1, a := kBase, b := kVSK, c := kVS, fmts := fB, imm := true, modHole := true, long := true, modOk := ldOk
      false, fa := fun _ => .b64, fb := fun _ => .i32, extra := fun t => accessRule t.c t }
  | 0x222 => some {
    cls := 1, d := kV, a := kBase, b := kVSK, fmts := fB, imm := true, modHole := true, long := true, modOk := ldgOk
      [0, 1, 2, 3, 4], fa := fun _ => .b64, fb := fun _ => .i32, run := groupRun }
  | 0x223 => some {
    cls := 1, a := kBase, b := kVSK, c := kV, fmts := fB, imm := true, modHole := true, long := true, modOk := ldgOk
      [0, 1, 2, 3], fa := fun _ => .b64, fb := fun _ => .i32, runC := groupRun }
  | 0x224 => some {
    cls := 1, d := kV, a := kS0, b := kSK, imm := true, modHole := true, long := true, modOk := ldtOk, fa := fun _
      => .b64, fb := fun _ => .i32 }
  | 0x225 => some {
    cls := 1, a := kS0, b := kSK, c := kV, imm := true, modHole := true, bnd := .native, long := true, modOk :=
      ldtOk, fa := fun _ => .b64, fb := fun _ => .i32 }
  | 0x227 => some {
    cls := 1, a := kBase, b := kVSK, imm := true, modHole := true, long := true, modOk := lineOk 4, fa := fun _ =>
      .b64, fb := fun _ => .i32 }
  | 0x228 => some {
    cls := 1, a := kBase, b := kVSK, imm := true, modHole := true, long := true, modOk := lineOk 2, fa := fun _ =>
      .b64, fb := fun _ => .i32 }
  | 0x229 => some {
    cls := 1, a := kBase, b := kVSK, imm := true, modHole := true, long := true, modOk := lineOk 1, fa := fun _ =>
      .b64, fb := fun _ => .i32 }
  | 0x22A => some {
    cls := 1, a := kSK, imm := true, long := true, fa := fun _ => .n64, fb := fun _ => .n64, fc := fun _ => .n64 }
  | 0x22B => some {
    cls := 1, d := kV, a := kBase, b := kVSK, long := true, fa := fun _ => .b64, fb := fun _ => .i32, fd := fun _ =>
      .b64 }
  | 0x22C => some {
    cls := 1, d := kVS, a := kBase, b := kVSK, imm := true, modHole := true, long := true, modOk := mdOk true, fa :=
      fun _ => .b64, fb := fun _ => .i32, fd := fun _ => .b64, extra := fun t => accessRule t.d t }
  | 0x22D => some {
    cls := 1, a := kBase, b := kVSK, c := kVS, imm := true, modHole := true, long := true, modOk := mdOk false, fa
      := fun _ => .b64, fb := fun _ => .i32, fc := fun _ => .b64, extra := fun t => accessRule t.c t }
  | 0x22E => some {
    cls := 1, modHole := true, modOk := fun t => t.opmod.toNat % 4 != 0 && decide (t.opmod.toNat / 4 ≤ 6) }
  | 0x22F => some {
    cls := 1, modHole := true, modOk := fun t => decide (1 ≤ t.opmod.toNat) && decide (t.opmod.toNat ≤ 15) }
  | 0x280 => some {
    cls := 1, d := kVS, a := kBase, b := kVSK, c := kVSK, fmts := fAtom, imm := true, modHole := true, long := true,
      modOk := atomOk false false, fa := fun _ => .b64, fb := fun _ => .i32, extra := fun t => accessRule t.d t &&
      (!t.d.isS || !t.c.isV) }
  | 0x281 => some {
    cls := 1, d := kVS, a := kBase, b := kVSK, c := kVSK, fmts := fAtom, imm := true, long := true, modOk := casOk,
      fa := fun _ => .b64, fb := fun _ => .i32, extra := fun t => accessRule t.d t && (!t.d.isS || !t.c.isV) }
  | 0x282 => some {
    cls := 1, a := kBase, b := kVSK, c := kVSK, fmts := fAtom, imm := true, modHole := true, long := true, modOk :=
      atomOk true false, fa := fun _ => .b64, fb := fun _ => .i32 }
  | 0x283 => some {
    cls := 1, d := kVS, a := kBase, b := kVSK, c := kVSK, fmts := [.n4], imm := true, modHole := true, long := true,
      modOk := atomOk false true, fa := fun _ => .b64, fb := fun _ => .i32, extra := fun t => accessRule t.d t &&
      (!t.d.isS || !t.c.isV) }
  | 0x284 => some {
    cls := 1, d := kVS, a := kBase, fmts := fB, imm := true, fa := fun _ => .b64, fb := fun _ => .i32, extra := fun
      t => accessRule t.d t }
  | 0x285 => some {
    cls := 1, a := kBase, c := kVSK, fmts := fB, imm := true, fa := fun _ => .b64, fb := fun _ => .i32 }
  | 0x286 => some {
    cls := 1, modHole := true, long := true, modOk := fun t => decide (4 ≤ t.opmod.toNat / 4) && decide
      (t.opmod.toNat / 4 ≤ 6) }
  | 0x2C0 | 0x2C2 => some { cls := 6, modHole := true, modOk := fun t => decide (t.opmod.toNat < 128) }
  | 0x2C1 => some { cls := 6, modHole := true, modOk := fun t => decide (t.opmod.toNat < 256) }
  | 0x2C3 => some { cls := 6, d := kS, modHole := true, modOk := fun t => decide (t.opmod.toNat < 128) }
  | 0x2C4 => some {
    cls := 6, a := kBase, b := kVSK, c := kVSK, fmts := [.b32, .b64], imm := true, modHole := true, modOk :=
      waitmOk, fa := fun _ => .b64, fb := fun _ => .i32 }
  | 0x2C5 => some { cls := 6, modHole := true, modOk := fun t => decide (t.opmod.toNat ≤ 11) }
  | 0x2C6 => some { cls := 6, a := kSK, imm := true, fa := fun _ => .n64, fb := fun _ => .n64, fc := fun _ => .n64 }
  | 0x2E0 | 0x2E1 => some {
    cls := 4, a := kS, b := kS, c := kSK, imm := true, long := true, fa := fun _ => .n64, fb := fun _ => .n64, fc :=
      fun _ => .n64 }
  | 0x2E2 => some {
    cls := 4, a := kS, b := kV, c := kSK, imm := true, long := true, fa := fun _ => .n64, fb := fun _ => .n64, fc :=
      fun _ => .n64 }
  | 0x2E3 | 0x2E5 => some {
    cls := 4, a := kS, b := kS, long := true, fa := fun _ => .n64, fb := fun _ => .n64, fc := fun _ => .n64 }
  | 0x2E4 => some {
    cls := 4, d := kS, a := kS, long := true, fa := fun _ => .n64, fb := fun _ => .n64, fc := fun _ => .n64 }
  | 0x2E6 | 0x2E7 => some {
    cls := 4, a := kBase, b := kVSK, c := kVSK, fmts := fB, imm := true, long := true, modOk := fun t =>
      t.opmod.toNat % 32 == 0 && decide (t.opmod.toNat < 256), fa := fun _ => .b64, fb := fun _ => .i32 }
  | 0x2E8 => some { cls := 4 }
  | 0x2E9 => some {
    cls := 4, d := kS, a := kS, long := true, fa := fun _ => .n64, fb := fun _ => .n64, fc := fun _ => .n64 }
  | 0x320 => some {
    cls := 8, a := kSK, imm := true, fmts := [.b32], long := true, fa := fun _ => .n64, fb := fun _ => .n64, fc :=
      fun _ => .n64 }
  | 0x321 => some {
    cls := 8, a := kSK, fmts := [.b32], long := true, fa := fun _ => .n64, fb := fun _ => .n64, fc := fun _ => .n64 }
  | 0x322 => some {
    cls := 8, d := kV, a := kSK, imm := true, fmts := [.b32], long := true, fa := fun _ => .n64, fb := fun _ =>
      .n64, fc := fun _ => .n64, fd := fun _ => .b32 }
  | 0x323 => some {
    cls := 8, a := kSK, b := kV, imm := true, fmts := [.b32], long := true, fa := fun _ => .n64, fc := fun _ =>
      .n64, fb := fun _ => .b32 }
  | 0x324 => some { cls := 8, a := kS, b := kV, long := true }
  | 0x325 => some { cls := 8, d := kV, a := kS, long := true }
  | 0x326 => some {
    cls := 8, d := kV, a := kS, b := kV, fmts := [.f32, .i32, .n32], modHole := true, long := true, modOk := fun t
      => decide (t.opmod.toNat % 8 ≤ (if t.fmt = .f32 then 2 else 5)) && decide (t.opmod.toNat < 8) }
  | 0x327 => some { cls := 8, a := kM }
  | 0x328 | 0x329 => some { cls := 8 }
  | 0x340 => some {
    cls := 7, d := { v := true, s := true }, a := kSp, modOk := specialWord, extra := specialOk false,
      fa := fun _ => .b32, fd := fun _ => .b64 }
  | 0x341 => some {
    cls := 7, a := kSp, b := kVSK, modOk := specialWord, extra := specialOk true, fa := fun _ => .b32, fb := fun _
      => .b64 }
  | 0x342 => some { cls := 7, ends := true, modOk := fun t => decide (t.opmod.toNat ≤ 1) }
  | 0x343 => some { cls := 7, ends := true, imm := true }
  | 0x344 => some {
    cls := 7, a := kS0, b := kS0, modHole := true, long := true, modOk := fun t => decide (t.opmod.toNat ≤ 2), extra
      := tlbiOk, fa := fun _ => .n64, fb := fun _ => .n64, fc := fun _ => .n64 }
  | 0x345 => some { cls := 7, d := kS, a := kSK, fa := fun _ => .n64, fb := fun _ => .n64, fc := fun _ => .n64 }
  | 0x346 | 0x347 => some {
    cls := 7, a := kS, long := true, fa := fun _ => .n64, fb := fun _ => .n64, fc := fun _ => .n64 }
  | 0x348 => some { cls := 7, ends := true }
  | _ => none

/-- Whether an operation number lies in a class's ranges (02 R45); 8 stands for the scarab operations. -/
def inClass (op cls : Nat) : Bool :=
  match cls with
  | 0 => decide (0x040 ≤ op) && decide (op < 0x1C0)
  | 1 => decide (0x220 ≤ op) && decide (op < 0x2C0)
  | 2 => decide (0x1C0 ≤ op) && decide (op < 0x200)
  | 3 => decide (0x200 ≤ op) && decide (op < 0x220)
  | 4 => decide (0x2E0 ≤ op) && decide (op < 0x320)
  | 5 => decide (op < 0x040)
  | 6 => decide (0x2C0 ≤ op) && decide (op < 0x2E0)
  | 7 => decide (0x340 ≤ op) && decide (op < 0x380)
  | _ => decide (0x320 ≤ op) && decide (op < 0x340)

/-- Whether an operand's kind and index are ones a field accepts: a 64-bit vector operand even (07 R148), a constant exact in
the format it is read in. -/
def kindOk (k : Kinds) (f : Fmt) (o : Opnd) : Bool :=
  match o with
  | .v i => (k.v && (fmtBits f != 64 || i.toNat % 2 == 0)) || (k.idle && i == 0)
  | .s i => k.s && decide (i.toNat < 64)
  | .m i => (k.m && decide (i.toNat < 8)) || (k.sp && decide (0x40 ≤ i.toNat) && decide (i.toNat ≤ 0x4B))
  | .k c => k.k && (if k.zero then c == 0 else constOk f c.toNat)

/-- Whether an operand's index is one its kind has, the kind and constant apart (R59). -/
def indexOk (k : Kinds) (f : Fmt) (o : Opnd) : Bool :=
  if !k.used then true else kindOk k f o

/-- The operand fields with what each accepts and is read in, in the order of the checks (R59). -/
def OpInfo.operands (i : OpInfo) (t : TOp) : List (Kinds × Fmt × Opnd) :=
  [(i.d, i.fd t, t.d), (i.a, i.fa t, t.a), (i.b, i.fb t, t.b), (i.c, i.fc t, t.c)]

/-- A used field holds an accepted kind and index, an unused one is zero (R53, R60). -/
def operandsOk (i : OpInfo) (t : TOp) : Bool :=
  (i.operands t).all (fun p => if p.1.used then kindOk p.1 p.2.1 p.2.2 else p.2.2 == .v 0)

end Sys2Proof.Machine
end

