-- ==== Sys2Proof/WellFormed.lean ====
section
/-! DEFINITION. Well-formed instructions: operand kinds and indices, formats, modifiers, attachment and `.b` as each
operation's entry accepts them (03 R53 to R60, R73), slides of calls (06 R140), and the field values cox words refuse
(04 R87, R91, R92). Events of the machine's own have no encoding and no condition. -/

namespace Sys2Proof

open Sys2Proof.Machine

/-- A template's fields are ones the entry of operation `op` accepts (03 R60 codes 4, 8 and 5). -/
def templateWf (op : Nat) (t : TOp) : Bool :=
  match opInfo op with
  | none => false
  | some i => i.fmts.contains t.fmt && t.att != 3 && (t.att == 0 || i.long) && t.bnd == (i.bnd == .native || (t.bnd && i.bnd == .may)) &&
      i.modOk t && operandsOk i t && i.extra t

/-- The scopes a cox `amo` or `fence` accepts (04 R91). -/
def coxScopeOk (s : BitVec 3) : Bool := decide (3 ≤ s.toNat) && decide (s.toNat ≤ 6)

/-- Whether an instruction is one its encoding rules accept. -/
def Instr.wf : Instr → Bool
  | .nop => true
  | .bra _ => true
  | .brsZ _ _ => true
  | .brsNz _ _ => true
  | .brmAny _ _ => true
  | .brmAll _ _ => true
  | .brmNone _ _ => true
  | .brd _ _ => true
  | .brdCmp _ _ => true
  | .jmpt _ _ _ => true
  | .jmpi _ _ => true
  | .call n _ => n != 0
  | .calli n _ => n != 0
  | .ret => true
  | .join => true
  | .exit => true
  | .dsel _ => true
  | .ifence => true
  | .yield => true
  | .trap _ => true
  | .add t => templateWf 0x040 t
  | .sub t => templateWf 0x041 t
  | .addc t => templateWf 0x042 t
  | .subb t => templateWf 0x043 t
  | .mul t => templateWf 0x044 t
  | .mulh t => templateWf 0x045 t
  | .mad t => templateWf 0x046 t
  | .div t => templateWf 0x047 t
  | .rem t => templateWf 0x048 t
  | .min t => templateWf 0x049 t
  | .max t => templateWf 0x04A t
  | .abs t => templateWf 0x04B t
  | .neg t => templateWf 0x04C t
  | .and t => templateWf 0x04D t
  | .or t => templateWf 0x04E t
  | .xor t => templateWf 0x04F t
  | .andn t => templateWf 0x050 t
  | .not t => templateWf 0x051 t
  | .shl t => templateWf 0x052 t
  | .shr t => templateWf 0x053 t
  | .sra t => templateWf 0x054 t
  | .rotl t => templateWf 0x055 t
  | .fsh t => templateWf 0x056 t
  | .bfe t => templateWf 0x057 t
  | .bfi t => templateWf 0x058 t
  | .popc t => templateWf 0x059 t
  | .clz t => templateWf 0x05A t
  | .ctz t => templateWf 0x05B t
  | .brev t => templateWf 0x05C t
  | .bperm t => templateWf 0x05D t
  | .clmul t => templateWf 0x05E t
  | .clmulh t => templateWf 0x05F t
  | .cmp t => templateWf 0x060 t
  | .sel t => templateWf 0x061 t
  | .mov t => templateWf 0x062 t
  | .movi t => templateWf 0x063 t
  | .lea t => templateWf 0x064 t
  | .shfl t => templateWf 0x065 t
  | .bcast t => templateWf 0x066 t
  | .ballot t => templateWf 0x067 t
  | .wred t => templateWf 0x068 t
  | .scan t => templateWf 0x069 t
  | .mand t => templateWf 0x06A t
  | .mor t => templateWf 0x06B t
  | .mxor t => templateWf 0x06C t
  | .mnot t => templateWf 0x06D t
  | .mpop t => templateWf 0x06E t
  | .fadd t => templateWf 0x100 t
  | .fsub t => templateWf 0x101 t
  | .fmul t => templateWf 0x102 t
  | .fma t => templateWf 0x103 t
  | .fmin t => templateWf 0x104 t
  | .fmax t => templateWf 0x105 t
  | .fcmp t => templateWf 0x106 t
  | .fclass t => templateWf 0x107 t
  | .frcp t => templateWf 0x108 t
  | .frsq t => templateWf 0x109 t
  | .fsqrt t => templateWf 0x10A t
  | .fexp2 t => templateWf 0x10B t
  | .flog2 t => templateWf 0x10C t
  | .fsin t => templateWf 0x10D t
  | .fcos t => templateWf 0x10E t
  | .ftanh t => templateWf 0x10F t
  | .fdot2 t => templateWf 0x110 t
  | .fdot4 t => templateWf 0x111 t
  | .fscale t => templateWf 0x112 t
  | .fround t => templateWf 0x113 t
  | .cvt t => templateWf 0x180 t
  | .pack t => templateWf 0x181 t
  | .unpack t => templateWf 0x182 t
  | .tfmt t => templateWf 0x1C0 t
  | .tmma t => templateWf 0x1C1 t
  | .tzero t => templateWf 0x1C2 t
  | .trd t => templateWf 0x1C3 t
  | .twr t => templateWf 0x1C4 t
  | .tcmp t => templateWf 0x1C5 t
  | .tbmp t => templateWf 0x1C6 t
  | .tmc t => templateWf 0x1C7 t
  | .tstat t => templateWf 0x1C8 t
  | .tcan t => templateWf 0x1C9 t
  | .xown t => templateWf 0x200 t
  | .xrel t => templateWf 0x201 t
  | .xprog t => templateWf 0x202 t
  | .xverify t => templateWf 0x203 t
  | .xmv t => templateWf 0x204 t
  | .xmva t => templateWf 0x205 t
  | .xcal t => templateWf 0x206 t
  | .xref t => templateWf 0x207 t
  | .xstat t => templateWf 0x208 t
  | .xfix t => templateWf 0x209 t
  | .xbnd t => templateWf 0x20A t
  | .ld t => templateWf 0x220 t
  | .st t => templateWf 0x221 t
  | .ldg t => templateWf 0x222 t
  | .stg t => templateWf 0x223 t
  | .ldt t => templateWf 0x224 t
  | .stt t => templateWf 0x225 t
  | .stmc t => templateWf 0x226 t
  | .pf t => templateWf 0x227 t
  | .cinv t => templateWf 0x228 t
  | .cwb t => templateWf 0x229 t
  | .spcfg t => templateWf 0x22A t
  | .palias t => templateWf 0x22B t
  | .mdld t => templateWf 0x22C t
  | .mdst t => templateWf 0x22D t
  | .fence t => templateWf 0x22E t
  | .fjoin t => templateWf 0x22F t
  | .amo t => templateWf 0x280 t
  | .cas t => templateWf 0x281 t
  | .red t => templateWf 0x282 t
  | .amonib t => templateWf 0x283 t
  | .aregLd t => templateWf 0x284 t
  | .aregSt t => templateWf 0x285 t
  | .aregGo t => templateWf 0x286 t
  | .barv t => templateWf 0x2C0 t
  | .barw t => templateWf 0x2C1 t
  | .bars t => templateWf 0x2C2 t
  | .barq t => templateWf 0x2C3 t
  | .waitm t => templateWf 0x2C4 t
  | .waitf t => templateWf 0x2C5 t
  | .nap t => templateWf 0x2C6 t
  | .cpy t => templateWf 0x2E0 t
  | .cpy2 t => templateWf 0x2E1 t
  | .cpyg t => templateWf 0x2E2 t
  | .chapp t => templateWf 0x2E3 t
  | .chseq t => templateWf 0x2E4 t
  | .evpost t => templateWf 0x2E5 t
  | .rst t => templateWf 0x2E6 t
  | .rstf t => templateWf 0x2E7 t
  | .rfence t => templateWf 0x2E8 t
  | .getwork t => templateWf 0x2E9 t
  | .srd t => templateWf 0x340 t
  | .swr t => templateWf 0x341 t
  | .eret t => templateWf 0x342 t && t.opmod == 0
  | .eretSkip t => templateWf 0x342 t && t.opmod == 1
  | .brk t => templateWf 0x343 t
  | .tlbiCtx t => templateWf 0x344 t && t.opmod == 0
  | .tlbiPage t => templateWf 0x344 t && t.opmod == 1
  | .tlbiRange t => templateWf 0x344 t && t.opmod == 2
  | .erd t => templateWf 0x345 t
  | .ctxs t => templateWf 0x346 t
  | .ctxr t => templateWf 0x347 t
  | .hlt t => templateWf 0x348 t
  | .rowact t => templateWf 0x320 t
  | .rowpre t => templateWf 0x321 t
  | .rowld t => templateWf 0x322 t
  | .rowst t => templateWf 0x323 t
  | .colsend t => templateWf 0x324 t
  | .colrecv t => templateWf 0x325 t
  | .colred t => templateWf 0x326 t
  | .mif t => templateWf 0x327 t
  | .melse t => templateWf 0x328 t
  | .mend t => templateWf 0x329 t
  | .coxAdd _ _ _ => true
  | .coxSub _ _ _ => true
  | .coxAnd _ _ _ => true
  | .coxOr _ _ _ => true
  | .coxXor _ _ _ => true
  | .sll _ _ _ => true
  | .srl _ _ _ => true
  | .coxSra _ _ _ => true
  | .slt _ _ _ => true
  | .sltn _ _ _ => true
  | .coxMul _ _ _ => true
  | .coxMulh _ _ _ => true
  | .coxDiv _ _ _ => true
  | .coxRem _ _ _ => true
  | .addi _ _ _ => true
  | .andi _ _ _ => true
  | .ori _ _ _ => true
  | .xori _ _ _ => true
  | .slli _ _ _ => true
  | .srli _ _ _ => true
  | .srai _ _ _ => true
  | .ext _ _ p l => decide (p.toNat + l.toNat + 1 ≤ 64)
  | .ins _ _ p l => decide (p.toNat + l.toNat + 1 ≤ 64)
  | .lui _ _ => true
  | .apc _ _ => true
  | .ldB _ _ _ => true
  | .ldH _ _ _ => true
  | .ldW _ _ _ => true
  | .ldD _ _ _ => true
  | .ldBn _ _ _ => true
  | .ldHn _ _ _ => true
  | .ldWn _ _ _ => true
  | .stB _ _ _ => true
  | .stH _ _ _ => true
  | .stW _ _ _ => true
  | .stD _ _ _ => true
  | .coxAmo _ _ _ o s _ _ => decide (o.toNat ≤ 9) && coxScopeOk s
  | .coxFence s r => r != 0 && coxScopeOk s
  | .beq _ _ _ => true
  | .bne _ _ _ => true
  | .blt _ _ _ => true
  | .bge _ _ _ => true
  | .bltn _ _ _ => true
  | .bgen _ _ _ => true
  | .jal _ _ => true
  | .jalr _ _ _ => true
  | .csrr _ _ => true
  | .csrw _ _ => true
  | .coxTrap _ => true
  | .coxEret => true
  | .wfe _ => true
  | .evq _ => true
  | .hdr _ _ => true
  | .cmpw _ _ _ _ => true
  | .emw _ => true
  | .emw2 _ _ => true
  | .emc _ _ => true
  | .ems _ _ => true
  | .emsC _ _ => true
  | .dld _ _ _ => true
  | .spawn _ _ _ => true
  | .stk _ _ _ => true
  | .qmap _ _ _ => true
  | .qunmap _ _ => true
  | .kscan _ _ => true
  | .japp _ _ => true
  | .jsync _ _ _ => true
  | .lpost _ _ => true
  | .lcan _ _ _ => true
  | .hold _ => true
  | .clauseStart _ => true
  | .pathSwitch _ => true
  | .compactionMeetingTimeout _ => true
  | .privateGrowthResolved _ _ => true
  | .issueAgePromote _ => true
  | .napExpire _ => true
  | .wfeTimeout _ => true
  | .loadDataReturn _ _ _ => true
  | .storeAck _ _ => true
  | .storeApplyHome _ _ => true
  | .cacheFill _ _ => true
  | .atomicPerform _ _ _ => true
  | .waitmPoll _ => true
  | .blockFinish _ => true
  | .dictLoadEnd _ _ => true
  | .tileRecordStart _ => true
  | .tfmtLoadEnd _ _ => true
  | .tmmaTaskComplete _ _ => true
  | .tmmaCancelStop _ _ => true
  | .tzeroComplete _ _ => true
  | .trdComplete _ _ => true
  | .twrComplete _ _ => true
  | .tcmpComplete _ _ => true
  | .tbmpComplete _ _ => true
  | .tmcComplete _ _ => true
  | .xrelTakesEffect _ _ => true
  | .xprogComplete _ _ _ _ _ => true
  | .xverifyComplete _ _ => true
  | .xmvComplete _ _ _ _ => true
  | .xcalComplete _ _ _ _ => true
  | .xrefComplete _ _ _ _ => true
  | .copyComplete _ _ _ => true
  | .chainNop _ _ _ => true
  | .chainCopy _ _ _ => true
  | .chainCopy2 _ _ _ => true
  | .chainAdd _ _ _ => true
  | .chainWait _ _ _ => true
  | .chainEvent _ _ _ => true
  | .chainBadRecord _ _ _ => true
  | .remoteStorePacket _ _ _ _ _ => true
  | .keeperNotice _ _ => true
  | .keeperFlag _ _ _ _ _ _ => true
  | .keeperClear _ _ _ => true
  | .keeperTimeout _ _ => true
  | .keeperEntryFree _ => true
  | .remoteAck _ _ _ => true
  | .flitReplay _ => true
  | .portLaneFail _ _ => true
  | .peerTimeout _ _ _ => true
  | .peerPackageLost _ => true
  | .portDrain _ => true
  | .portRetrain _ => true
  | .portDrained _ => true
  | .hostAccess _ _ _ => true
  | .peerAccess _ _ _ => true
  | .tlbWalk _ _ => true
  | .epochBoundary => true
  | .mscwEnable _ _ => true
  | .extentGrant _ _ _ => true
  | .extentRelease _ => true
  | .extentForcedRelease _ => true
  | .scarabBlockStart _ _ => true
  | .collMessageArrive _ _ _ _ _ => true
  | .collHoldTimeout _ _ => true
  | .colrecvTimeout _ => true
  | .scarabFaultStop _ => true
  | .contextInstall _ _ => true
  | .contextSave _ => true
  | .contextRestore _ _ => true
  | .contextRemove _ => true
  | .queueQuantumExpire _ => true
  | .doorbellWrite _ => true
  | .launchRecord _ => true
  | .cancelRecord _ => true
  | .badCommandRecord _ => true
  | .launchAdmit _ _ _ _ _ => true
  | .blockPlacement _ => true
  | .getworkMailbox _ => true
  | .launchComplete _ _ => true
  | .completionRecordWrite _ => true
  | .journalHeartbeat => true
  | .umpireTakeoverFault => true
  | .umpireTakeoverSilence => true
  | .timingReplay _ => true
  | .replayStepUp _ => true
  | .meterTick _ _ => true
  | .capDistribute _ => true
  | .capcfgWrite _ => true
  | .acctuseWrite _ _ => true
  | .errorRecordFree _ _ => true
  | .pkgA0 => true
  | .pkgA2 => true
  | .pkgA3 => true
  | .islandReturn _ => true
  | .islandGate _ => true
  | .stackReturn _ => true
  | .stackSelfRefresh _ => true
  | .stackPowerOff _ => true
  | .channelReturn _ _ => true
  | .channelSelfRefresh _ _ => true
  | .channelPowerOff _ _ => true
  | .pwrreqMalformed _ => true
  | .debugRequest _ => true
  | .tdispBind _ => true
  | .lifecycleAdvance _ => true
  | .packageReset _ => true
  | .computeDieFailure _ => true
  | .anchorDieLoss => true
  | .stackBaseDieLoss _ => true
  | .registerWrite _ _ => true
  | .replayWindowEnd _ => true
  | .debuggerRelease _ => true
  | .breakpointArm _ _ => true
  | .backInvalidationResponse _ => true
  | .spdmSession _ => true
  | .tdispRunExit _ => true
  | .portTrainingComplete _ => true

end Sys2Proof
end

