-- ==== Sys2Proof/Decode.lean ====
section
/-! DEFINITION. Decoding and encoding: the fixed wave words (03 R67), working templates (03 R52 to R56, R73) and cox words
(04 R83 to R94, 05, 19 R438). Total on any bits; what is not a legal encoding is refused by name. The encoder is
written from the same tables. -/

namespace Sys2Proof

/-- Why bits are no instruction. -/
inductive DecodeErr where
  | reservedFixed | reservedOp | reservedFormat | reservedKind | undefinedModifier | illegalCox
  deriving DecidableEq, Repr

/-- An instruction's encoding: a wave word of the fixed dictionary, a working template, or a cox word. -/
inductive Code where
  | fixed (w : Word) | template (b : BitVec 128) | cox (w : Word)
  deriving DecidableEq, Repr

/-- The format of a type code (03 R56); unlisted codes are reserved. -/
def fmtOf : Nat → Option Fmt
  | 0x00 => some .none
  | 0x01 => some .b8
  | 0x02 => some .b16
  | 0x03 => some .b32
  | 0x04 => some .b64
  | 0x08 => some .i4
  | 0x09 => some .i8
  | 0x0A => some .i16
  | 0x0B => some .i32
  | 0x0C => some .i64
  | 0x10 => some .n4
  | 0x11 => some .n8
  | 0x12 => some .n16
  | 0x13 => some .n32
  | 0x14 => some .n64
  | 0x18 => some .f64
  | 0x19 => some .f32
  | 0x1A => some .f16
  | 0x1B => some .bf16
  | 0x20 => some .e4m3
  | 0x21 => some .e5m2
  | 0x22 => some .e3m2
  | 0x23 => some .e2m3
  | 0x24 => some .e2m1
  | 0x25 => some .e8m0
  | 0x26 => some .lc16
  | 0x28 => some .f16x2
  | 0x29 => some .bf16x2
  | 0x2A => some .e4m3x4
  | 0x2B => some .e5m2x4
  | _ => none

/-- The code of a format (03 R56). -/
def Fmt.code : Fmt → Nat
  | .none => 0x00
  | .b8 => 0x01
  | .b16 => 0x02
  | .b32 => 0x03
  | .b64 => 0x04
  | .i4 => 0x08
  | .i8 => 0x09
  | .i16 => 0x0A
  | .i32 => 0x0B
  | .i64 => 0x0C
  | .n4 => 0x10
  | .n8 => 0x11
  | .n16 => 0x12
  | .n32 => 0x13
  | .n64 => 0x14
  | .f64 => 0x18
  | .f32 => 0x19
  | .f16 => 0x1A
  | .bf16 => 0x1B
  | .e4m3 => 0x20
  | .e5m2 => 0x21
  | .e3m2 => 0x22
  | .e2m3 => 0x23
  | .e2m1 => 0x24
  | .e8m0 => 0x25
  | .lc16 => 0x26
  | .f16x2 => 0x28
  | .bf16x2 => 0x29
  | .e4m3x4 => 0x2A
  | .e5m2x4 => 0x2B

/-- An operand field: kind in [9:8], index in [7:0] (03 R53). -/
def opndOf (n : Nat) : Opnd :=
  match n / 256 % 4 with
  | 0 => .v (BitVec.ofNat 8 n)
  | 1 => .s (BitVec.ofNat 8 n)
  | 2 => .m (BitVec.ofNat 8 n)
  | _ => .k (BitVec.ofNat 8 n)

/-- The ten bits of an operand field (03 R53). -/
def Opnd.code : Opnd → Nat
  | .v i => i.toNat
  | .s i => 0x100 + i.toNat
  | .m i => 0x200 + i.toNat
  | .k i => 0x300 + i.toNat

/-! ## Fixed wave words (03 R67) -/

/-- The instruction a fixed word names: index in [31:24], holes in [23:0]; bits above the last hole are ignored (R44). -/
def decodeFixed (w : Word) : Except DecodeErr Instr :=
  match fieldOf w 24 8 with
  | 0x00 => .ok .nop
  | 0x01 => .ok (.bra (BitVec.ofNat 24 (fieldOf w 0 24)))
  | 0x02 => .ok (.brsZ (BitVec.ofNat 18 (fieldOf w 6 18)) (BitVec.ofNat 6 (fieldOf w 0 6)))
  | 0x03 => .ok (.brsNz (BitVec.ofNat 18 (fieldOf w 6 18)) (BitVec.ofNat 6 (fieldOf w 0 6)))
  | 0x04 => .ok (.brmAny (BitVec.ofNat 21 (fieldOf w 3 21)) (BitVec.ofNat 3 (fieldOf w 0 3)))
  | 0x05 => .ok (.brmAll (BitVec.ofNat 21 (fieldOf w 3 21)) (BitVec.ofNat 3 (fieldOf w 0 3)))
  | 0x06 => .ok (.brmNone (BitVec.ofNat 21 (fieldOf w 3 21)) (BitVec.ofNat 3 (fieldOf w 0 3)))
  | 0x07 => .ok (.brd (BitVec.ofNat 21 (fieldOf w 3 21)) (BitVec.ofNat 3 (fieldOf w 0 3)))
  | 0x08 => .ok (.brdCmp (BitVec.ofNat 21 (fieldOf w 3 21)) (BitVec.ofNat 3 (fieldOf w 0 3)))
  | 0x09 => .ok (.jmpt (BitVec.ofNat 6 (fieldOf w 14 6)) (BitVec.ofNat 6 (fieldOf w 8 6)) (BitVec.ofNat 8 (fieldOf w 0 8)))
  | 0x0A => .ok (.jmpi (BitVec.ofNat 6 (fieldOf w 8 6)) (BitVec.ofNat 8 (fieldOf w 0 8)))
  | 0x0B => .ok (.call (BitVec.ofNat 5 (fieldOf w 19 5)) (BitVec.ofNat 19 (fieldOf w 0 19)))
  | 0x0C => .ok (.calli (BitVec.ofNat 5 (fieldOf w 6 5)) (BitVec.ofNat 6 (fieldOf w 0 6)))
  | 0x0D => .ok .ret
  | 0x0E => .ok .join
  | 0x0F => .ok .exit
  | 0x10 => .ok (.dsel (BitVec.ofNat 3 (fieldOf w 0 3)))
  | 0x11 => .ok .ifence
  | 0x12 => .ok .yield
  | 0x13 => .ok (.trap (BitVec.ofNat 16 (fieldOf w 0 16)))
  | _ => .error .reservedFixed

/-! ## Working templates (03 R52, R73) -/

/-- The operation an operation number names (03 R73), its modifiers telling `eret` from `eret.skip` (18 R408) and the
forms of `tlbi` apart (13 R303). -/
def instrOfOp (op : Nat) (t : TOp) : Except DecodeErr Instr :=
  match op with
  | 0x040 => .ok (.add t)
  | 0x041 => .ok (.sub t)
  | 0x042 => .ok (.addc t)
  | 0x043 => .ok (.subb t)
  | 0x044 => .ok (.mul t)
  | 0x045 => .ok (.mulh t)
  | 0x046 => .ok (.mad t)
  | 0x047 => .ok (.div t)
  | 0x048 => .ok (.rem t)
  | 0x049 => .ok (.min t)
  | 0x04A => .ok (.max t)
  | 0x04B => .ok (.abs t)
  | 0x04C => .ok (.neg t)
  | 0x04D => .ok (.and t)
  | 0x04E => .ok (.or t)
  | 0x04F => .ok (.xor t)
  | 0x050 => .ok (.andn t)
  | 0x051 => .ok (.not t)
  | 0x052 => .ok (.shl t)
  | 0x053 => .ok (.shr t)
  | 0x054 => .ok (.sra t)
  | 0x055 => .ok (.rotl t)
  | 0x056 => .ok (.fsh t)
  | 0x057 => .ok (.bfe t)
  | 0x058 => .ok (.bfi t)
  | 0x059 => .ok (.popc t)
  | 0x05A => .ok (.clz t)
  | 0x05B => .ok (.ctz t)
  | 0x05C => .ok (.brev t)
  | 0x05D => .ok (.bperm t)
  | 0x05E => .ok (.clmul t)
  | 0x05F => .ok (.clmulh t)
  | 0x060 => .ok (.cmp t)
  | 0x061 => .ok (.sel t)
  | 0x062 => .ok (.mov t)
  | 0x063 => .ok (.movi t)
  | 0x064 => .ok (.lea t)
  | 0x065 => .ok (.shfl t)
  | 0x066 => .ok (.bcast t)
  | 0x067 => .ok (.ballot t)
  | 0x068 => .ok (.wred t)
  | 0x069 => .ok (.scan t)
  | 0x06A => .ok (.mand t)
  | 0x06B => .ok (.mor t)
  | 0x06C => .ok (.mxor t)
  | 0x06D => .ok (.mnot t)
  | 0x06E => .ok (.mpop t)
  | 0x100 => .ok (.fadd t)
  | 0x101 => .ok (.fsub t)
  | 0x102 => .ok (.fmul t)
  | 0x103 => .ok (.fma t)
  | 0x104 => .ok (.fmin t)
  | 0x105 => .ok (.fmax t)
  | 0x106 => .ok (.fcmp t)
  | 0x107 => .ok (.fclass t)
  | 0x108 => .ok (.frcp t)
  | 0x109 => .ok (.frsq t)
  | 0x10A => .ok (.fsqrt t)
  | 0x10B => .ok (.fexp2 t)
  | 0x10C => .ok (.flog2 t)
  | 0x10D => .ok (.fsin t)
  | 0x10E => .ok (.fcos t)
  | 0x10F => .ok (.ftanh t)
  | 0x110 => .ok (.fdot2 t)
  | 0x111 => .ok (.fdot4 t)
  | 0x112 => .ok (.fscale t)
  | 0x113 => .ok (.fround t)
  | 0x180 => .ok (.cvt t)
  | 0x181 => .ok (.pack t)
  | 0x182 => .ok (.unpack t)
  | 0x1C0 => .ok (.tfmt t)
  | 0x1C1 => .ok (.tmma t)
  | 0x1C2 => .ok (.tzero t)
  | 0x1C3 => .ok (.trd t)
  | 0x1C4 => .ok (.twr t)
  | 0x1C5 => .ok (.tcmp t)
  | 0x1C6 => .ok (.tbmp t)
  | 0x1C7 => .ok (.tmc t)
  | 0x1C8 => .ok (.tstat t)
  | 0x1C9 => .ok (.tcan t)
  | 0x200 => .ok (.xown t)
  | 0x201 => .ok (.xrel t)
  | 0x202 => .ok (.xprog t)
  | 0x203 => .ok (.xverify t)
  | 0x204 => .ok (.xmv t)
  | 0x205 => .ok (.xmva t)
  | 0x206 => .ok (.xcal t)
  | 0x207 => .ok (.xref t)
  | 0x208 => .ok (.xstat t)
  | 0x209 => .ok (.xfix t)
  | 0x20A => .ok (.xbnd t)
  | 0x220 => .ok (.ld t)
  | 0x221 => .ok (.st t)
  | 0x222 => .ok (.ldg t)
  | 0x223 => .ok (.stg t)
  | 0x224 => .ok (.ldt t)
  | 0x225 => .ok (.stt t)
  | 0x226 => .ok (.stmc t)
  | 0x227 => .ok (.pf t)
  | 0x228 => .ok (.cinv t)
  | 0x229 => .ok (.cwb t)
  | 0x22A => .ok (.spcfg t)
  | 0x22B => .ok (.palias t)
  | 0x22C => .ok (.mdld t)
  | 0x22D => .ok (.mdst t)
  | 0x22E => .ok (.fence t)
  | 0x22F => .ok (.fjoin t)
  | 0x280 => .ok (.amo t)
  | 0x281 => .ok (.cas t)
  | 0x282 => .ok (.red t)
  | 0x283 => .ok (.amonib t)
  | 0x284 => .ok (.aregLd t)
  | 0x285 => .ok (.aregSt t)
  | 0x286 => .ok (.aregGo t)
  | 0x2C0 => .ok (.barv t)
  | 0x2C1 => .ok (.barw t)
  | 0x2C2 => .ok (.bars t)
  | 0x2C3 => .ok (.barq t)
  | 0x2C4 => .ok (.waitm t)
  | 0x2C5 => .ok (.waitf t)
  | 0x2C6 => .ok (.nap t)
  | 0x2E0 => .ok (.cpy t)
  | 0x2E1 => .ok (.cpy2 t)
  | 0x2E2 => .ok (.cpyg t)
  | 0x2E3 => .ok (.chapp t)
  | 0x2E4 => .ok (.chseq t)
  | 0x2E5 => .ok (.evpost t)
  | 0x2E6 => .ok (.rst t)
  | 0x2E7 => .ok (.rstf t)
  | 0x2E8 => .ok (.rfence t)
  | 0x2E9 => .ok (.getwork t)
  | 0x320 => .ok (.rowact t)
  | 0x321 => .ok (.rowpre t)
  | 0x322 => .ok (.rowld t)
  | 0x323 => .ok (.rowst t)
  | 0x324 => .ok (.colsend t)
  | 0x325 => .ok (.colrecv t)
  | 0x326 => .ok (.colred t)
  | 0x327 => .ok (.mif t)
  | 0x328 => .ok (.melse t)
  | 0x329 => .ok (.mend t)
  | 0x340 => .ok (.srd t)
  | 0x341 => .ok (.swr t)
  | 0x342 =>
    match t.opmod.toNat with
    | 0 => .ok (.eret t)
    | 1 => .ok (.eretSkip t)
    | _ => .error .undefinedModifier
  | 0x343 => .ok (.brk t)
  | 0x344 =>
    match t.opmod.toNat with
    | 0 => .ok (.tlbiCtx t)
    | 1 => .ok (.tlbiPage t)
    | 2 => .ok (.tlbiRange t)
    | _ => .error .undefinedModifier
  | 0x345 => .ok (.erd t)
  | 0x346 => .ok (.ctxs t)
  | 0x347 => .ok (.ctxr t)
  | 0x348 => .ok (.hlt t)
  | _ => .error .reservedOp

/-- The fields of a working template, if its format is no reserved one. -/
def fieldsOf (b : BitVec 128) : Option TOp :=
  match fmtOf (fieldOf b 10 6) with
  | none => none
  | some f => some {
      att := BitVec.ofNat 2 (fieldOf b 26 2)
      bnd := fieldOf b 25 1 == 1
      opmod := BitVec.ofNat 9 (fieldOf b 16 9)
      fmt := f
      d := opndOf (fieldOf b 28 10)
      a := opndOf (fieldOf b 38 10)
      b := opndOf (fieldOf b 48 10)
      c := opndOf (fieldOf b 58 10)
      imm := BitVec.ofNat 32 (fieldOf b 68 32) }

/-- The instruction of a working template, its holes filled. -/
def decodeTemplate (b : BitVec 128) : Except DecodeErr Instr :=
  match fieldsOf b with
  | none => .error .reservedFormat
  | some t => instrOfOp (fieldOf b 0 10) t

/-! ## Cox words (04 R83, R84) -/

/-- The instruction of a cox word: major opcode in [31:26]. A field a form does not use must be zero (R83). The values `ext`,
`ins`, `amo` and `fence` refuse (R87, R91, R92) are refused where they run, with the same cause. -/
def decodeCox (w : Word) : Except DecodeErr Instr :=
  match fieldOf w 26 6 with
  | 0x01 =>
    match fieldOf w 0 11 with
    | 0 => .ok (.coxAdd (BitVec.ofNat 5 (fieldOf w 21 5)) (BitVec.ofNat 5 (fieldOf w 16 5)) (BitVec.ofNat 5 (fieldOf w 11 5)))
    | 1 => .ok (.coxSub (BitVec.ofNat 5 (fieldOf w 21 5)) (BitVec.ofNat 5 (fieldOf w 16 5)) (BitVec.ofNat 5 (fieldOf w 11 5)))
    | 2 => .ok (.coxAnd (BitVec.ofNat 5 (fieldOf w 21 5)) (BitVec.ofNat 5 (fieldOf w 16 5)) (BitVec.ofNat 5 (fieldOf w 11 5)))
    | 3 => .ok (.coxOr (BitVec.ofNat 5 (fieldOf w 21 5)) (BitVec.ofNat 5 (fieldOf w 16 5)) (BitVec.ofNat 5 (fieldOf w 11 5)))
    | 4 => .ok (.coxXor (BitVec.ofNat 5 (fieldOf w 21 5)) (BitVec.ofNat 5 (fieldOf w 16 5)) (BitVec.ofNat 5 (fieldOf w 11 5)))
    | 5 => .ok (.sll (BitVec.ofNat 5 (fieldOf w 21 5)) (BitVec.ofNat 5 (fieldOf w 16 5)) (BitVec.ofNat 5 (fieldOf w 11 5)))
    | 6 => .ok (.srl (BitVec.ofNat 5 (fieldOf w 21 5)) (BitVec.ofNat 5 (fieldOf w 16 5)) (BitVec.ofNat 5 (fieldOf w 11 5)))
    | 7 => .ok (.coxSra (BitVec.ofNat 5 (fieldOf w 21 5)) (BitVec.ofNat 5 (fieldOf w 16 5)) (BitVec.ofNat 5 (fieldOf w 11 5)))
    | 8 => .ok (.slt (BitVec.ofNat 5 (fieldOf w 21 5)) (BitVec.ofNat 5 (fieldOf w 16 5)) (BitVec.ofNat 5 (fieldOf w 11 5)))
    | 9 => .ok (.sltn (BitVec.ofNat 5 (fieldOf w 21 5)) (BitVec.ofNat 5 (fieldOf w 16 5)) (BitVec.ofNat 5 (fieldOf w 11 5)))
    | 10 => .ok (.coxMul (BitVec.ofNat 5 (fieldOf w 21 5)) (BitVec.ofNat 5 (fieldOf w 16 5)) (BitVec.ofNat 5 (fieldOf w 11 5)))
    | 11 => .ok (.coxMulh (BitVec.ofNat 5 (fieldOf w 21 5)) (BitVec.ofNat 5 (fieldOf w 16 5)) (BitVec.ofNat 5 (fieldOf w 11 5)))
    | 12 => .ok (.coxDiv (BitVec.ofNat 5 (fieldOf w 21 5)) (BitVec.ofNat 5 (fieldOf w 16 5)) (BitVec.ofNat 5 (fieldOf w 11 5)))
    | 13 => .ok (.coxRem (BitVec.ofNat 5 (fieldOf w 21 5)) (BitVec.ofNat 5 (fieldOf w 16 5)) (BitVec.ofNat 5 (fieldOf w 11 5)))
    | _ => .error .illegalCox
  | 0x02 => .ok (.addi (BitVec.ofNat 5 (fieldOf w 21 5)) (BitVec.ofNat 5 (fieldOf w 16 5)) (BitVec.ofNat 16 (fieldOf w 0 16)))
  | 0x03 => .ok (.andi (BitVec.ofNat 5 (fieldOf w 21 5)) (BitVec.ofNat 5 (fieldOf w 16 5)) (BitVec.ofNat 16 (fieldOf w 0 16)))
  | 0x04 => .ok (.ori (BitVec.ofNat 5 (fieldOf w 21 5)) (BitVec.ofNat 5 (fieldOf w 16 5)) (BitVec.ofNat 16 (fieldOf w 0 16)))
  | 0x05 => .ok (.xori (BitVec.ofNat 5 (fieldOf w 21 5)) (BitVec.ofNat 5 (fieldOf w 16 5)) (BitVec.ofNat 16 (fieldOf w 0 16)))
  | 0x06 => if fieldOf w 6 10 == 0 then .ok (.slli (BitVec.ofNat 5 (fieldOf w 21 5)) (BitVec.ofNat 5 (fieldOf w 16 5)) (BitVec.ofNat 6 (fieldOf w 0 6))) else .error .illegalCox
  | 0x07 => if fieldOf w 6 10 == 0 then .ok (.srli (BitVec.ofNat 5 (fieldOf w 21 5)) (BitVec.ofNat 5 (fieldOf w 16 5)) (BitVec.ofNat 6 (fieldOf w 0 6))) else .error .illegalCox
  | 0x08 => if fieldOf w 6 10 == 0 then .ok (.srai (BitVec.ofNat 5 (fieldOf w 21 5)) (BitVec.ofNat 5 (fieldOf w 16 5)) (BitVec.ofNat 6 (fieldOf w 0 6))) else .error .illegalCox
  | 0x09 =>
    match fieldOf w 0 4 with
    | 0 => .ok (.ext (BitVec.ofNat 5 (fieldOf w 21 5)) (BitVec.ofNat 5 (fieldOf w 16 5)) (BitVec.ofNat 6 (fieldOf w 10 6)) (BitVec.ofNat 6 (fieldOf w 4 6)))
    | 1 => .ok (.ins (BitVec.ofNat 5 (fieldOf w 21 5)) (BitVec.ofNat 5 (fieldOf w 16 5)) (BitVec.ofNat 6 (fieldOf w 10 6)) (BitVec.ofNat 6 (fieldOf w 4 6)))
    | _ => .error .illegalCox
  | 0x0A => .ok (.lui (BitVec.ofNat 5 (fieldOf w 21 5)) (BitVec.ofNat 21 (fieldOf w 0 21)))
  | 0x0B => .ok (.apc (BitVec.ofNat 5 (fieldOf w 21 5)) (BitVec.ofNat 21 (fieldOf w 0 21)))
  | 0x10 => .ok (.ldB (BitVec.ofNat 5 (fieldOf w 21 5)) (BitVec.ofNat 5 (fieldOf w 16 5)) (BitVec.ofNat 16 (fieldOf w 0 16)))
  | 0x11 => .ok (.ldH (BitVec.ofNat 5 (fieldOf w 21 5)) (BitVec.ofNat 5 (fieldOf w 16 5)) (BitVec.ofNat 16 (fieldOf w 0 16)))
  | 0x12 => .ok (.ldW (BitVec.ofNat 5 (fieldOf w 21 5)) (BitVec.ofNat 5 (fieldOf w 16 5)) (BitVec.ofNat 16 (fieldOf w 0 16)))
  | 0x13 => .ok (.ldD (BitVec.ofNat 5 (fieldOf w 21 5)) (BitVec.ofNat 5 (fieldOf w 16 5)) (BitVec.ofNat 16 (fieldOf w 0 16)))
  | 0x14 => .ok (.ldBn (BitVec.ofNat 5 (fieldOf w 21 5)) (BitVec.ofNat 5 (fieldOf w 16 5)) (BitVec.ofNat 16 (fieldOf w 0 16)))
  | 0x15 => .ok (.ldHn (BitVec.ofNat 5 (fieldOf w 21 5)) (BitVec.ofNat 5 (fieldOf w 16 5)) (BitVec.ofNat 16 (fieldOf w 0 16)))
  | 0x16 => .ok (.ldWn (BitVec.ofNat 5 (fieldOf w 21 5)) (BitVec.ofNat 5 (fieldOf w 16 5)) (BitVec.ofNat 16 (fieldOf w 0 16)))
  | 0x18 => .ok (.stB (BitVec.ofNat 5 (fieldOf w 21 5)) (BitVec.ofNat 5 (fieldOf w 16 5)) (BitVec.ofNat 16 (fieldOf w 0 16)))
  | 0x19 => .ok (.stH (BitVec.ofNat 5 (fieldOf w 21 5)) (BitVec.ofNat 5 (fieldOf w 16 5)) (BitVec.ofNat 16 (fieldOf w 0 16)))
  | 0x1A => .ok (.stW (BitVec.ofNat 5 (fieldOf w 21 5)) (BitVec.ofNat 5 (fieldOf w 16 5)) (BitVec.ofNat 16 (fieldOf w 0 16)))
  | 0x1B => .ok (.stD (BitVec.ofNat 5 (fieldOf w 21 5)) (BitVec.ofNat 5 (fieldOf w 16 5)) (BitVec.ofNat 16 (fieldOf w 0 16)))
  | 0x1C => if fieldOf w 3 1 == 0 then .ok (.coxAmo (BitVec.ofNat 5 (fieldOf w 21 5)) (BitVec.ofNat 5 (fieldOf w 16 5)) (BitVec.ofNat 5 (fieldOf w 11 5)) (BitVec.ofNat 4 (fieldOf w 7 4)) (BitVec.ofNat 3 (fieldOf w 4 3)) (BitVec.ofNat 1 (fieldOf w 2 1)) (BitVec.ofNat 2 (fieldOf w 0 2))) else .error .illegalCox
  | 0x1D => if fieldOf w 2 2 == 0 && fieldOf w 7 19 == 0 then .ok (.coxFence (BitVec.ofNat 3 (fieldOf w 4 3)) (BitVec.ofNat 2 (fieldOf w 0 2))) else .error .illegalCox
  | 0x20 => .ok (.beq (BitVec.ofNat 5 (fieldOf w 21 5)) (BitVec.ofNat 5 (fieldOf w 16 5)) (BitVec.ofNat 16 (fieldOf w 0 16)))
  | 0x21 => .ok (.bne (BitVec.ofNat 5 (fieldOf w 21 5)) (BitVec.ofNat 5 (fieldOf w 16 5)) (BitVec.ofNat 16 (fieldOf w 0 16)))
  | 0x22 => .ok (.blt (BitVec.ofNat 5 (fieldOf w 21 5)) (BitVec.ofNat 5 (fieldOf w 16 5)) (BitVec.ofNat 16 (fieldOf w 0 16)))
  | 0x23 => .ok (.bge (BitVec.ofNat 5 (fieldOf w 21 5)) (BitVec.ofNat 5 (fieldOf w 16 5)) (BitVec.ofNat 16 (fieldOf w 0 16)))
  | 0x24 => .ok (.bltn (BitVec.ofNat 5 (fieldOf w 21 5)) (BitVec.ofNat 5 (fieldOf w 16 5)) (BitVec.ofNat 16 (fieldOf w 0 16)))
  | 0x25 => .ok (.bgen (BitVec.ofNat 5 (fieldOf w 21 5)) (BitVec.ofNat 5 (fieldOf w 16 5)) (BitVec.ofNat 16 (fieldOf w 0 16)))
  | 0x26 => .ok (.jal (BitVec.ofNat 5 (fieldOf w 21 5)) (BitVec.ofNat 21 (fieldOf w 0 21)))
  | 0x27 => .ok (.jalr (BitVec.ofNat 5 (fieldOf w 21 5)) (BitVec.ofNat 5 (fieldOf w 16 5)) (BitVec.ofNat 16 (fieldOf w 0 16)))
  | 0x28 => if fieldOf w 12 9 == 0 then .ok (.csrr (BitVec.ofNat 5 (fieldOf w 21 5)) (BitVec.ofNat 12 (fieldOf w 0 12))) else .error .illegalCox
  | 0x29 => if fieldOf w 12 4 == 0 && fieldOf w 21 5 == 0 then .ok (.csrw (BitVec.ofNat 5 (fieldOf w 16 5)) (BitVec.ofNat 12 (fieldOf w 0 12))) else .error .illegalCox
  | 0x2A => if fieldOf w 16 10 == 0 then .ok (.coxTrap (BitVec.ofNat 16 (fieldOf w 0 16))) else .error .illegalCox
  | 0x2B => if fieldOf w 0 26 == 0 then .ok .coxEret else .error .illegalCox
  | 0x2C => if fieldOf w 0 16 == 0 && fieldOf w 21 5 == 0 then .ok (.wfe (BitVec.ofNat 5 (fieldOf w 16 5))) else .error .illegalCox
  | 0x2D => if fieldOf w 0 22 == 0 then .ok (.evq (BitVec.ofNat 4 (fieldOf w 22 4))) else .error .illegalCox
  | 0x30 => if fieldOf w 21 5 == 0 then .ok (.hdr (BitVec.ofNat 5 (fieldOf w 16 5)) (BitVec.ofNat 16 (fieldOf w 0 16))) else .error .illegalCox
  | 0x31 => if fieldOf w 3 8 == 0 then .ok (.cmpw (BitVec.ofNat 5 (fieldOf w 21 5)) (BitVec.ofNat 5 (fieldOf w 16 5)) (BitVec.ofNat 5 (fieldOf w 11 5)) (BitVec.ofNat 3 (fieldOf w 0 3))) else .error .illegalCox
  | 0x32 =>
    match fieldOf w 0 11 with
    | 0 => if fieldOf w 11 5 == 0 && fieldOf w 21 5 == 0 then .ok (.emw (BitVec.ofNat 5 (fieldOf w 16 5))) else .error .illegalCox
    | 1 => if fieldOf w 21 5 == 0 then .ok (.emw2 (BitVec.ofNat 5 (fieldOf w 16 5)) (BitVec.ofNat 5 (fieldOf w 11 5))) else .error .illegalCox
    | _ => .error .illegalCox
  | 0x33 => if fieldOf w 0 16 == 0 then .ok (.emc (BitVec.ofNat 5 (fieldOf w 21 5)) (BitVec.ofNat 5 (fieldOf w 16 5))) else .error .illegalCox
  | 0x34 =>
    match fieldOf w 0 11 with
    | 0 => if fieldOf w 11 5 == 0 then .ok (.ems (BitVec.ofNat 5 (fieldOf w 21 5)) (BitVec.ofNat 5 (fieldOf w 16 5))) else .error .illegalCox
    | 1 => if fieldOf w 11 5 == 0 then .ok (.emsC (BitVec.ofNat 5 (fieldOf w 21 5)) (BitVec.ofNat 5 (fieldOf w 16 5))) else .error .illegalCox
    | _ => .error .illegalCox
  | 0x35 => if fieldOf w 3 13 == 0 then .ok (.dld (BitVec.ofNat 5 (fieldOf w 21 5)) (BitVec.ofNat 5 (fieldOf w 16 5)) (BitVec.ofNat 3 (fieldOf w 0 3))) else .error .illegalCox
  | 0x36 => if fieldOf w 0 11 == 0 then .ok (.spawn (BitVec.ofNat 5 (fieldOf w 21 5)) (BitVec.ofNat 5 (fieldOf w 16 5)) (BitVec.ofNat 5 (fieldOf w 11 5))) else .error .illegalCox
  | 0x37 => .ok (.stk (BitVec.ofNat 5 (fieldOf w 21 5)) (BitVec.ofNat 5 (fieldOf w 16 5)) (BitVec.ofNat 16 (fieldOf w 0 16)))
  | 0x38 => if fieldOf w 0 11 == 0 then .ok (.qmap (BitVec.ofNat 5 (fieldOf w 21 5)) (BitVec.ofNat 5 (fieldOf w 16 5)) (BitVec.ofNat 5 (fieldOf w 11 5))) else .error .illegalCox
  | 0x39 => if fieldOf w 0 16 == 0 then .ok (.qunmap (BitVec.ofNat 5 (fieldOf w 21 5)) (BitVec.ofNat 5 (fieldOf w 16 5))) else .error .illegalCox
  | 0x3A => if fieldOf w 0 16 == 0 then .ok (.kscan (BitVec.ofNat 5 (fieldOf w 21 5)) (BitVec.ofNat 5 (fieldOf w 16 5))) else .error .illegalCox
  | 0x3B => if fieldOf w 0 16 == 0 then .ok (.japp (BitVec.ofNat 5 (fieldOf w 21 5)) (BitVec.ofNat 5 (fieldOf w 16 5))) else .error .illegalCox
  | 0x3C => if fieldOf w 0 11 == 0 then .ok (.jsync (BitVec.ofNat 5 (fieldOf w 21 5)) (BitVec.ofNat 5 (fieldOf w 16 5)) (BitVec.ofNat 5 (fieldOf w 11 5))) else .error .illegalCox
  | 0x3D => if fieldOf w 0 16 == 0 then .ok (.lpost (BitVec.ofNat 5 (fieldOf w 21 5)) (BitVec.ofNat 5 (fieldOf w 16 5))) else .error .illegalCox
  | 0x3E => if fieldOf w 2 14 == 0 then .ok (.lcan (BitVec.ofNat 5 (fieldOf w 21 5)) (BitVec.ofNat 5 (fieldOf w 16 5)) (BitVec.ofNat 2 (fieldOf w 0 2))) else .error .illegalCox
  | 0x3F => if fieldOf w 0 16 == 0 && fieldOf w 21 5 == 0 then .ok (.hold (BitVec.ofNat 5 (fieldOf w 16 5))) else .error .illegalCox
  | _ => .error .illegalCox

/-- The instruction of an encoding. -/
def decode : Code → Except DecodeErr Instr
  | .fixed w => decodeFixed w
  | .template b => decodeTemplate b
  | .cox w => decodeCox w

/-! ## Encoding -/

/-- The bits of a working template (03 R52), HOLEMAP zero. -/
def encodeTemplate (op : Nat) (t : TOp) : Code :=
  .template (BitVec.ofNat 128 (op + t.fmt.code * 2 ^ 10 + t.opmod.toNat * 2 ^ 16 + t.bnd.toNat * 2 ^ 25 +
    t.att.toNat * 2 ^ 26 + t.d.code * 2 ^ 28 + t.a.code * 2 ^ 38 + t.b.code * 2 ^ 48 + t.c.code * 2 ^ 58 +
    t.imm.toNat * 2 ^ 68))

/-- A fixed word: index and holes. -/
def encodeFixed (i holes : Nat) : Code := .fixed (BitVec.ofNat 32 (i * 2 ^ 24 + holes))

/-- A cox word: major opcode and the fields below it. -/
def encodeCox (maj rest : Nat) : Code := .cox (BitVec.ofNat 32 (maj * 2 ^ 26 + rest))

/-- A field with its lowest bit at bit k of the word. -/
def fld {n : Nat} (x : BitVec n) (k : Nat) : Nat := x.toNat * 2 ^ k

/-- The encoding of an instruction; an event of the machine's own has none. -/
def encode : Instr → Option Code
  | .nop => some (encodeFixed 0x00 (0))
  | .bra i => some (encodeFixed 0x01 (i.toNat))
  | .brsZ i a => some (encodeFixed 0x02 (fld i 6 + a.toNat))
  | .brsNz i a => some (encodeFixed 0x03 (fld i 6 + a.toNat))
  | .brmAny i m => some (encodeFixed 0x04 (fld i 3 + m.toNat))
  | .brmAll i m => some (encodeFixed 0x05 (fld i 3 + m.toNat))
  | .brmNone i m => some (encodeFixed 0x06 (fld i 3 + m.toNat))
  | .brd i m => some (encodeFixed 0x07 (fld i 3 + m.toNat))
  | .brdCmp i m => some (encodeFixed 0x08 (fld i 3 + m.toNat))
  | .jmpt c b a => some (encodeFixed 0x09 (fld c 14 + fld b 8 + a.toNat))
  | .jmpi b a => some (encodeFixed 0x0A (fld b 8 + a.toNat))
  | .call n i => some (encodeFixed 0x0B (fld n 19 + i.toNat))
  | .calli n a => some (encodeFixed 0x0C (fld n 6 + a.toNat))
  | .ret => some (encodeFixed 0x0D (0))
  | .join => some (encodeFixed 0x0E (0))
  | .exit => some (encodeFixed 0x0F (0))
  | .dsel n => some (encodeFixed 0x10 (n.toNat))
  | .ifence => some (encodeFixed 0x11 (0))
  | .yield => some (encodeFixed 0x12 (0))
  | .trap i => some (encodeFixed 0x13 (i.toNat))
  | .add t => some (encodeTemplate 0x040 t)
  | .sub t => some (encodeTemplate 0x041 t)
  | .addc t => some (encodeTemplate 0x042 t)
  | .subb t => some (encodeTemplate 0x043 t)
  | .mul t => some (encodeTemplate 0x044 t)
  | .mulh t => some (encodeTemplate 0x045 t)
  | .mad t => some (encodeTemplate 0x046 t)
  | .div t => some (encodeTemplate 0x047 t)
  | .rem t => some (encodeTemplate 0x048 t)
  | .min t => some (encodeTemplate 0x049 t)
  | .max t => some (encodeTemplate 0x04A t)
  | .abs t => some (encodeTemplate 0x04B t)
  | .neg t => some (encodeTemplate 0x04C t)
  | .and t => some (encodeTemplate 0x04D t)
  | .or t => some (encodeTemplate 0x04E t)
  | .xor t => some (encodeTemplate 0x04F t)
  | .andn t => some (encodeTemplate 0x050 t)
  | .not t => some (encodeTemplate 0x051 t)
  | .shl t => some (encodeTemplate 0x052 t)
  | .shr t => some (encodeTemplate 0x053 t)
  | .sra t => some (encodeTemplate 0x054 t)
  | .rotl t => some (encodeTemplate 0x055 t)
  | .fsh t => some (encodeTemplate 0x056 t)
  | .bfe t => some (encodeTemplate 0x057 t)
  | .bfi t => some (encodeTemplate 0x058 t)
  | .popc t => some (encodeTemplate 0x059 t)
  | .clz t => some (encodeTemplate 0x05A t)
  | .ctz t => some (encodeTemplate 0x05B t)
  | .brev t => some (encodeTemplate 0x05C t)
  | .bperm t => some (encodeTemplate 0x05D t)
  | .clmul t => some (encodeTemplate 0x05E t)
  | .clmulh t => some (encodeTemplate 0x05F t)
  | .cmp t => some (encodeTemplate 0x060 t)
  | .sel t => some (encodeTemplate 0x061 t)
  | .mov t => some (encodeTemplate 0x062 t)
  | .movi t => some (encodeTemplate 0x063 t)
  | .lea t => some (encodeTemplate 0x064 t)
  | .shfl t => some (encodeTemplate 0x065 t)
  | .bcast t => some (encodeTemplate 0x066 t)
  | .ballot t => some (encodeTemplate 0x067 t)
  | .wred t => some (encodeTemplate 0x068 t)
  | .scan t => some (encodeTemplate 0x069 t)
  | .mand t => some (encodeTemplate 0x06A t)
  | .mor t => some (encodeTemplate 0x06B t)
  | .mxor t => some (encodeTemplate 0x06C t)
  | .mnot t => some (encodeTemplate 0x06D t)
  | .mpop t => some (encodeTemplate 0x06E t)
  | .fadd t => some (encodeTemplate 0x100 t)
  | .fsub t => some (encodeTemplate 0x101 t)
  | .fmul t => some (encodeTemplate 0x102 t)
  | .fma t => some (encodeTemplate 0x103 t)
  | .fmin t => some (encodeTemplate 0x104 t)
  | .fmax t => some (encodeTemplate 0x105 t)
  | .fcmp t => some (encodeTemplate 0x106 t)
  | .fclass t => some (encodeTemplate 0x107 t)
  | .frcp t => some (encodeTemplate 0x108 t)
  | .frsq t => some (encodeTemplate 0x109 t)
  | .fsqrt t => some (encodeTemplate 0x10A t)
  | .fexp2 t => some (encodeTemplate 0x10B t)
  | .flog2 t => some (encodeTemplate 0x10C t)
  | .fsin t => some (encodeTemplate 0x10D t)
  | .fcos t => some (encodeTemplate 0x10E t)
  | .ftanh t => some (encodeTemplate 0x10F t)
  | .fdot2 t => some (encodeTemplate 0x110 t)
  | .fdot4 t => some (encodeTemplate 0x111 t)
  | .fscale t => some (encodeTemplate 0x112 t)
  | .fround t => some (encodeTemplate 0x113 t)
  | .cvt t => some (encodeTemplate 0x180 t)
  | .pack t => some (encodeTemplate 0x181 t)
  | .unpack t => some (encodeTemplate 0x182 t)
  | .tfmt t => some (encodeTemplate 0x1C0 t)
  | .tmma t => some (encodeTemplate 0x1C1 t)
  | .tzero t => some (encodeTemplate 0x1C2 t)
  | .trd t => some (encodeTemplate 0x1C3 t)
  | .twr t => some (encodeTemplate 0x1C4 t)
  | .tcmp t => some (encodeTemplate 0x1C5 t)
  | .tbmp t => some (encodeTemplate 0x1C6 t)
  | .tmc t => some (encodeTemplate 0x1C7 t)
  | .tstat t => some (encodeTemplate 0x1C8 t)
  | .tcan t => some (encodeTemplate 0x1C9 t)
  | .xown t => some (encodeTemplate 0x200 t)
  | .xrel t => some (encodeTemplate 0x201 t)
  | .xprog t => some (encodeTemplate 0x202 t)
  | .xverify t => some (encodeTemplate 0x203 t)
  | .xmv t => some (encodeTemplate 0x204 t)
  | .xmva t => some (encodeTemplate 0x205 t)
  | .xcal t => some (encodeTemplate 0x206 t)
  | .xref t => some (encodeTemplate 0x207 t)
  | .xstat t => some (encodeTemplate 0x208 t)
  | .xfix t => some (encodeTemplate 0x209 t)
  | .xbnd t => some (encodeTemplate 0x20A t)
  | .ld t => some (encodeTemplate 0x220 t)
  | .st t => some (encodeTemplate 0x221 t)
  | .ldg t => some (encodeTemplate 0x222 t)
  | .stg t => some (encodeTemplate 0x223 t)
  | .ldt t => some (encodeTemplate 0x224 t)
  | .stt t => some (encodeTemplate 0x225 t)
  | .stmc t => some (encodeTemplate 0x226 t)
  | .pf t => some (encodeTemplate 0x227 t)
  | .cinv t => some (encodeTemplate 0x228 t)
  | .cwb t => some (encodeTemplate 0x229 t)
  | .spcfg t => some (encodeTemplate 0x22A t)
  | .palias t => some (encodeTemplate 0x22B t)
  | .mdld t => some (encodeTemplate 0x22C t)
  | .mdst t => some (encodeTemplate 0x22D t)
  | .fence t => some (encodeTemplate 0x22E t)
  | .fjoin t => some (encodeTemplate 0x22F t)
  | .amo t => some (encodeTemplate 0x280 t)
  | .cas t => some (encodeTemplate 0x281 t)
  | .red t => some (encodeTemplate 0x282 t)
  | .amonib t => some (encodeTemplate 0x283 t)
  | .aregLd t => some (encodeTemplate 0x284 t)
  | .aregSt t => some (encodeTemplate 0x285 t)
  | .aregGo t => some (encodeTemplate 0x286 t)
  | .barv t => some (encodeTemplate 0x2C0 t)
  | .barw t => some (encodeTemplate 0x2C1 t)
  | .bars t => some (encodeTemplate 0x2C2 t)
  | .barq t => some (encodeTemplate 0x2C3 t)
  | .waitm t => some (encodeTemplate 0x2C4 t)
  | .waitf t => some (encodeTemplate 0x2C5 t)
  | .nap t => some (encodeTemplate 0x2C6 t)
  | .cpy t => some (encodeTemplate 0x2E0 t)
  | .cpy2 t => some (encodeTemplate 0x2E1 t)
  | .cpyg t => some (encodeTemplate 0x2E2 t)
  | .chapp t => some (encodeTemplate 0x2E3 t)
  | .chseq t => some (encodeTemplate 0x2E4 t)
  | .evpost t => some (encodeTemplate 0x2E5 t)
  | .rst t => some (encodeTemplate 0x2E6 t)
  | .rstf t => some (encodeTemplate 0x2E7 t)
  | .rfence t => some (encodeTemplate 0x2E8 t)
  | .getwork t => some (encodeTemplate 0x2E9 t)
  | .srd t => some (encodeTemplate 0x340 t)
  | .swr t => some (encodeTemplate 0x341 t)
  | .eret t => some (encodeTemplate 0x342 t)
  | .eretSkip t => some (encodeTemplate 0x342 t)
  | .brk t => some (encodeTemplate 0x343 t)
  | .tlbiCtx t => some (encodeTemplate 0x344 t)
  | .tlbiPage t => some (encodeTemplate 0x344 t)
  | .tlbiRange t => some (encodeTemplate 0x344 t)
  | .erd t => some (encodeTemplate 0x345 t)
  | .ctxs t => some (encodeTemplate 0x346 t)
  | .ctxr t => some (encodeTemplate 0x347 t)
  | .hlt t => some (encodeTemplate 0x348 t)
  | .rowact t => some (encodeTemplate 0x320 t)
  | .rowpre t => some (encodeTemplate 0x321 t)
  | .rowld t => some (encodeTemplate 0x322 t)
  | .rowst t => some (encodeTemplate 0x323 t)
  | .colsend t => some (encodeTemplate 0x324 t)
  | .colrecv t => some (encodeTemplate 0x325 t)
  | .colred t => some (encodeTemplate 0x326 t)
  | .mif t => some (encodeTemplate 0x327 t)
  | .melse t => some (encodeTemplate 0x328 t)
  | .mend t => some (encodeTemplate 0x329 t)
  | .coxAdd d a b => some (encodeCox 0x01 (fld d 21 + fld a 16 + fld b 11))
  | .coxSub d a b => some (encodeCox 0x01 (fld d 21 + fld a 16 + fld b 11 + 1))
  | .coxAnd d a b => some (encodeCox 0x01 (fld d 21 + fld a 16 + fld b 11 + 2))
  | .coxOr d a b => some (encodeCox 0x01 (fld d 21 + fld a 16 + fld b 11 + 3))
  | .coxXor d a b => some (encodeCox 0x01 (fld d 21 + fld a 16 + fld b 11 + 4))
  | .sll d a b => some (encodeCox 0x01 (fld d 21 + fld a 16 + fld b 11 + 5))
  | .srl d a b => some (encodeCox 0x01 (fld d 21 + fld a 16 + fld b 11 + 6))
  | .coxSra d a b => some (encodeCox 0x01 (fld d 21 + fld a 16 + fld b 11 + 7))
  | .slt d a b => some (encodeCox 0x01 (fld d 21 + fld a 16 + fld b 11 + 8))
  | .sltn d a b => some (encodeCox 0x01 (fld d 21 + fld a 16 + fld b 11 + 9))
  | .coxMul d a b => some (encodeCox 0x01 (fld d 21 + fld a 16 + fld b 11 + 10))
  | .coxMulh d a b => some (encodeCox 0x01 (fld d 21 + fld a 16 + fld b 11 + 11))
  | .coxDiv d a b => some (encodeCox 0x01 (fld d 21 + fld a 16 + fld b 11 + 12))
  | .coxRem d a b => some (encodeCox 0x01 (fld d 21 + fld a 16 + fld b 11 + 13))
  | .addi d a i => some (encodeCox 0x02 (fld d 21 + fld a 16 + i.toNat))
  | .andi d a i => some (encodeCox 0x03 (fld d 21 + fld a 16 + i.toNat))
  | .ori d a i => some (encodeCox 0x04 (fld d 21 + fld a 16 + i.toNat))
  | .xori d a i => some (encodeCox 0x05 (fld d 21 + fld a 16 + i.toNat))
  | .slli d a s => some (encodeCox 0x06 (fld d 21 + fld a 16 + s.toNat))
  | .srli d a s => some (encodeCox 0x07 (fld d 21 + fld a 16 + s.toNat))
  | .srai d a s => some (encodeCox 0x08 (fld d 21 + fld a 16 + s.toNat))
  | .ext d a p l => some (encodeCox 0x09 (fld d 21 + fld a 16 + fld p 10 + fld l 4))
  | .ins d a p l => some (encodeCox 0x09 (fld d 21 + fld a 16 + fld p 10 + fld l 4 + 1))
  | .lui d i => some (encodeCox 0x0A (fld d 21 + i.toNat))
  | .apc d i => some (encodeCox 0x0B (fld d 21 + i.toNat))
  | .ldB d a i => some (encodeCox 0x10 (fld d 21 + fld a 16 + i.toNat))
  | .ldH d a i => some (encodeCox 0x11 (fld d 21 + fld a 16 + i.toNat))
  | .ldW d a i => some (encodeCox 0x12 (fld d 21 + fld a 16 + i.toNat))
  | .ldD d a i => some (encodeCox 0x13 (fld d 21 + fld a 16 + i.toNat))
  | .ldBn d a i => some (encodeCox 0x14 (fld d 21 + fld a 16 + i.toNat))
  | .ldHn d a i => some (encodeCox 0x15 (fld d 21 + fld a 16 + i.toNat))
  | .ldWn d a i => some (encodeCox 0x16 (fld d 21 + fld a 16 + i.toNat))
  | .stB b a i => some (encodeCox 0x18 (fld b 21 + fld a 16 + i.toNat))
  | .stH b a i => some (encodeCox 0x19 (fld b 21 + fld a 16 + i.toNat))
  | .stW b a i => some (encodeCox 0x1A (fld b 21 + fld a 16 + i.toNat))
  | .stD b a i => some (encodeCox 0x1B (fld b 21 + fld a 16 + i.toNat))
  | .coxAmo d a b o s z r => some (encodeCox 0x1C (fld d 21 + fld a 16 + fld b 11 + fld o 7 + fld s 4 + fld z 2 + r.toNat))
  | .coxFence s r => some (encodeCox 0x1D (fld s 4 + r.toNat))
  | .beq a b i => some (encodeCox 0x20 (fld a 21 + fld b 16 + i.toNat))
  | .bne a b i => some (encodeCox 0x21 (fld a 21 + fld b 16 + i.toNat))
  | .blt a b i => some (encodeCox 0x22 (fld a 21 + fld b 16 + i.toNat))
  | .bge a b i => some (encodeCox 0x23 (fld a 21 + fld b 16 + i.toNat))
  | .bltn a b i => some (encodeCox 0x24 (fld a 21 + fld b 16 + i.toNat))
  | .bgen a b i => some (encodeCox 0x25 (fld a 21 + fld b 16 + i.toNat))
  | .jal d i => some (encodeCox 0x26 (fld d 21 + i.toNat))
  | .jalr d a i => some (encodeCox 0x27 (fld d 21 + fld a 16 + i.toNat))
  | .csrr d c => some (encodeCox 0x28 (fld d 21 + c.toNat))
  | .csrw a c => some (encodeCox 0x29 (fld a 16 + c.toNat))
  | .coxTrap i => some (encodeCox 0x2A (i.toNat))
  | .coxEret => some (encodeCox 0x2B (0))
  | .wfe a => some (encodeCox 0x2C (fld a 16))
  | .evq d => some (encodeCox 0x2D (fld d 22))
  | .hdr a i => some (encodeCox 0x30 (fld a 16 + i.toNat))
  | .cmpw d a b n => some (encodeCox 0x31 (fld d 21 + fld a 16 + fld b 11 + n.toNat))
  | .emw a => some (encodeCox 0x32 (fld a 16))
  | .emw2 a b => some (encodeCox 0x32 (fld a 16 + fld b 11 + 1))
  | .emc d a => some (encodeCox 0x33 (fld d 21 + fld a 16))
  | .ems d a => some (encodeCox 0x34 (fld d 21 + fld a 16))
  | .emsC d a => some (encodeCox 0x34 (fld d 21 + fld a 16 + 1))
  | .dld d a n => some (encodeCox 0x35 (fld d 21 + fld a 16 + n.toNat))
  | .spawn d a b => some (encodeCox 0x36 (fld d 21 + fld a 16 + fld b 11))
  | .stk d a i => some (encodeCox 0x37 (fld d 21 + fld a 16 + i.toNat))
  | .qmap d a b => some (encodeCox 0x38 (fld d 21 + fld a 16 + fld b 11))
  | .qunmap d a => some (encodeCox 0x39 (fld d 21 + fld a 16))
  | .kscan d a => some (encodeCox 0x3A (fld d 21 + fld a 16))
  | .japp d a => some (encodeCox 0x3B (fld d 21 + fld a 16))
  | .jsync d a b => some (encodeCox 0x3C (fld d 21 + fld a 16 + fld b 11))
  | .lpost d a => some (encodeCox 0x3D (fld d 21 + fld a 16))
  | .lcan d a l => some (encodeCox 0x3E (fld d 21 + fld a 16 + l.toNat))
  | .hold a => some (encodeCox 0x3F (fld a 16))
  | .clauseStart _ => none
  | .pathSwitch _ => none
  | .compactionMeetingTimeout _ => none
  | .privateGrowthResolved _ _ => none
  | .issueAgePromote _ => none
  | .napExpire _ => none
  | .wfeTimeout _ => none
  | .loadDataReturn _ _ _ => none
  | .storeAck _ _ => none
  | .storeApplyHome _ _ => none
  | .cacheFill _ _ => none
  | .atomicPerform _ _ _ => none
  | .waitmPoll _ => none
  | .blockFinish _ => none
  | .dictLoadEnd _ _ => none
  | .tileRecordStart _ => none
  | .tfmtLoadEnd _ _ => none
  | .tmmaTaskComplete _ _ => none
  | .tmmaCancelStop _ _ => none
  | .tzeroComplete _ _ => none
  | .trdComplete _ _ => none
  | .twrComplete _ _ => none
  | .tcmpComplete _ _ => none
  | .tbmpComplete _ _ => none
  | .tmcComplete _ _ => none
  | .xrelTakesEffect _ _ => none
  | .xprogComplete _ _ _ _ _ => none
  | .xverifyComplete _ _ => none
  | .xmvComplete _ _ _ _ => none
  | .xcalComplete _ _ _ _ => none
  | .xrefComplete _ _ _ _ => none
  | .copyComplete _ _ _ => none
  | .chainNop _ _ _ => none
  | .chainCopy _ _ _ => none
  | .chainCopy2 _ _ _ => none
  | .chainAdd _ _ _ => none
  | .chainWait _ _ _ => none
  | .chainEvent _ _ _ => none
  | .chainBadRecord _ _ _ => none
  | .remoteStorePacket _ _ _ _ _ => none
  | .keeperNotice _ _ => none
  | .keeperFlag _ _ _ _ _ _ => none
  | .keeperClear _ _ _ => none
  | .keeperTimeout _ _ => none
  | .keeperEntryFree _ => none
  | .remoteAck _ _ _ => none
  | .flitReplay _ => none
  | .portLaneFail _ _ => none
  | .peerTimeout _ _ _ => none
  | .peerPackageLost _ => none
  | .portDrain _ => none
  | .portRetrain _ => none
  | .portDrained _ => none
  | .hostAccess _ _ _ => none
  | .peerAccess _ _ _ => none
  | .tlbWalk _ _ => none
  | .epochBoundary => none
  | .mscwEnable _ _ => none
  | .extentGrant _ _ _ => none
  | .extentRelease _ => none
  | .extentForcedRelease _ => none
  | .scarabBlockStart _ _ => none
  | .collMessageArrive _ _ _ _ _ => none
  | .collHoldTimeout _ _ => none
  | .colrecvTimeout _ => none
  | .scarabFaultStop _ => none
  | .contextInstall _ _ => none
  | .contextSave _ => none
  | .contextRestore _ _ => none
  | .contextRemove _ => none
  | .queueQuantumExpire _ => none
  | .doorbellWrite _ => none
  | .launchRecord _ => none
  | .cancelRecord _ => none
  | .badCommandRecord _ => none
  | .launchAdmit _ _ _ _ _ => none
  | .blockPlacement _ => none
  | .getworkMailbox _ => none
  | .launchComplete _ _ => none
  | .completionRecordWrite _ => none
  | .journalHeartbeat => none
  | .umpireTakeoverFault => none
  | .umpireTakeoverSilence => none
  | .timingReplay _ => none
  | .replayStepUp _ => none
  | .meterTick _ _ => none
  | .capDistribute _ => none
  | .capcfgWrite _ => none
  | .acctuseWrite _ _ => none
  | .errorRecordFree _ _ => none
  | .pkgA0 => none
  | .pkgA2 => none
  | .pkgA3 => none
  | .islandReturn _ => none
  | .islandGate _ => none
  | .stackReturn _ => none
  | .stackSelfRefresh _ => none
  | .stackPowerOff _ => none
  | .channelReturn _ _ => none
  | .channelSelfRefresh _ _ => none
  | .channelPowerOff _ _ => none
  | .pwrreqMalformed _ => none
  | .debugRequest _ => none
  | .tdispBind _ => none
  | .lifecycleAdvance _ => none
  | .packageReset _ => none
  | .computeDieFailure _ => none
  | .anchorDieLoss => none
  | .stackBaseDieLoss _ => none
  | .registerWrite _ _ => none
  | .replayWindowEnd _ => none
  | .debuggerRelease _ => none
  | .breakpointArm _ _ => none
  | .backInvalidationResponse _ => none
  | .spdmSession _ => none
  | .tdispRunExit _ => none
  | .portTrainingComplete _ => none

/-- The word of a cox instruction, for XVAL of cause 0x180 (04 R95, R97). -/
def coxWordOf (i : Instr) : Word :=
  match encode i with
  | some (.cox w) => w
  | _ => 0

/-! ## The opcode table's words -/

/-- How a word of the opcode table is read. Wave words of the fixed dictionary and cox words share patterns, and which
reads a word is the agent that fetches it. Here an index below 0x14 is a wave word, but where it is 0x04, 0x08, 0x0C or
0x10 and the word is a legal cox word with a destination below g8, a cox word (assumption 6). -/
def tableCode (w : Word) : Code :=
  let i := fieldOf w 24 8
  if i < 0x14 then
    if i % 4 == 0 then
      match decodeCox w with
      | .ok _ => .cox w
      | .error _ => .fixed w
    else .fixed w
  else .cox w

/-- The instruction the decoder reads from an opcode-table word. -/
def decodeTableWord (_nbits w : Nat) : Option Instr :=
  match decode (tableCode (BitVec.ofNat 32 w)) with
  | .ok i => some i
  | .error _ => none

end Sys2Proof
end

