-- ==== Sys2Proof/Machine/Mem.lean ====
section
/-! DEFINITION. Memory: physical addresses, bytes at the home, caches, translation (12, 13). -/

namespace Sys2Proof.Machine

/-! ## Free values -/

/-- The `i`-th free bit and number of the running step (assumption 4). -/
def freeBit (s : State) (i : Nat) : Bool := (Config.freeValue s.tick i).getLsbD 0
def freeNat (s : State) (i : Nat) : Nat := (Config.freeValue s.tick i).toNat

/-! ## The physical map (R298, R299) -/

def gib : Nat := 2 ^ 30

/-- Bytes of a stack's interleaved part (R299). -/
def interL (s : State) : Nat := (64 - s.slGiB - s.mcGiB) * gib

/-- What a physical address names. -/
inductive PhysKind where
  | inter | stackLocal (stack off : Nat) | peer (p off : Nat) | pool | nothing
  deriving DecidableEq, Repr

/-- The package's own peer range names its interleaved HBM (R298). -/
def physNorm (s : State) (a : Nat) : Nat :=
  if a / 2 ^ 48 = 1 ∧ a / 2 ^ 40 % 256 = s.pkg then a % 2 ^ 40 else a

def physKind (s : State) (a0 : Nat) : PhysKind :=
  let a := physNorm s a0
  if a < 2 ^ 40 then (if a < 16 * interL s then .inter else .nothing)
  else if a < 2 ^ 41 then
    (let o := a % 2 ^ 36
     if interL s ≤ o ∧ o < interL s + s.slGiB * gib then .stackLocal (a / 2 ^ 36 % 16) o else .nothing)
  else if a / 2 ^ 48 = 1 then .peer (a / 2 ^ 40 % 256) (a % 2 ^ 40)
  else if 8 ≤ a / 2 ^ 48 ∧ a / 2 ^ 48 < 16 then .pool
  else .nothing

/-- The home stack of a local or pool address (R304). -/
def homeStack (a : Nat) : Nat :=
  if 2 ^ 40 ≤ a ∧ a < 2 ^ 41 then a / 2 ^ 36 % 16
  else (List.range 10).foldl (fun x i => x ^^^ (a / 2 ^ (4 * i + 12) % 16)) 0

def homeSlice (a : Nat) : Nat := (a / 2 ^ 7 % 8) ^^^ (a / 2 ^ 20 % 8)

/-- Whether a physical address is another package's. -/
def isPeer (s : State) (a : Nat) : Bool :=
  match physKind s a with
  | .peer _ _ => true
  | _ => false

/-- The extent that holds a pool address, if one is in `state` (R312). -/
def extentAt (s : State) (a : Nat) : Option (Nat × Extent) :=
  s.extents.find? (fun p => p.2.base ≤ a && a < p.2.base + p.2.size && p.2.state != .absent)

/-- Detail of cause 0x08C for a pool address, if it is not granted (R312). -/
def extentDetail (s : State) (a : Nat) : Option Nat :=
  match physKind s a with
  | .pool => match extentAt s a with
    | some (_, e) => match e.state with
      | .granted => none
      | .releasing => some 1
      | .revoked => some 2
      | .absent => some 0
    | none => some 0
  | _ => none

/-- The detail of the first of `n` bytes from an address that lies in no granted extent, where it is of pool memory. -/
def extentRange (s : State) (a n : Nat) : Option Nat :=
  match physKind s a with
  | .pool => (List.range n).findSome? (fun j => extentDetail s (a + j))
  | _ => none

/-! ## Bytes at the home -/

/-- The byte at a physical address, as its home holds it. -/
def homeByte (s : State) (a : Nat) : Byte := s.mem.look 0 (physNorm s a)

/-- `n` bytes from `a`, little-endian. -/
def homeRead (s : State) (a : Nat) : Nat → Nat
  | 0 => 0
  | n + 1 => (homeByte s a).toNat + 256 * homeRead s (a + 1) n

/-- Whether an address has its home in a stack that is lost (01 R23). -/
def isLost (s : State) (a : Nat) : Bool :=
  !s.sys.stacksLost.isEmpty && (match physKind s a with
    | .peer _ _ | .nothing => false
    | _ => s.sys.stacksLost.contains (homeStack (physNorm s a)))

/-- Whether the sector of a physical address holds an uncorrected error, as every one of a lost stack reads. -/
def isPoison (s : State) (a : Nat) : Bool := s.poison.look false (physNorm s a / 32) || isLost s a

/-- Code of a grade (R306). -/
def gradeCode : Grade → Nat
  | .x => 0
  | .s => 1
  | .p => 2

/-- The metadata image of the 64-byte line of a physical address (13 R307). -/
def mdImage (s : State) (a : Nat) : DWord := s.md.look 0 (physNorm s a / 64)
def mdPut (s : State) (a : Nat) (v : DWord) : State := { s with md := s.md.put 0 (physNorm s a / 64) v }

/-- The 128 bytes of a line at its home, and with them the metadata images of its two memory lines. -/
def homeLine (s : State) (l : Nat) : BitVec 1024 := BitVec.ofNat 1024 (homeRead s (l * 128) 128)
def lineNow (s : State) (l : Nat) : BitVec 1152 :=
  BitVec.ofNat 1152 (homeRead s (l * 128) 128 + (mdImage s (l * 128)).toNat * 2 ^ 1024 + (mdImage s (l * 128 + 64)).toNat * 2 ^ 1088)

/-- The pool line's backing data is kept when its home line first becomes dirty (12 R276, R293). -/
def markDirty (s : State) (a : Nat) : State :=
  match physKind s a with
  | .pool =>
    let l := a / 128
    match s.dirty.look none l with
    | some _ => s
    | none => { s with dirty := s.dirty.put none l (some (lineNow s l)) }
  | _ => s

/-- Write one byte at its home: it comes last in the byte's coherence order, with what the store in hand carries (14 R324). Another
package's memory is not part of this state (assumption 11). -/
def homePut (s : State) (a : Nat) (v : Byte) : State :=
  if isPeer s a || isLost s a then s else
  let s := markDirty s a
  let n := physNorm s a
  let before := match s.hist.look [] n with
    | [] => [{ at_ := 0, val := s.mem.look 0 n }]
    | l => l
  { s with mem := s.mem.put 0 n v
           hist := s.hist.put [] n ({ at_ := s.clock, val := v, rels := s.hand.rels, atom := s.hand.atom } :: before) }

/-- One more store is applied: its bytes take effect together. -/
def State.tickStore (s : State) : State := { s with clock := s.clock + 1 }

/-- Write bytes at their homes, in order. -/
def homePuts (s : State) : List (Nat × Byte) → State
  | [] => s
  | (a, v) :: r => homePuts (homePut s a v) r

/-- The bytes of an `n`-byte value from `a`, lowest first (00 R1). -/
def bytesOf (a n x : Nat) : List (Nat × Byte) := (List.range n).map (fun i => (a + i, BitVec.ofNat 8 (x / 256 ^ i)))

def homeWrite (s : State) (a n x : Nat) : State := homePuts s (bytesOf a n x)

/-! ## Who watches and who holds copies -/

/-- Whether 15 other waves of a wave's quadrant poll. -/
def pollersFull (s : State) (k : Nat) : Bool :=
  15 ≤ (s.waves.filter (fun p => p.1 / 16 == k / 16 && p.1 != k && (match p.2 with
    | some w => w.hold == .waitm
    | none => false))).length

/-- The wave of a slot as a write to some lines leaves it. -/
def readmitWave (lines : List Nat) (s : State) (k : Nat) : Option Wave → State
  | some w => if w.hold == .parked && w.watch.any (fun l => lines.contains l)
      then { s with waves := s.waves.put none k (some (if pollersFull s k then { w with watch := [] } else { w with hold := .waitm, polls := 0 })) }
      else s
  | none => s

/-- A write to watched lines readmits the waves parked on them with their count at 0 (15 R350). One that finds 15 others polling is
parked again, without a watch (assumption 88). -/
def readmit (s : State) (lines : List Nat) : State :=
  let one := fun (s : State) (p : Nat × Option Wave) => readmitWave lines s p.1 p.2
  s.waves.foldl one s

/-- Keys of scratchpad bytes and of the bytes of a line's metadata image, beside the physical bytes, in the coherence orders of
`State.hist` (14 R315). -/
def spadKey (blk off : Nat) : Nat := 2 ^ 60 + blk * 2 ^ 20 + off
def mdKey (line j : Nat) : Nat := 2 ^ 61 + 8 * line + j

/-- Whether a key is of a scratchpad byte, which is only ever read as it is now. -/
def isSpadKey (a : Nat) : Bool := decide (2 ^ 60 ≤ a) && decide (a < 2 ^ 61)

/-- Nothing stands for the scratchpad bytes of a block any more: it has ended, or its scratchpad is put back. -/
def dropSpadKeys (s : State) (b : Nat) : State := { s with hist := s.hist.filter (fun p => p.1 / 2 ^ 20 != 2 ^ 40 + b) }

/-- Watch number of a scratchpad byte. -/
def spadLine (blk off : Nat) : Nat := 2 ^ 60 + blk * 2 ^ 20 + off / 128

/-- Touching a line of a pinned window sets its IDLE to 0 (13 R311). -/
def touchWindows (s : State) (a : Nat) : State :=
  match physKind s a with
  | .pool => { s with mscw := s.mscw.map (fun p =>
      let b := p.2.base.toNat
      if p.2.en && b ≤ a && a < b + p.2.size * 2 ^ 21 then (p.1, { p.2 with idle := 0 }) else p) }
  | _ => s

/-- The record of the grade a line was written under, and the sectors a whole write clears (12 R294, 13 R306). A line written only in
part keeps an earlier grade it was written under: its check bits are then those of neither, code 4. -/
def noteWrite (s : State) (bytes : List (Nat × Byte)) (g : Grade) : State :=
  let as := (bytes.map (fun p => physNorm s p.1)).eraseDups
  let sectors := (as.map (· / 32)).eraseDups
  let clean := sectors.filter (fun c => (as.filter (fun a => a / 32 == c)).length == 32)
  let lines := (as.map (· / 64)).eraseDups
  let code := fun l =>
    let old := s.grades.look 0 l
    if old = 0 || old = gradeCode g + 1 || (as.filter (fun a => a / 64 == l)).length == 64 then gradeCode g + 1 else 4
  { s with
    poison := clean.foldl (fun t c => t.put false c false) s.poison
    grades := lines.foldl (fun t l => t.put 0 l (code l)) s.grades }

/-- Lines of 128 bytes that a list of bytes touches. -/
def linesOf (s : State) (as : List Nat) : List Nat := (as.map (fun a => physNorm s a / 128)).eraseDups

/-! ## The memory-side cache (R310) -/

/-- The filter bits a line sets. -/
def bloomBits (l : Nat) : List Nat := (List.range 3).map (fun j => crc32c (numBytes 8 (4 * l + j)) % 65536)

/-- Whether a slice's filter holds a line, true or false positive. -/
def bloomHolds (s : State) (l : Nat) : Bool :=
  let mine := s.bloom.filter (fun x => homeStack (x * 128) == homeStack (l * 128) && homeSlice (x * 128) == homeSlice (l * 128))
  (bloomBits l).all (fun b => mine.any (fun x => (bloomBits x).contains b))

/-- Whether a line lies in an enabled pinned window. -/
def pinned (s : State) (l : Nat) : Bool :=
  s.mscw.any (fun p => p.2.en && p.2.base.toNat ≤ l * 128 && l * 128 < p.2.base.toNat + p.2.size * 2 ^ 21)

/-- Lines of the cache's part of a stack (R299). -/
def mscLines (s : State) : Nat := s.mcGiB * (gib / 128)

/-- The data of a line of the cache reaches the pool: the home line is then ahead of it only where it has been written since. -/
def mscToPool (s : State) (l : Nat) (d : BitVec 1152) : State :=
  { s with dirty := s.dirty.put none l (if lineNow s l = d then none else some d) }

/-- A line leaves the cache, written back to the pool where it is dirty. -/
def mscEvict (s : State) (l : Nat) : State :=
  match s.msc.look none l with
  | some (some d) => mscToPool { s with msc := s.msc.put none l none } l d
  | _ => { s with msc := s.msc.put none l none }

/-- Lines of a stack that the cache may evict: those in no pinned window. -/
def mscVictims (s : State) (t : Nat) : List Nat := (s.msc.map (·.1)).filter (fun l => homeStack (l * 128) == t && !pinned s l)

/-- Whether the cache's part of a line's home stack has no room for the line. -/
def mscFull (s : State) (l : Nat) : Bool :=
  (s.msc.look none l).isNone && decide (mscLines s ≤ (s.msc.filter (fun p => homeStack (p.1 * 128) == homeStack (l * 128))).length)

/-- The line that leaves to make room for another: a free choice. -/
def mscVictim (s : State) (l : Nat) : Option Nat :=
  let v := mscVictims s (homeStack (l * 128))
  v[freeNat s (4100000 + l) % max 1 v.length]?

/-- The cache with room for a line. -/
def mscRoom (s : State) (l : Nat) : State :=
  match mscFull s l, mscVictim s l with
  | true, some x => mscEvict s x
  | _, _ => s

/-- A line enters the cache in its home stack. -/
def mscPut (s : State) (l : Nat) (d : Option (BitVec 1152)) : State :=
  { mscRoom s l with msc := (mscRoom s l).msc.put none l (some d) }

/-- A home-slice miss of a pool line. A cache of no capacity allocates nothing. -/
def mscMiss (s : State) (l : Nat) : State :=
  if (s.msc.look none l).isSome then s
  else if s.mcGiB = 0 then { s with bloom := if s.bloom.contains l then s.bloom else s.bloom ++ [l] }
  else if pinned s l || bloomHolds s l then mscPut s l none
  else { s with bloom := s.bloom ++ [l] }

/-- A dirty pool line written back from its home slice always allocates in the memory-side cache; without one it reaches the pool. -/
def writeBack (s : State) (l : Nat) : State :=
  if (s.dirty.look none l).isNone then s
  else if s.mcGiB = 0 then { s with dirty := s.dirty.put none l none }
  else mscPut s l (some (lineNow s l))

/-- A dirty pool line written to its pool device through the memory-side cache, which keeps it clean (12 R293). -/
def writeThrough (s : State) (l : Nat) : State :=
  if (s.dirty.look none l).isNone then s
  else
    let s := if s.mcGiB = 0 then s else mscPut s l none
    { s with dirty := s.dirty.put none l none }

/-! ## Home slices (12 R276, 01 R9) -/

/-- Lines of 128 bytes that a home slice of 4 MiB holds. -/
def sliceLines : Nat := 32768

/-- The pool lines a line's home slice holds. -/
def sliceMates (s : State) (l : Nat) : List Nat :=
  s.slice.filter (fun x => homeStack (x * 128) == homeStack (l * 128) && homeSlice (x * 128) == homeSlice (l * 128))

/-- A line leaves its home slice, written back where it is dirty. -/
def sliceEvict (s : State) (l : Nat) : State := writeBack { s with slice := s.slice.filter (fun x => x != l) } l

/-- The home slice of a line with room for it: a full one loses a line, which one a free choice. -/
def sliceRoom (s : State) (l : Nat) : State :=
  let v := sliceMates s l
  if v.length < sliceLines then s
  else match v[freeNat s (4200000 + l) % max 1 v.length]? with
    | some x => sliceEvict s x
    | none => s

/-- A pool line is held by its home slice: one it held before it may have lost since to lines of any memory, a free choice, and one it
has not misses there (R310). -/
def sliceTake (s : State) (l : Nat) : State :=
  if s.slice.contains l && freeBit s (4000000 + l) then s
  else
    let s := sliceRoom (if s.slice.contains l then sliceEvict s l else s) l
    mscMiss { s with slice := s.slice ++ [l] } l

/-- An access at the home slice of a line: of a pool line it touches its window (R310, R311). -/
def atHome (s : State) (l : Nat) : State :=
  match physKind s (l * 128) with
  | .pool => touchWindows (sliceTake s l) (l * 128)
  | _ => s

/-- Every dirty line is written back. -/
def flushDirty (s : State) : State := (s.dirty.map (·.1)).foldl writeBack s

/-! ## Stores at the home -/

/-- What a store leaves beside its data: errors and grades, memory-side cache and windows, watches. -/
def noteStore (s : State) (bytes : List (Nat × Byte)) (g : Grade) : State :=
  let s := noteWrite s bytes g
  let s := (linesOf s (bytes.map (·.1))).foldl atHome s
  readmit s (linesOf s (bytes.map (·.1)))

/-- The host gives up the lines of a store before it: the snoop and its answer lie within the store's own step (20 R448). -/
def recallHost (s : State) (as : List Nat) : State :=
  { s with hostLines := s.hostLines.filter (fun l => !(linesOf s as).contains l), snoops := s.snoops.filter (fun l => !(linesOf s as).contains l) }

/-- A store applied at its homes with its byte mask (12 R276, R294): data, grade, error state, watches. -/
def applyStore (s : State) (bytes : List (Nat × Byte)) (g : Grade) : State := noteStore (homePuts s.tickStore bytes) bytes g

/-- A byte as a read at the home finds it; another package's is free. -/
def seenByte (s : State) (a i : Nat) : Byte :=
  if isPeer s a then BitVec.ofNat 8 (freeNat s (1000000 + 2 * i)) else homeByte s a

/-- `n` bytes from `a` as their home holds them; another package's are free. -/
def anyRead (s : State) (a n : Nat) : Nat :=
  if isPeer s a then (List.range n).foldl (fun x i => x + freeNat s (2 ^ 70 + a + i) % 256 * 256 ^ i) 0 else homeRead s a n

/-- The byte a read under grade `g` takes from the home, and whether it reports an uncorrected error. A line written
under another grade reports one or returns whatever its check accepts (13 R306). -/
def gradedByte (s : State) (a : Nat) (g : Grade) (i : Nat) : Byte × Bool :=
  let w := s.grades.look 0 (physNorm s a / 64)
  -- another package's byte is free, and its package may refuse the read (R298)
  if isPeer s a then (BitVec.ofNat 8 (freeNat s (1000000 + 2 * i)), freeBit s (1000001 + 2 * i))
  -- an access translated before a forced release reads poison (R313)
  else if extentDetail s a == some 2 then (BitVec.ofNat 8 (freeNat s (1000000 + 2 * i)), true)
  else if w = 0 ∨ w = gradeCode g + 1 then (homeByte s a, isPoison s a)
  else (BitVec.ofNat 8 (freeNat s (1000000 + 2 * i)), isPoison s a || freeBit s (1000001 + 2 * i))

/-! ## Cached copies (12 R276, R278) -/

/-- A store of `size` entries before one more enters: a full one loses an entry, which one a free choice. -/
def makeRoom {α : Type} (s : State) (i size : Nat) (t : List α) : List α :=
  if t.length < size then t else t.eraseIdx (freeNat s i % max 1 t.length)

/-- Lines of 128 bytes in an instruction cache, a die cache and a way of the L1 (01 R16, 05 R114). -/
def icacheLines : Nat := 2048
def dieLines : Nat := 786432
def wayLines : Nat := 512

/-- Put a line in a cache of `size` lines. -/
def putLine {α : Type} [DecidableEq α] (s : State) (i size : Nat) (t : Tab (Option α)) (l : Nat) (x : α) : Tab (Option α) :=
  if (t.look none l).isSome then t.put none l (some x) else Tab.put none (makeRoom s i size t) l (some x)

/-- L1 ways a block's scratchpad takes: its own, its shadow's (18 R422), and its extension, as a running `spcfg` will have it. -/
def blockWays (b : Block) : Nat :=
  (b.spadSize + 65535) / 65536 + (if b.shadowed then (b.spadSize + 65535) / 65536 + 1 else 0) + max b.ext (b.waysPend.elim 0 (·.1))

/-- Scratchpad ways of a core. -/
def coreWays (s : State) (c : Nat) : Nat :=
  s.blocks.foldl (fun n p => match p.2 with
    | some b => if p.1 / 64 = c then n + blockWays b else n
    | none => n) 0

/-- Lines that the ways of a core's L1 outside its scratchpad hold (01 R16, 12 R280). -/
def l1Lines (s : State) (c : Nat) : Nat := (16 - coreWays s c) * wayLines

def State.core (s : State) (c : Nat) : Core := s.cores.look {} c
def State.setCore (s : State) (c : Nat) (x : Core) : State := { s with cores := s.cores.put {} c x }
def State.die (s : State) (d : Nat) : Die := s.dies.look {} d
def State.setDie (s : State) (d : Nat) (x : Die) : State := { s with dies := s.dies.put {} d x }

/-- The core whose L1 ways hold a line: the accessor's own, or the slice of a fused cluster (R279). -/
def l1Of (s : State) (c ctx a : Nat) : Nat :=
  match s.blocks.find? (fun p => p.1 / 64 == c && (match p.2 with | some b => b.ctx == ctx | none => false)) with
  | some (_, some b) =>
    (match s.launches.look none b.launch with
      | some l =>
        if !l.fuse then c
        else
          let r := (a / 2 ^ 7 % 8 ^^^ a / 2 ^ 10 % 8 ^^^ a / 2 ^ 13 % 8) % max 1 l.clusterSize
          (match b.mates.look 0 r with
            | 0 => c
            | m + 1 => m)
      | none => c)
  | _ => c

/-! ## What an agent may still read (14 R324 to R326) -/

/-- Sights are kept by agent: waves, coxes, scarabs. -/
def agWave (k : Nat) : Nat := 3 * k
def agCox (c : Nat) : Nat := 3 * c + 1
def agScarab (k : Nat) : Nat := 3 * k + 2

def sightOf (s : State) (ag : Nat) : Sight := s.sights.look {} ag
def modSight (s : State) (ag : Nat) (f : Sight → Sight) : State := { s with sights := s.sights.put {} ag (f (sightOf s ag)) }

/-- The lowest stamp as of which an agent may read a byte. -/
def Sight.low (v : Sight) (a : Nat) : Nat := max v.floor (v.seen.look 0 a)

/-- What two agents have seen together. -/
def Sight.join (v u : Sight) : Sight :=
  { floor := max v.floor u.floor, seen := u.seen.foldl (fun t p => t.put 0 p.1 (max (t.look 0 p.1) p.2)) v.seen
    got := (v.got ++ u.got).eraseDups, marks := (v.marks ++ u.marks).eraseDups, joined := max v.joined u.joined
    wrote := (v.wrote ++ u.wrote).eraseDups }

/-- The write of a byte that a read as of a stamp finds; none where no write of the byte is known. -/
def writeAsOf (s : State) (a t : Nat) : Option Write := (s.hist.look [] a).find? (fun w => decide (w.at_ ≤ t))

/-- A byte as of a stamp. -/
def byteAsOf (s : State) (a t : Nat) : Byte := ((writeAsOf s a t).map (·.val)).getD (s.mem.look 0 a)

/-- The stamp that a value found in a copy of stamp `t` stands for: that of the newest write that gave it. -/
def stampOf (s : State) (a : Nat) (v : Byte) (t : Nat) : Nat := max t (((s.hist.look [] a).find? (fun w => w.val == v)).elim 0 (·.at_))

/-- The 32 bytes of sector `q` as of a stamp. -/
def sectorAsOf (s : State) (q t : Nat) : BitVec 256 :=
  if t = s.clock then BitVec.ofNat 256 (homeRead s (q * 32) 32)
  else BitVec.ofNat 256 ((List.range 32).foldr (fun i x => (byteAsOf s (q * 32 + i) t).toNat + 256 * x) 0)

/-- An agent has read bytes, each as of a stamp: it reads none of them as of an earlier one, and its next acquire takes up the
releases they carry. -/
def noteRead (s : State) (ag : Nat) (got : List (Nat × Nat)) : State :=
  modSight s ag (fun v => { v with
    seen := (got.filter (fun p => !isSpadKey p.1)).foldl (fun t p => t.put 0 p.1 (max (t.look 0 p.1) p.2)) v.seen
    got := (v.got ++ got.flatMap (fun p => ((writeAsOf s p.1 p.2).map (·.rels)).getD [])).eraseDups })

/-! ## Copies by sector (R276) -/

def Copy.has (x : Copy) (q : Nat) : Bool := x.secs.look 0 (q % 4) != 0
def Copy.stamp (x : Copy) (q : Nat) : Nat := x.secs.look 0 (q % 4) - 1
def Copy.byte (x : Copy) (a : Nat) : Byte := BitVec.ofNat 8 (x.data.toNat / 256 ^ (a % 128))
def Copy.sector (x : Copy) (q : Nat) : BitVec 256 := BitVec.ofNat 256 (x.data.toNat / 2 ^ (256 * (q % 4)))

/-- A copy with sector `q` filled, as of a stamp. -/
def Copy.fill (x : Copy) (q : Nat) (v : BitVec 256) (t : Nat) : Copy :=
  { data := BitVec.ofNat 1024 (insertBits x.data.toNat (256 * (q % 4)) 256 v.toNat), secs := x.secs.put 0 (q % 4) (t + 1) }

/-- Whether a copy holds all of a line, as of one stamp. -/
def Copy.oneStamp (x : Copy) (l : Nat) : Bool := (List.range 4).all (fun j => x.has (4 * l + j) && x.stamp (4 * l + j) == x.stamp (4 * l))

/-- Put a sector in a cache of `size` lines. -/
def fillSector (s : State) (i size : Nat) (t : Tab (Option Copy)) (q : Nat) (v : BitVec 256) (st : Nat) : Tab (Option Copy) :=
  putLine s i size t (q / 4) (((t.look none (q / 4)).getD {}).fill q v st)

/-- The stamp as of which an agent may read a sector's bytes at the lowest, the tag of their line read with them (13 R307). -/
def Sight.lowAt (v : Sight) (q a : Nat) : Nat := max (v.low a) (v.low (mdKey (q / 2) 0))

/-- Whether an agent's read of some bytes of a sector may take them from a copy: it holds the sector and nothing older than what the
agent may still read. A copy that differs from the home may have been evicted at any time, a free choice. -/
def Copy.serves (x : Copy) (s : State) (v : Sight) (q : Nat) (as : List Nat) (i : Nat) : Bool :=
  x.has q && as.all (fun a => decide (v.lowAt q a ≤ stampOf s a (x.byte a) (x.stamp q))) &&
  (x.sector q == sectorAsOf s q s.clock || freeBit s i)

/-- Where a read of a sector finds it and what it then holds. -/
structure Found where
  data : BitVec 256
  stamp : Nat

/-- Sector `q` as the die cache of a core or its home gives it: from the home as of any stamp the agent may still read. The level
passed is filled where the miss still installs there; `hs` reads past it. -/
def belowL1 (s : State) (c ag q : Nat) (as : List Nat) (hs inst : Bool) (i : Nat) : State × Found :=
  let v := sightOf s ag
  let d := c / 32
  let low := as.foldl (fun m a => max m (v.lowAt q a)) v.floor
  let home := fun (s : State) =>
    let t := low + freeNat s (2000002 + 3 * i) % (s.clock - low + 1)
    (atHome s (q / 4), ({ data := sectorAsOf s q t, stamp := t } : Found))
  let fill := fun (r : State × Found) =>
    if !inst then r else (r.1.setDie d { r.1.die d with cache := fillSector r.1 (7100000 + i) dieLines (r.1.die d).cache q r.2.data r.2.stamp }, r.2)
  if hs then home s else
  match (s.die d).cache.look none (q / 4) with
  | some y =>
    if y.serves s v q as (2000001 + 3 * i) then (s, { data := y.sector q, stamp := y.stamp q })
    else fill (home (if y.has q then s.setDie d { s.die d with cache := (s.die d).cache.put none (q / 4) none } else s))
  | none => fill (home s)

/-- Sector `q` as a load of core `c` finds it (R276, R278, R283): in the copy it hit when it issued, in the L1, in the die cache, at
the home, filling the levels passed, L1 and die cache, where the miss still installs; `hs` reads past both caches. -/
def sectorFor (s : State) (c ctx ag q : Nat) (as : List Nat) (hs : Bool) (inst : Bool × Bool) (hit : Option Copy) (i : Nat) : State × Found :=
  if hs then belowL1 s c ag q as hs false i else
  match hit with
  | some x => (s, { data := x.sector q, stamp := x.stamp q })
  | none =>
  let k := l1Of s c ctx (q * 32)
  let fill := fun (r : State × Found) =>
    if !inst.1 then r
    else (r.1.setCore k { r.1.core k with l1 := fillSector r.1 (7200000 + i) (l1Lines r.1 k) (r.1.core k).l1 q r.2.data r.2.stamp }, r.2)
  match (s.core k).l1.look none (q / 4) with
  | some x =>
    if x.serves s (sightOf s ag) q as (2000000 + 3 * i) then (s, { data := x.sector q, stamp := x.stamp q })
    else fill (belowL1 (if x.has q then s.setCore k { s.core k with l1 := (s.core k).l1.put none (q / 4) none } else s) c ag q as hs inst.2 i)
  | none => fill (belowL1 s c ag q as hs inst.2 i)

/-- A store updates the copies its own core and die hold (R276). -/
def updateCopies (s : State) (c ctx : Nat) (bytes : List (Nat × Byte)) : State :=
  bytes.foldl (fun s p =>
    let a := physNorm s p.1
    let l := a / 128
    let upd := fun (x : Copy) => { x with data := BitVec.ofNat 1024 (insertBits x.data.toNat (8 * (a % 128)) 8 p.2.toNat) }
    let k := l1Of s c ctx a
    let core := s.core k
    let s := match core.l1.look none l with
      | some x => s.setCore k { core with l1 := core.l1.put none l (some (upd x)) }
      | none => s
    let die := s.die (c / 32)
    match die.cache.look none l with
    | some x => s.setDie (c / 32) { die with cache := die.cache.put none l (some (upd x)) }
    | none => s) s

/-- Outstanding fills of the lines a test names complete to their requesters and do not install (R278). -/
def blockFills (s : State) (c : Nat) (p : Nat → Bool) : State :=
  s.setCore c { s.core c with fills := (s.core c).fills.map (fun f => if p f.line then { f with inst := false } else f) }

/-- A core and the others whose L1 ways form one with its own (R279). -/
def l1Mates (s : State) (c ctx : Nat) : List Nat := (c :: (List.range 8).map (fun r => l1Of s c ctx (r * 128))).eraseDups

/-- Drop every copy of a core's L1 ways, or of every slice of its fused L1 (14 R318). -/
def dropL1 (s : State) (c ctx : Nat) : State :=
  (l1Mates s c ctx).foldl (fun s k => blockFills (s.setCore k { s.core k with l1 := [] }) k (fun _ => true)) s

/-- The same for the die cache: of every core of the die. -/
def blockDieFills (s : State) (d : Nat) (p : Nat → Bool) : State :=
  { s with cores := s.cores.map (fun q => if q.1 / 32 = d then (q.1, { q.2 with
    fills := q.2.fills.map (fun f => if p f.line then { f with die := false } else f) }) else q) }

def dropDie (s : State) (d : Nat) : State := blockDieFills (s.setDie d { s.die d with cache := [] }) d (fun _ => true)

/-- Ways of a core's L1 turn into scratchpad: which lines and which fills were bound for them is a free choice, down to what is left
(R278, R280). -/
def convertWays (s : State) (c : Nat) : State :=
  let core := s.core c
  let kept := ((List.range core.l1.length).zip core.l1).filter (fun p => freeBit s (2400000 + p.1)) |>.map (·.2)
  let s := s.setCore c { core with l1 := kept.take (l1Lines s c) }
  blockFills s c (fun l => freeBit s (2500000 + l))

/-! ## Releases and acquires (14 R316 to R321) -/

/-- Whether scope `n` of thread `t` includes thread `u` (R316, R317). -/
def Who.includes (n : Nat) (t u : Who) : Bool :=
  let onCore := fun (x : Who) => x.kind == .wave || x.kind == .engine
  match n with
  | 0 => t.kind == .wave && u.kind == .wave && t.id == u.id
  | 1 => onCore t && onCore u && t.launch == u.launch && t.index == u.index
  | 2 => onCore t && onCore u && t.launch == u.launch && t.cluster == u.cluster
  | 3 => (onCore t || t.kind == .cox) && (onCore u || u.kind == .cox) && t.die == u.die
  | 4 => (onCore t || t.kind == .cox) && (onCore u || u.kind == .cox)
  | 5 => t.kind != .scarab && t.kind != .host && u.kind != .scarab && u.kind != .host
  | _ => true

/-- Whether two threads at their scopes include each other (R317, R327). -/
def synced (t : Who) (n : Nat) (u : Who) (m : Nat) : Bool := Who.includes n t u && Who.includes m u t

/-- The thread of an agent. -/
def whoOf (s : State) (ag : Nat) : Who :=
  let n := ag / 3
  match ag % 3 with
  | 0 =>
    let b := match (s.waves.look none n).bind (fun w => s.blocks.look none w.block) with
      | some b => (b.launch, b.index, b.cluster)
      | none => (0, 0, 0)
    { kind := .wave, id := n, launch := b.1, index := b.2.1, cluster := b.2.2, die := n / 2048 }
  | 1 => { kind := .cox, id := n, die := n / 32 }
  | _ => { kind := .scarab, id := n }

/-- An acquire of an agent at a scope takes up the releases its loads have read that synchronise with it (R321). -/
def syncSight (s : State) (ag scope : Nat) : State :=
  let me := whoOf s ag
  modSight s ag (fun v =>
    let (hit, rest) := v.got.partition (fun r => synced r.who r.scope me scope)
    { v with floor := hit.foldl (fun m r => max m r.at_) v.floor, got := rest })

/-- An agent joins with everything applied up to a stamp: that of a barrier's phase, or now at a spawn and an event popped (R320, R328). -/
def joinTo (s : State) (ag t : Nat) : State := modSight s ag (fun v => { v with floor := max v.floor t })
def joinAll (s : State) (ag : Nat) : State := joinTo s ag s.clock

/-- A thread that starts, or is brought back: it has seen everything applied so far. -/
def freshSight (s : State) (ag : Nat) : State := { s with sights := s.sights.put {} ag { floor := s.clock } }

/-- An agent joins with its engine operations that have completed (R328). -/
def joinEngines (s : State) (ag : Nat) : State := joinTo s ag (sightOf s ag).joined

/-- An acquire at a scope code by an agent of core `c` (R318): it synchronises; cl and di drop the L1, dv and wider the die cache too. -/
def acquireAt (s : State) (ag c ctx scope : Nat) : State :=
  let s := syncSight s ag scope
  if scope < 2 then s else
  let s := dropL1 s c ctx
  if scope < 4 then s else dropDie s (c / 32)

/-- The lines an agent has written are written back from their home slices, as a release at sy does (R318). -/
def flushWrote (s : State) (ag : Nat) : State := modSight ((sightOf s ag).wrote.foldl writeBack s) ag (fun v => { v with wrote := [] })

/-- The mark of a release by a thread now. -/
def relNow (s : State) (w : Who) (scope : Nat) : Rel := { who := w, scope := scope, at_ := s.clock }

/-! ## Translation (13 R300 to R303, R309) -/

/-- A leaf as a translation uses it. -/
structure Xlat where
  pa : Nat            -- of the byte translated
  pte : DWord
  size : Nat          -- page size in bytes
  deriving DecidableEq, Repr

def Xlat.r (x : Xlat) : Bool := bitOf x.pte 2
def Xlat.w (x : Xlat) : Bool := bitOf x.pte 3
def Xlat.x (x : Xlat) : Bool := bitOf x.pte 4
def Xlat.spill (x : Xlat) : Bool := bitOf x.pte 7
def Xlat.tw (x : Xlat) : Bool := bitOf x.pte 8
def Xlat.rd (x : Xlat) : Bool := bitOf x.pte 9
def Xlat.rcnt (x : Xlat) : Nat := fieldOf x.pte 10 2
def Xlat.grade (x : Xlat) : Grade :=
  match fieldOf x.pte 5 2 with
  | 0 => .x
  | 1 => .s
  | _ => .p

/-- Stacks of the further replicas (R301). -/
def replicaStacks (e : DWord) : List Nat := (List.range (fieldOf e 10 2)).map (fun i => fieldOf e (52 + 4 * i) 4)

/-- The same stack-local byte in another stack (R309). -/
def inStack (pa t : Nat) : Nat := 2 ^ 40 + t * 2 ^ 36 + pa % 2 ^ 36

/-- The further replicas a store through this mapping reaches: none through a replica-direct alias (R291). -/
def Xlat.others (x : Xlat) : List Nat := if x.rd then [] else (replicaStacks x.pte).map (inStack x.pa)

/-- The stacks a compute die attaches to (01 R11). -/
def attached (d t : Nat) : Bool := (t + 16 - 2 * d % 16) % 16 < 4

/-- The replica a load of die `d` reads: an attached one before one a link beyond, ties to the lower stack (R291). -/
def Xlat.nearest (x : Xlat) (d : Nat) : Nat :=
  if x.rd || x.rcnt == 0 then x.pa
  else
    let all := x.pa / 2 ^ 36 % 16 :: replicaStacks x.pte
    let dist := fun t => if attached d t then 0 else 1
    inStack x.pa (all.foldl (fun b t => if dist t < dist b || (dist t == dist b && t < b) then t else b) (x.pa / 2 ^ 36 % 16))

/-- Table address rule of a next table or TROOT (R301): aligned, in the local interleaved or stack-local parts. -/
def tableOk (s : State) (a align : Nat) : Bool :=
  a % align == 0 && a < 2 ^ 41 && (match physKind s a with
    | .inter => true
    | .stackLocal _ _ => true
    | _ => false)

/-- Whether a leaf entry at a level with this page size is well formed (R301, R309). -/
def leafOk (s : State) (e : DWord) (size : Nat) : Bool :=
  let pa := fieldOf e 16 36 * 65536
  let rs := replicaStacks e
  fieldOf e 12 4 == 0 && fieldOf e 5 2 != 3 && pa % size == 0 &&
  (List.range 3).all (fun i => i < rs.length || fieldOf e (52 + 4 * i) 4 == 0) &&
  (match physKind s pa with
    | .nothing => false
    | .stackLocal st _ => rs.length == 0 || (fieldOf e 5 2 != 0 && rs.Nodup && !rs.contains st)
    | _ => rs.length == 0)

/-- Walk the levels below the root (R300): each a page size, entry count and table alignment. -/
def walkFrom (s : State) (va : Nat) : List (Nat × Nat) → Nat → Except Nat Xlat
  | [], _ => .error 0x08B
  | (shift, entries) :: rest, table =>
    let ea := table + va / 2 ^ shift % entries * 8
    if isPoison s ea then .error 0x08B else
    let e := BitVec.ofNat 64 (homeRead s ea 8)
    if !bitOf e 0 then .error 0x081
    else if bitOf e 1 then
      (if shift = 43 || !leafOk s e (2 ^ shift) then .error 0x08B
       else .ok { pa := fieldOf e 16 36 * 65536 + va % 2 ^ shift, pte := e, size := 2 ^ shift })
    else
      -- a table entry: bits other than V and [51:8] zero
      let next := fieldOf e 8 44 * 256
      match rest with
      | [] => .error 0x08B
      | (_, n') :: _ =>
        if fieldOf e 2 6 != 0 || fieldOf e 52 12 != 0 || !tableOk s next (n' * 8) then .error 0x08B
        else walkFrom s va rest next

def levels : List (Nat × Nat) := [(43, 8192), (30, 8192), (21, 512), (16, 32)]

/-- A walk of a context's tables (R300, R301): a leaf, or cause 0x081 or 0x08B. -/
def walk (s : State) (ctx va : Nat) : Except Nat Xlat :=
  match s.contexts.look none ctx with
  | none => .error 0x081
  | some c => if tableOk s c.troot.toNat 65536 then walkFrom s va levels c.troot.toNat else .error 0x08B

/-- A TLB's entry for an address. -/
def tlbFind (t : List TlbEntry) (ctx va : Nat) : Option TlbEntry :=
  t.find? (fun e => e.ctx == ctx && e.vpage ≤ va / 65536 && va / 65536 < e.vpage + e.pages)

def TlbEntry.xlat (e : TlbEntry) (va : Nat) : Xlat :=
  { pa := fieldOf e.pte 16 36 * 65536 + (va - e.vpage * 65536), pte := e.pte, size := e.pages * 65536 }

def tlbOf (ctx va : Nat) (x : Xlat) : TlbEntry :=
  { ctx := ctx, vpage := (va - va % x.size) / 65536, pages := x.size / 65536, pte := x.pte }

/-- Entries of an L1 TLB and of a die TLB (01 R16). -/
def l1TlbSize : Nat := 512
def dieTlbSize : Nat := 32768

/-- Install a translation in the L1 TLB of a core and, of a walk, its die TLB, where a full one loses an entry, which one a free choice
(R302, 01 R16). -/
def tlbInstall (s : State) (c ctx va : Nat) (x : Xlat) (walked : Bool) : State :=
  let e := tlbOf ctx va x
  let put := fun (t : List TlbEntry) (size : Nat) =>
    e :: makeRoom s 3900000 size (t.filter (fun f => !(f.ctx == ctx && f.vpage == e.vpage && f.pages == e.pages)))
  let s := s.setCore c { s.core c with tlb := put (s.core c).tlb l1TlbSize }
  if !walked then s else
  s.setDie (c / 32) { s.die (c / 32) with tlb := put (s.die (c / 32)).tlb dieTlbSize }

/-- Where a translation is found (R302). -/
inductive TlbLevel where
  | l1 | die | walk
  deriving DecidableEq, Repr

/-- The mapping that core `c` uses for an address of a context (R302), the L1 TLB before the die TLB before a walk, and where it is
found. An entry that differs from the tables may have been replaced at any time, a free choice (assumption 8). -/
def mapping (s : State) (c ctx va : Nat) (i : Nat) : Except Nat (Xlat × TlbLevel) :=
  let w := walk s ctx va
  let same := fun (x : Xlat) => match w with
    | .ok y => x == y
    | .error _ => false
  let pick := fun (t : List TlbEntry) (j : Nat) => match tlbFind t ctx va with
    | some e => if !same (e.xlat va) && freeBit s (3000000 + 2 * i + j) then some (e.xlat va) else none
    | none => none
  match pick (s.core c).tlb 0, pick (s.die (c / 32)).tlb 1 with
  | some x, _ => .ok (x, .l1)
  | none, some x => .ok (x, .die)
  | none, none =>
    let held := fun (t : List TlbEntry) => (tlbFind t ctx va).any (fun e => same (e.xlat va))
    w.map (fun x => (x, if held (s.core c).tlb then .l1 else if held (s.die (c / 32)).tlb then .die else .walk))

/-- A translation of `n` bytes of a page by core `c` for a context: its mapping, which enters the TLBs passed, and bytes of the pool
checked against the extents (R312). -/
def translate (s : State) (c ctx va : Nat) (i : Nat) (n : Nat := 1) : State × Except (Nat × Nat) Xlat :=
  match mapping s c ctx va i with
  | .error e => (s, .error (e, 0))
  | .ok (x, lv) =>
    match extentRange s x.pa n with
    | some d => (s, .error (0x08C, d))
    | none => (if lv = .l1 then s else tlbInstall s c ctx va x (lv == .walk), .ok x)

/-! ## Line metadata (13 R307) -/

/-- The fields of an image that a grade has; the others read as zero. -/
def mdView (g : Grade) (m : DWord) : DWord :=
  match g with
  | .x => 0
  | .s => m &&& 0x00FFFFFF
  | .p => m &&& 0xFFFFFFFF0000FFFF

/-- What a read under a grade makes of a line's image, and whether it reports an uncorrected error: free fields, and a free
report, of a line written under another grade (R306) and of another package's (R298). -/
def mdGraded (s : State) (a : Nat) (g : Grade) (m : DWord) (i : Nat) : DWord × Bool :=
  let w := s.grades.look 0 (physNorm s a / 64)
  if isPeer s a then (mdView g (Config.freeValue s.tick (1000000 + 2 * i)), freeBit s (1000001 + 2 * i))
  else if extentDetail s a == some 2 then (mdView g (Config.freeValue s.tick (1000000 + 2 * i)), true)
  else if w = 0 ∨ w = gradeCode g + 1 then (mdView g m, isPoison s a)
  else (mdView g (Config.freeValue s.tick (1000000 + 2 * i)), isPoison s a || freeBit s (1000001 + 2 * i))

/-- The metadata of a line as it now is. -/
def mdSeen (s : State) (a : Nat) (g : Grade) (i : Nat) : DWord × Bool := mdGraded s a g (mdImage s a) i

/-- RTAG of the line of a physical address as of a stamp, as a grade shows it. -/
def rtagAt (s : State) (a : Nat) (g : Grade) (t i : Nat) : Byte :=
  let m : DWord := match writeAsOf s (mdKey (physNorm s a / 64) 0) t with
    | some w => w.val.zeroExtend 64
    | none => mdImage s a
  BitVec.ofNat 8 (mdGraded s a g m i).1.toNat

end Sys2Proof.Machine
end

