-- ==== Sys2Proof/Machine/Ops.lean ====
section
/-! DEFINITION. The named operations over the state that the meanings share: agents and their registers, flags and outstanding
operations, error records, the reconvergence stack, taking a trap and returning from one, and the issue of a word. -/

namespace Sys2Proof.Machine

/-- What a step answers. -/
abbrev Res := Host.Outcome State Fault Refusal

/-! ## Agents -/

def waveAt (s : State) (k : Nat) : Option Wave := s.waves.look none k
def setWave (s : State) (k : Nat) (w : Wave) : State := { s with waves := s.waves.put none k (some w) }
def blockAt (s : State) (b : Nat) : Option Block := s.blocks.look none b
def setBlock (s : State) (b : Nat) (x : Block) : State := { s with blocks := s.blocks.put none b (some x) }
def coxAt (s : State) (c : Nat) : Cox := s.coxes.look {} c
def setCox (s : State) (c : Nat) (x : Cox) : State := { s with coxes := s.coxes.put {} c x }
def scarabAt (s : State) (k : Nat) : Scarab := s.scarabs.look {} k
def setScarab (s : State) (k : Nat) (x : Scarab) : State := { s with scarabs := s.scarabs.put {} k x }
def launchAt (s : State) (l : Nat) : Option Launch := s.launches.look none l
def setLaunch (s : State) (l : Nat) (x : Launch) : State := { s with launches := s.launches.put none l (some x) }
def contextAt (s : State) (c : Nat) : Option Context := s.contexts.look none c

/-- Change a wave, if it lives. -/
def modWave (s : State) (k : Nat) (f : Wave → Wave) : State :=
  match waveAt s k with
  | some w => setWave s k (f w)
  | none => s

def modBlock (s : State) (b : Nat) (f : Block → Block) : State :=
  match blockAt s b with
  | some x => setBlock s b (f x)
  | none => s

def modLaunch (s : State) (l : Nat) (f : Launch → Launch) : State :=
  match launchAt s l with
  | some x => setLaunch s l (f x)
  | none => s

/-- Core and compute die of a wave key. -/
def coreOf (k : Nat) : Nat := k / 64
def dieOf (k : Nat) : Nat := k / 2048

/-- Context of a wave: its block's. -/
def ctxOf (s : State) (w : Wave) : Nat := match blockAt s w.block with
  | some b => b.ctx
  | none => 0xFFFF

/-- The live waves of a block, by key. -/
def wavesOf (s : State) (b : Nat) : List (Nat × Wave) :=
  s.waves.filterMap (fun p => match p.2 with
    | some w => if w.block == b then some (p.1, w) else none
    | none => none)

/-! ## Error records (20 R459, R460) -/

/-- Records a bank holds: core, die, stack and anchor banks. -/
def bankSize (b : Nat) : Nat := if b < 256 then 16 else if b < 264 then 32 else if b < 280 then 64 else 32

/-- The oldest record of a lower severity than `sev`. -/
def oldestLower (l : List ErrRec) (sev : Nat) : Option ErrRec :=
  (l.filter (fun r => r.sev < sev)).foldl (fun m r => match m with
    | none => some r
    | some x => if r.order < x.order then some r else some x) none

/-- The bank a corrected record stands in: its core's, else that of the die that took it. -/
def ErrRec.bank (r : ErrRec) : Nat :=
  if r.unit = 1 then r.unitIx else if r.die < 16 then 256 + r.die else if r.die < 32 then 280 else 264 + (r.die - 32)

/-- Cycles of a die's counter in a millisecond, and its count: 1.0 GHz on a stack base die, else 1.2 GHz (01 R24). -/
def dieMs (die : Nat) : Nat := if 32 ≤ die then 1000000 else 1200000
def dieCycles (s : State) (die : Nat) : Nat := if 32 ≤ die then s.time * 5 / 6 else s.time

/-- Place a record in a free slot of a bank, which one a free choice, and post it: SEV 2 and 3 always, corrected ones at most one per millisecond per bank. -/
def writeRecord (s : State) (bank : Nat) (r0 : ErrRec) : State :=
  let r := { r0 with at_ := dieCycles s r0.die % 2 ^ 56, order := s.nextId }
  let l := s.banks.look [] bank
  let s := { s with nextId := s.nextId + 1 }
  let s :=
    let open_ := (List.range (bankSize bank)).filter (fun i => l.all (fun y => y.slot != i))
    if l.length < bankSize bank then
      { s with banks := s.banks.put [] bank (l ++ [{ r with slot := (open_[freeNat s 18 % max 1 open_.length]?).getD 0 }]) }
    else match oldestLower l r.sev with
      | some x => { s with banks := s.banks.put [] bank (l.map (fun y => if y.order == x.order then { r with slot := x.slot } else y)) }
      | none => { s with banks := s.banks.put [] bank (l.map (fun y => { y with ovf := true })) }
  let recent := s.cper.any (fun y => y.sev == 1 && y.bank == bank && decide (r.at_ < y.at_ + dieMs r.die))
  -- its virtual function is that of its context, and an interrupt goes with it
  let vf := (s.contexts.look none r.ctx).bind (fun c => (s.launches.look none c.launch).map (fun x => x.queue / 128))
  if r.sev = 1 && recent then s
  else { s with cper := s.cper ++ [{ toErrRec := r, serial := Config.serial, vf := vf }], sys := { s.sys with msix := s.sys.msix + 1 } }

/-- A record of a unit, its code and syndrome free values by kind (assumption 9). -/
def mkRecord (s : State) (sev unit unitIx ctx kind die : Nat) (addr : Option Nat) : ErrRec :=
  { sev := sev, addr := addr, ovf := false, unit := unit, unitIx := unitIx, ctx := ctx, code := (Config.errCode kind).toNat
    synd := Config.syndrome s.tick, die := die, at_ := 0, order := 0 }

/-- An uncorrected, deferred or corrected record in a core's bank. -/
def coreRecord (s : State) (core sev ctx kind : Nat) (addr : Option Nat) : State :=
  writeRecord s core (mkRecord s sev 1 core ctx kind (core / 32) addr)

/-- A record in the anchor die's bank. -/
def anchorRecord (s : State) (sev kind : Nat) : State := writeRecord s 280 (mkRecord s sev 8 0 0xFFFF kind 16 none)

/-- A record in a stack's bank. -/
def stackRecord (s : State) (stack sev unit unitIx kind : Nat) (addr : Option Nat) : State :=
  writeRecord s (264 + stack) (mkRecord s sev unit unitIx 0xFFFF kind (32 + stack) addr)

/-- The island of a core (01 R15). -/
def islandOf (c : Nat) : Nat := c / 16

/-- Energy that an engine of a core uses, in units of 0.1 nJ, for the meter of its island (11 R267). -/
def chargeCore (s : State) (c n : Nat) : State := { s with charged := s.charged.put 0 (islandOf c) (s.charged.look 0 (islandOf c) + n) }

/-- Kinds of error for `Config.errCode`. -/
def errData : Nat := 1
def errDrift : Nat := 2
def errParity : Nat := 3
def errRollback : Nat := 4
def errTimeout : Nat := 5
def errStorm : Nat := 6
def errExtent : Nat := 7
def errQueue : Nat := 8
def errLost : Nat := 9
def errLink : Nat := 10
def errEngine : Nat := 11
def errRefused : Nat := 12
def errPower : Nat := 13
def errTag : Nat := 14

/-! ## In-band errors (20 R458) -/

/-- The launch's first in-band error stays. -/
def inBand (s : State) (l : Nat) (e : InBand) : State :=
  modLaunch s l (fun x => { x with status := if x.status = 2 then 2 else 1, err := some (x.err.getD e) })

/-- An error named by a core of a block's launch, with the cause and the provenance it carries (05 R113). -/
def blockError (s : State) (b cls : Nat) (addr : DWord) (cause : Nat := 0) (prov : DWord := 0) : State :=
  match blockAt s b with
  | some x => inBand s x.launch { cls := cls, unit := 1, unitIx := b / 64, addr := addr, cause := cause, tprov := prov, num := b % 64 }
  | none => s

/-! ## Barriers (15 R343 to R345) -/

/-- Key of the physical barrier that a block's name binds. -/
def barKey (b : Nat) (x : Block) (n : Nat) : Nat :=
  if n < 96 then b * 128 + n
  else if n < 120 then 2 ^ 40 + (x.launch * 2 ^ 97 + 2 * x.cluster) * 128 + n
  else 2 ^ 40 + (x.launch * 2 ^ 97 + 1) * 128 + n

/-- Complete a phase when every member has arrived or gone: flip the phase bit, clear the arrivals. Used at an arrival or an
exit; waves that wait see it at their next turn. -/
def settleBarrier (x : Barrier) : Barrier :=
  if !x.broken && x.members.length != 0 && x.members.all (fun m => x.arrived.contains m || x.gone.contains m)
  then { x with phase := !x.phase, arrived := [] } else x

/-- A member wave that has exited, or that its block never spawns, counts as arrived from now on. -/
def barrierGone (s : State) (ms : List Nat) : State :=
  { s with bars := s.bars.map (fun p => (p.1, p.2.map (fun x =>
      let hit := ms.filter (fun m => x.members.contains m && !x.gone.contains m)
      if hit.isEmpty then x else settleBarrier { x with gone := x.gone ++ hit }))) }

/-- Break the barriers of a killed, cancelled, rolled back or lost block whose members have not all arrived; its block
barriers only when `own`. -/
def breakBarriers (s : State) (b : Nat) (own : Bool) : State :=
  { s with bars := s.bars.map (fun p => (p.1, p.2.map (fun x =>
      let shared := 2 ^ 40 ≤ p.1
      if (own || shared) && x.members.any (fun m => m / 32 == b && !x.arrived.contains m && !x.gone.contains m)
      then { x with broken := true } else x))) }

/-! ## Ending blocks and waves -/

/-- All lanes of a wave have exited: its remaining operations complete, then it goes (06 R143). -/
def Wave.endAll (w : Wave) : Wave :=
  { w with exited := 0xFFFFFFFF, exec := 0, clause := none, hold := .no, yielded := false, comp := none, stack := [], spilled := 0 }

/-- Whether a wave has no lane left and carries no thread of a group (06 R133, R143). -/
def Wave.ended (w : Wave) : Bool := w.exited == 0xFFFFFFFF && w.comp.isNone

/-- Kill a block: every wave exits once its attached operations complete, and its barriers break (18 R425, 15 R345). -/
def killBlock (s : State) (b cls : Nat) (addr : DWord) (cause : Nat := 0) (prov : DWord := 0) : State :=
  let s := blockError s b cls addr cause prov
  let s := breakBarriers s b true
  let s := modBlock s b (fun x => { x with killed := true, meeting := [], groups := [] })
  (wavesOf s b).foldl (fun s p => setWave s p.1 p.2.endAll) s

/-! ## Flags and outstanding operations (02 R40, R41) -/

def flagPending (cnt opn : Tab Nat) (f : Nat) : Bool := cnt.look 0 f != 0 || opn.look 0 f != 0
def Wave.flagPending (w : Wave) (f : Nat) : Bool := Machine.flagPending w.flagCnt w.flagOpen f

/-- Attach an operation to its flag. -/
def attachFlag (t : Tab Nat) : Option Nat → Tab Nat
  | some f => t.put 0 f (t.look 0 f + 1)
  | none => t
def releaseFlag (t : Tab Nat) : Option Nat → Tab Nat
  | some f => t.put 0 f (t.look 0 f - 1)
  | none => t

def Wave.addPend (w : Wave) (p : Pend) : Wave :=
  { w with pend := w.pend ++ [p], nextId := w.nextId + 1, flagCnt := attachFlag w.flagCnt p.flag }

/-- An operation of a wave completes: it leaves, its flag counts down. -/
def Wave.endPend (w : Wave) (id : Nat) : Wave :=
  match w.pend.find? (fun p => p.id == id) with
  | some p => { w with pend := w.pend.filter (fun q => q.id != id), flagCnt := releaseFlag w.flagCnt p.flag }
  | none => w

/-- The flag a header's SETA or SETB names (02 R37, R40). -/
def hdrSetA (h : Word) : Nat := fieldOf h 19 4
def hdrSetB (h : Word) : Nat := fieldOf h 23 4
def hdrCount (h : Word) : Nat := fieldOf h 0 4
def hdrClass (h : Word) : Nat := fieldOf h 4 3
def hdrWait (h : Word) : List Nat := (List.range 12).filter (fun k => bitOf h (7 + k))

/-- The flag an attachment field chooses in a clause. -/
def attFlag (h : Word) (att : BitVec 2) : Option Nat :=
  if att = 1 then some (hdrSetA h) else if att = 2 then some (hdrSetB h) else none

/-- The flags a clause names. -/
def hdrFlags (h : Word) : List Nat := ([hdrSetA h, hdrSetB h].filter (fun f => f < 12)).eraseDups

def openFlags (t : Tab Nat) (h : Word) : Tab Nat := (hdrFlags h).foldl (fun t f => t.put 0 f (t.look 0 f + 1)) t
def closeFlags (t : Tab Nat) (h : Word) : Tab Nat := (hdrFlags h).foldl (fun t f => t.put 0 f (t.look 0 f - 1)) t

/-! ## Registers of a wave -/

/-- Lanes of a wave that have not exited; of a compacted wave, the lanes of its CPATH entry (06 R133). -/
def Wave.liveLanes (w : Wave) : Word :=
  match w.comp with
  | none => ~~~ w.exited
  | some c => w.stack.foldl (fun x e => match e with
    | .cpath _ _ i t m => if i = c.kidx && t == c.taken then m else x
    | _ => x) 0

/-- The physical slot of a window-relative vector index (02 R28). -/
def Wave.phys (w : Wave) (i : Nat) : Nat := if w.bud = 0 then 0 else (w.base + i) % w.bud

/-- The compaction group of a wave, if it runs as a compacted wave. -/
def groupOf (s : State) (w : Wave) : Option Group :=
  match w.comp, blockAt s w.block with
  | some c, some b => b.groups.find? (fun g => g.gid == c.group)
  | _, _ => none

/-- The home waves whose registers a word of this wave uses: itself, or those of its group (06 R133). -/
def homeKeys (s : State) (k : Nat) (w : Wave) : List Nat :=
  match groupOf s w with
  | some g => g.homes
  | none => [k]

/-- The home wave of the thread in lane `l`. -/
def laneHome (k : Nat) (w : Wave) (l : Nat) : Option Nat :=
  match w.comp with
  | none => some k
  | some c => (c.homes.toList[l]?).join

/-- A vector register's lane. -/
def vecLane (w : Wave) (p l : Nat) : Nat := (((w.vregs.look (Vector.replicate 32 0) p).toList[l]?).getD 0).toNat

/-- MASK of the running PATH or CPATH entry above any TRAP, or the lanes that have not exited (06 R131). In a handler entered
inside a path every lane that has not exited can be turned on: R131 names no handler, and that reading is the model's
(assumption 73). -/
def liveMask (w : Wave) : List Entry → Word
  | .path _ _ m true :: _ => m
  | .cpath _ _ ki t m :: r => if w.comp.any (fun c => c.taken == t && c.kidx == ki) then m else liveMask w r
  | .trap _ _ _ _ :: _ => w.liveLanes
  | _ :: r => liveMask w r
  | [] => w.liveLanes

/-- A value of `n` bytes at a virtual address of a context, 0 where it cannot be read. -/
def peekVirt (s : State) (ctx va n : Nat) : Nat :=
  match walk s ctx va with
  | .ok x => anyRead s x.pa n
  | .error _ => 0

/-- The LC16 base table of a context's kernel: entry `k` as eight magnitudes (08 R178). -/
def latticeOf (s : State) (ctx : Nat) (k : Nat) : List Nat :=
  match contextAt s ctx with
  | none => defaultLattice k
  | some c =>
    if peekVirt s ctx (c.kbase.toNat + 0x28) 4 = 0 then defaultLattice k
    else (List.range 8).map (fun j =>
      peekVirt s ctx (c.kbase.toNat + peekVirt s ctx (c.kbase.toNat + 0x28) 4 + 4 * (k % 256)) 4 / 16 ^ j % 16)

/-- What a vector word of a wave sees. -/
def waveView (s : State) (k : Nat) (w : Wave) : View :=
  let at_ := fun l => match laneHome k w l with
    | some h => if h = k then some w else waveAt s h
    | none => none
  { lanes := 32
    exec := w.exec.toNat
    vec := fun i l => match at_ l with
      | some h => vecLane h (w.phys i) l
      | none => 0
    sca := fun i => (w.sregs.look 0 i).toNat
    msk := fun j => if j = 0 then w.exec.toNat else
      ofBits (fun l => match at_ l with
        | some h => bitOf (h.mregs.look 0 j) l
        | none => false) 32
    tag := fun i => (homeKeys s k w).foldl (fun t h => match (if h = k then some w else waveAt s h) with
      | some x => tagWorst t (x.vtags.look 0 (w.phys i))
      | none => t) tagE
    wave := w.num
    once := freeNat s 100 % 32
    lattice := latticeOf s (ctxOf s w) }

/-- Replace lanes of a register. -/
def setLanes (v : Vector Word 32) (vals : List (Nat × Nat)) : Vector Word 32 :=
  Vector.ofFn (fun i => match vals.find? (fun p => p.1 == i.val) with
    | some p => BitVec.ofNat 32 p.2
    | none => v[i])

/-- Whether a register's parity fails: of a vector register, in any lane (18 R411). -/
def Wave.parityBad (w : Wave) (r : RegRef) : Bool := w.parity.any (fun q => q.1 == r)

/-- Write lanes of a physical vector register with a result tag (02 R35); the lanes written lose their parity errors. -/
def Wave.writeVec (w : Wave) (p : Nat) (vals : List (Nat × Nat)) (tag : Byte) (keep : Bool) : Wave :=
  let full := (List.range 32).all (fun l => vals.any (fun q => q.1 == l))
  { w with
    vregs := w.vregs.put (Vector.replicate 32 0) p (setLanes (w.vregs.look (Vector.replicate 32 0) p) vals)
    vtags := w.vtags.put 0 p (tagWrite (full && !keep) (w.vtags.look 0 p) tag)
    parity := w.parity.filter (fun r => r.1 != .v p || !vals.any (fun q => q.1 == r.2))
    freshPoison := if full then w.freshPoison.filter (fun r => r != p) else w.freshPoison }

/-- Write a scalar; a cause held for its old value loses that reader (12 R288). -/
def Wave.writeSca (w : Wave) (i : Nat) (x : DWord) : Wave :=
  { w with sregs := w.sregs.put 0 i x
           deferred := w.deferred.map (fun d => { d with regs := d.regs.filter (fun r => r != .s i) })
           parity := w.parity.filter (fun r => r.1 != .s i) }

def Wave.writeMask (w : Wave) (i : Nat) (x : Word) : Wave :=
  { w with mregs := w.mregs.put 0 i x, parity := w.parity.filter (fun r => r.1 != .m i) }

/-- Write lanes of a window-relative vector register of wave `k`, each in its home wave. -/
def writeVecAt (s : State) (k : Nat) (v : VecWrite) : State :=
  match waveAt s k with
  | none => s
  | some w => (homeKeys s k w).foldl (fun s h =>
      modWave s h (fun x => x.writeVec (w.phys v.reg) (v.vals.filter (fun p => laneHome k w p.1 == some h)) v.tag v.keep)) s

def writeScaAt (s : State) (k i x : Nat) : State :=
  match waveAt s k with
  | none => s
  | some w => (homeKeys s k w).foldl (fun s h => modWave s h (fun y => y.writeSca i (BitVec.ofNat 64 x))) s

/-- Write a mask register: m0 within LIVE, any other in each lane's home wave (06 R131, R133). -/
def writeMaskAt (s : State) (k i x : Nat) : State :=
  match waveAt s k with
  | none => s
  | some w =>
    if i = 0 then setWave s k { w with exec := BitVec.ofNat 32 x &&& liveMask w w.stack }
    else match w.comp with
      | none => setWave s k (w.writeMask i (BitVec.ofNat 32 x))
      | some _ => (homeKeys s k w).foldl (fun s h => modWave s h (fun y => y.writeMask i (BitVec.ofNat 32
          (ofBits (fun l => if laneHome k w l == some h then natBit x l else bitOf (y.mregs.look 0 i) l) 32)))) s

/-- Write a word's results to wave `k`: masks last, so that a write of m0 governs the next word only (06 R131). -/
def applyOut (s : State) (k : Nat) (o : Out) : State :=
  let s := o.vecs.foldl (fun s v => writeVecAt s k v) s
  let s := o.scas.foldl (fun s p => writeScaAt s k p.1 p.2) s
  o.msks.foldl (fun s p => writeMaskAt s k p.1 p.2) s

/-! ## What a word comes to -/

/-- What a word's own rules make of it: an effect after which it retires; one that follows its clause's end and may still
fault without effect; a cause; or that it does not issue now. -/
inductive Eff where
  | done (s : State)
  | after (s : State) (f : State → Except Trapped State)
  | trap (e : Trapped)
  | hold (s : State)

/-! ## Program counter and modes -/

/-- PC in the layout of R27. -/
def Wave.pcValue (w : Wave) : DWord := BitVec.ofNat 64 (w.pcPos * 2 ^ 56 + (w.pcHdr.toNat + 4 * w.pcPos) % 2 ^ 56)

def isTrapEntry : Entry → Bool
  | .trap _ _ _ _ => true
  | _ => false

def isPathEntry : Entry → Bool
  | .path _ _ _ _ => true
  | _ => false

def isCpathEntry : Entry → Bool
  | .cpath _ _ _ _ _ => true
  | _ => false

/-- Whether a handler has been entered inside the innermost compacted path, or outside every one. -/
def Wave.trapInside (w : Wave) : Bool := (w.stack.takeWhile (fun e => !isCpathEntry e)).any isTrapEntry

/-- A wave is in handler mode while its stack holds a TRAP entry (18 R407). -/
def Wave.inHandler (w : Wave) : Bool := w.stack.any isTrapEntry

def Wave.goto (w : Wave) (a : DWord) : Wave := { w with pcHdr := a, pcPos := 0, clause := none }

/-- Provenance of the clause a wave is in, or of the fetched clause at PC (05 R113). -/
def Wave.prov (w : Wave) : DWord := match w.clause with
  | some c => c.prov
  | none => BitVec.ofNat 64 (w.pcHdr.toNat % 2 ^ 56)

/-! ## A word retires -/

/-- The end of a clause: its flags lose the clause, PC passes it or the queue loses it (02 R40, 05 R111). -/
def Wave.endClause (w : Wave) (c : Clause) : Wave :=
  let w := { w with flagOpen := closeFlags w.flagOpen c.hdr, clause := none, yielded := bitOf c.hdr 27 }
  if c.inj then { w with inj := w.inj.drop 1 }
  else { w with pcHdr := c.addr + BitVec.ofNat 64 (4 * (hdrCount c.hdr + 1)), pcPos := 0 }

/-- The running path of the innermost divergence, and how many paths it has, if a divergence is innermost (06 R129). -/
def innermost (w : Wave) : Option (Nat × Nat) :=
  let ps := w.stack.takeWhile isPathEntry
  match ps, w.stack.drop ps.length with
  | _ :: _, .reconv _ _ _ :: _ =>
    let asc := ps.reverse
    some ((asc.findIdx? (fun e => match e with
      | .path _ _ _ r => r
      | _ => false)).getD 0, asc.length)
  | _, _ => none

/-- Whether a word's operation is of latency class C: it ends its clause wherever it stands (03 R72). -/
def CWord.endsClause (x : CWord) : Bool := match x.entry with
  | some e => (opInfo (fieldOf e 0 10)).any (fun i => i.ends)
  | none => false

/-- The word at the clause's position has issued: the next one follows, or the clause ends. Words a running path issues are
counted, and a handler's words outside its own divergences are none of a path's (06 R129, assumption 10). -/
def Wave.retire (w : Wave) : Wave :=
  match w.clause with
  | none => w
  | some c =>
    let w := { w with count := if w.trapInside && (innermost w).isNone then w.count else w.count + 1, aged := false, polls := 0
                      watch := [], fencing := false }
    if c.words.length ≤ c.pos || (c.words[c.pos - 1]?).any CWord.endsClause then w.endClause c
    else { w with clause := some { c with pos := c.pos + 1 }, pcPos := if c.inj then w.pcPos else c.pos + 1 }

/-- The word at the clause's position has issued in cycle `t` (19 R444). -/
def Wave.retireAt (w : Wave) (t : Nat) : Wave := { w.retire with issuedAt := t }

def retireWord (s : State) (k : Nat) : State := modWave s k (fun w => w.retireAt s.time)

/-! ## Checkpoints of a shadowed block (18 R423) -/

/-- A full block barrier has completed a phase: where every wave that lives waits at a barrier, the block's waves past their
words, its scratchpad and its barriers are copied into the shadow, and a new interval starts. -/
def checkpoint (s : State) (b key : Nat) : State :=
  match blockAt s b, s.bars.look none key with
  | some x, some bar =>
    let live := (wavesOf s b).filter (fun p => !p.2.ended)
    if x.shadowed && bar.full && decide (key < 2 ^ 40) && !live.isEmpty && live.all (fun p => p.2.barWait == some key) then
      let s := live.foldl (fun s p => setWave s p.1 { p.2 with freshPoison := [] }) s
      let past := live.map (fun p => (p.1,
        { p.2 with freshPoison := [], hold := .no, barWait := none, barOpen := false, barArrived := none }.retire))
      let bars := s.bars.filterMap (fun p => match p.2 with
        | some y => if y.members.any (fun m => m / 32 == b) then some (p.1, y) else none
        | none => none)
      setBlock s b { x with escaped := false, rolled := false, crossed := []
                            shadow := some { waves := past, spad := x.spad, bars := bars, mark := s.nextId } }
    else s
  | _, _ => s

/-- A phase of a barrier has completed: its waiters are released (15 R345), and it may be a checkpoint. -/
def phaseDone (s : State) (key : Nat) : State :=
  match s.bars.look none key with
  | none => s
  | some x =>
    let s := { s with
      bars := s.bars.put none key (some { x with at_ := s.clock })
      waves := s.waves.map (fun p => (p.1, p.2.map (fun w => if w.barWait == some key then { w with barOpen := true } else w))) }
    match x.members with
    | m :: _ => checkpoint s (m / 32) key
    | [] => s

/-- Members leave their barriers: they count as arrived, which may complete phases. -/
def leaveBarriers (s : State) (ms : List Nat) : State :=
  let old := s.bars
  let s := barrierGone s ms
  s.bars.foldl (fun s p => match p.2, old.look none p.1 with
    | some y, some z => if y.phase != z.phase then phaseDone s p.1 else s
    | _, _ => s) s

/-- A wave selects slot `n` of its core: the slot it leaves loses it (03 R62). -/
def selectSlot (s : State) (k n : Nat) : State :=
  match waveAt s k with
  | none => s
  | some w =>
    let core := s.core (coreOf k)
    let old := core.slots.look {} w.dsel
    let t := core.slots.put {} w.dsel { old with selcnt := old.selcnt - 1 }
    let new := t.look {} n
    let t := t.put {} n { new with selcnt := new.selcnt + 1 }
    setWave (s.setCore (coreOf k) { core with slots := t }) k { w with dsel := n, hold := .no }

/-- The waves of a core that wait for the load of slot `n`. -/
def slotWaiters (s : State) (c n : Nat) : List Nat :=
  s.waves.filterMap (fun p => match p.2 with
    | some w => if coreOf p.1 == c && w.hold == .dictWait n then some p.1 else none
    | none => none)

/-- The load of slot `n` has ended: the waves that waited select the slot, before any later request of it, or their `dsel` fails
(03 R62). -/
def wakeSlot (s : State) (c n : Nat) (ok : Bool) : State :=
  (slotWaiters s c n).foldl (fun s k =>
    if ok then retireWord (selectSlot s k n) k else modWave s k (fun w => { w with hold := .dictFailed n })) s

/-- Drop a wave that has nothing left to do: free its slot and budget, its queue, region list and dictionary reference,
count it as exited at its block's barriers (06 R143, 03 R62). -/
def dropWave (s : State) (k : Nat) (w : Wave) : State :=
  let c := coreOf k
  -- a tag or a drift that no word observed is recorded (12 R288, 11 R256)
  let s := (w.deferred.filter (fun d => d.cause == 0x0C1 || d.cause == 0x0C2)).foldl (fun s _ => coreRecord s c 3 (ctxOf s w) errTag none) s
  let s := (w.deferred.filter (fun d => d.cause == 0x115)).foldl (fun s _ => coreRecord s c 1 (ctxOf s w) errDrift none) s
  let core := s.core c
  let slot := core.slots.look {} w.dsel
  let s := s.setCore c { core with slots := core.slots.put {} w.dsel { slot with selcnt := slot.selcnt - 1 } }
  let s := { s with waves := s.waves.put none k none }
  let s := modBlock s w.block (fun x => { x with slots := x.slots.put 0 w.num 0, gone := x.gone ++ [w.num] })
  leaveBarriers s [w.block * 32 + w.num]

/-! ## Spill machinery: window and stack (02 R30 to R32, 06 R127) -/

/-- Translation of a spill slot: an address with bits [63:56] raises 0x081, an unmapped page private growth, a missing permission
0x083 (02 R31). -/
def spillXlat (s : State) (k : Nat) (w : Wave) (va n : Nat) (write : Bool) (i : Nat) : Except Trapped (State × Xlat) :=
  if 2 ^ 56 ≤ va then .error { cause := 0x081, addr := va } else
  match translate s (coreOf k) (ctxOf s w) va i n with
  | (_, .error (c, d)) => .error { cause := if c = 0x081 then 0x082 else c, detail := d, addr := va }
  | (s, .ok x) => if (if write then x.w else x.r) then .ok (s, x) else .error { cause := 0x083, addr := va }

/-- A store through a translation: its home and the further replicas (12 R291), the host's copies given up first (20 R448). -/
def storeVia (s : State) (x : Xlat) (n v : Nat) : State :=
  let l := ([x.pa] ++ x.others).flatMap (fun a => bytesOf a n v)
  applyStore (recallHost s (l.map (·.1))) l x.grade

/-- The 128 bytes of a register as a number, lane L at byte 4L. -/
def regBytes (v : Vector Word 32) : Nat :=
  (List.range 32).foldl (fun x l => x + ((v.toList[l]?).getD 0).toNat * 2 ^ (32 * l)) 0

/-- A register from its 128 bytes. -/
def regOf (x : Nat) : Vector Word 32 := Vector.ofFn (fun i => BitVec.ofNat 32 (x / 2 ^ (32 * i.val)))

def slotVa (w : Wave) (n : Nat) : Nat := w.spillBase.toNat + 0x1000 + 128 * n
def tagVa (w : Wave) (n : Nat) : Nat := w.spillBase.toNat + n

/-- Window-relative index of a register for TCAUSE (18 R405, R411). -/
def regDetail (w : Wave) : RegRef → Nat
  | .v p => if w.bud = 0 then 0 else (p + w.bud - w.base % w.bud) % w.bud
  | .s i => 0x100 + i
  | .m i => 0x200 + i

/-- Write logical register `n` to its spill slot, the data before the tag: an order R31 leaves open (assumption 74). -/
def spillReg (s : State) (k n : Nat) : Except Trapped State :=
  match waveAt s k with
  | none => .ok s
  | some w =>
    match spillXlat s k w (slotVa w n) 128 true (2 * n) with
    | .error e => .error e
    | .ok (s, x) =>
      match spillXlat s k w (tagVa w n) 1 true (2 * n + 1) with
      | .error e => .error e
      | .ok (s, y) =>
        let p := n % w.bud
        if w.parityBad (.v p) then .error { cause := 0x0C3, detail := regDetail w (.v p) } else
        .ok (storeVia (storeVia s x 128 (regBytes (w.vregs.look (Vector.replicate 32 0) p))) y 1 (w.vtags.look 0 p).toNat)

/-- Whether any byte of a range reads with an uncorrected error. -/
def rangePoison (s : State) (a n : Nat) : Bool := (List.range n).any (fun i => isPoison s (a + i))

/-- Read logical register `n` from its spill slot, the data before the tag (assumption 74); an uncorrected error installs class P
(02 R32, R36). -/
def refillReg (s : State) (k n : Nat) : Except Trapped State :=
  match waveAt s k with
  | none => .ok s
  | some w =>
    match spillXlat s k w (slotVa w n) 128 false (2 * n) with
    | .error e => .error e
    | .ok (s, x) =>
      match spillXlat s k w (tagVa w n) 1 false (2 * n + 1) with
      | .error e => .error e
      | .ok (s, y) =>
        let p := n % w.bud
        let bad := rangePoison s x.pa 128 || isPoison s y.pa
        let tag := if bad then tagP else tagInstall (BitVec.ofNat 8 (anyRead s y.pa 1))
        let w := { w with
          vregs := w.vregs.put (Vector.replicate 32 0) p (regOf (anyRead s x.pa 128))
          vtags := w.vtags.put 0 p tag
          parity := w.parity.filter (fun r => r.1 != .v p)
          freshPoison := if bad then p :: w.freshPoison else w.freshPoison.filter (fun r => r != p) }
        let s := if bad then coreRecord s (coreOf k) 3 (ctxOf s w) errData (some x.pa) else s
        .ok (setWave s k w)

/-- Do a step for each number of a list, stopping at the first failure. -/
def each {α β : Type} (f : State → α → Except β State) : State → List α → Except β State
  | s, [] => .ok s
  | s, x :: r => match f s x with
    | .ok s => each f s r
    | .error e => .error e

/-- Whether a block is shadowed (18 R422). -/
def shadowedAt (s : State) (b : Nat) : Bool := (blockAt s b).any (fun x => x.shadowed)

/-- The slide of a call: spill what leaves the window, clear what enters it (02 R30). -/
def slideUp (s : State) (k n : Nat) : Except Trapped State :=
  match waveAt s k with
  | none => .ok s
  | some w =>
    let base := w.base + n
    if 4096 < base + w.bud then .error { cause := 0x007 }
    else if w.rlo < base && shadowedAt s w.block then .error { cause := 0x1C4 }
    else match each (fun s n => spillReg s k n) s ((List.range (base - w.rlo)).map (fun i => w.rlo + i)) with
      | .error e => .error e
      | .ok s => .ok (modWave s k (fun w =>
          let fresh := (List.range n).map (fun i => (w.base + w.bud + i) % w.bud)
          { w with base := base, rlo := max w.rlo base
                   parity := w.parity.filter (fun r => !fresh.any (fun p => r.1 == .v p))
                   freshPoison := w.freshPoison.filter (fun p => !fresh.contains p)
                   vregs := fresh.foldl (fun t p => t.put (Vector.replicate 32 0) p (Vector.replicate 32 0)) w.vregs
                   vtags := fresh.foldl (fun t p => t.put 0 p 0) w.vtags }))

/-- The slide of a return: refill what enters the window again (02 R30), within a frame from the highest register down: an order
R30 leaves open (assumption 74). The registers above the new window are discarded, and a drifted product's run loses them (11 R256). -/
def slideDown (s : State) (k n : Nat) : Except Trapped State :=
  match waveAt s k with
  | none => .ok s
  | some w =>
    let base := w.base - n
    if base < w.rlo && shadowedAt s w.block then .error { cause := 0x1C4 }
    else match each (fun s n => refillReg s k n) s ((List.range (w.rlo - base)).map (fun i => w.rlo - 1 - i)) with
      | .error e => .error e
      | .ok s => .ok (modWave s k (fun w => { w with
          base := base, rlo := min w.rlo base
          deferred := w.deferred.map (fun d => { d with run := d.run.filter (fun m => decide (m < base + w.bud)) }) }))

/-- The 128 bits of a stack entry of wave number `n` (06 R125). -/
def Entry.code (n : Nat) : Entry → Nat
  | .reconv j t m => (match j with
      | some a => 2 ^ 127 + a.toNat / 4 % 2 ^ 54 * 2 ^ 73
      | none => 0) + t.toNat * 2 ^ 41 + m.toNat * 2 ^ 9 + n * 16 + 1
  | .path a p m _ => a.toNat / 4 % 2 ^ 54 * 2 ^ 73 + p * 2 ^ 69 + m.toNat * 2 ^ 9 + n * 16 + 2
  | .frame l m => l * 2 ^ 41 + m.toNat * 2 ^ 9 + n * 16 + 3
  | .trap a p c m => a.toNat / 4 % 2 ^ 54 * 2 ^ 54 + p * 2 ^ 50 + c * 2 ^ 41 + m.toNat * 2 ^ 9 + n * 16 + 4
  | .cpath a p i t m => a.toNat / 4 % 2 ^ 54 * 2 ^ 73 + p * 2 ^ 69 + i * 2 ^ 42 + t.toNat * 2 ^ 41 + m.toNat * 2 ^ 9 + n * 16 + 5

def onChip (w : Wave) : Nat := w.stack.length - w.spilled

/-- Address of a wave's stack spill slot. -/
def entryVa (s : State) (w : Wave) (d : Nat) : Nat :=
  ((blockAt s w.block).bind (fun b => b.bspill)).getD 0 |>.toNat |> (· + 0x800 * w.num + 16 * d)

/-- The wave a full on-chip pool spills an entry of: the pushing one, else the one with most on chip, ties to the lower
number (06 R127). -/
def spillVictim (s : State) (k : Nat) (w : Wave) : Nat :=
  if 0 < onChip w then k
  else ((wavesOf s w.block).foldl (fun (m : Option (Nat × Wave)) p => match m with
    | none => some p
    | some q => if onChip q.2 < onChip p.2 || (onChip q.2 == onChip p.2 && p.2.num < q.2.num) then some p else some q) none).elim k (·.1)

/-- Spill the oldest on-chip entry of a wave. -/
def spillEntry (s : State) (k : Nat) : Except Trapped State :=
  match waveAt s k with
  | none => .ok s
  | some w =>
    match w.stack.reverse[w.spilled]? with
    | none => .ok s
    | some e =>
      match spillXlat s k w (entryVa s w w.spilled) 16 true 9000 with
      | .error x => .error x
      | .ok (s, x) => .ok (setWave (storeVia s x 16 (e.code w.num)) k { w with spilled := w.spilled + 1 })

/-- Push an entry on a wave's stack (06 R126, R127, 18 R422). -/
def pushEntry (s : State) (k : Nat) (e : Entry) : Except Trapped State :=
  match waveAt s k with
  | none => .ok s
  | some w =>
    if 128 ≤ w.stack.length then .error { cause := 0x044 }
    else
      let used := ((wavesOf s w.block).map (fun p => onChip p.2)).foldl (· + ·) 0
      let room : Except Trapped State :=
        if used < 32 then .ok s
        else if shadowedAt s w.block then .error { cause := 0x1C4 }
        else spillEntry s (spillVictim s k w)
      match room with
      | .error x => .error x
      | .ok s => .ok (modWave s k (fun w => { w with stack := e :: w.stack }))

/-- Bring a wave's top entry on chip (06 R127). Where all 32 on-chip entries are in use the refill spills none, which R127 leaves
open (assumption 75). -/
def needTop (s : State) (k : Nat) : Except Trapped State :=
  match waveAt s k with
  | none => .ok s
  | some w =>
    if w.spilled < w.stack.length || w.stack.length = 0 then .ok s
    else match spillXlat s k w (entryVa s w (w.stack.length - 1)) 16 false 9001 with
      | .error x => .error x
      | .ok (s, _) => .ok (modWave s k (fun w => { w with spilled := w.stack.length - 1 }))

/-- Drop the top entry. -/
def popEntry (s : State) (k : Nat) : Except Trapped State :=
  match needTop s k with
  | .error x => .error x
  | .ok s => .ok (modWave s k (fun w => { w with stack := w.stack.drop 1, spilled := min w.spilled (w.stack.length - 1) }))

/-! ## Paths (06 R128 to R130) -/

/-- The lanes of a mask as a sorted list of targets with their lanes, each target once. -/
def targetsOf (lanes : List (Nat × Nat)) : List (Nat × Nat) :=
  lanes.foldl (fun g p => Tab.ins g p.1 (Tab.look 0 g p.1 + 2 ^ p.2)) []

/-- Mark the lowest PATH of the divergence on top as running, and run it. -/
def startPath (w : Wave) (ix : Nat) : Wave :=
  let ps := w.stack.takeWhile isPathEntry
  let n := ps.length
  let j := n - 1 - ix
  let st := (List.range w.stack.length).zip w.stack |>.map (fun p => match p.2 with
    | .path a q m r => if p.1 < n then .path a q m (p.1 == j) else .path a q m r
    | e => e)
  match ps[j]? with
  | some (.path a q m _) => { w with stack := st, exec := m, pcHdr := a, pcPos := q, count := 0, clause := none }
  | _ => { w with stack := st }

/-- diverge(w, G) of R128: targets ascending with their lanes. -/
def diverge (s : State) (k : Nat) (g : List (Nat × Nat)) : Except Trapped State :=
  match waveAt s k, g with
  | none, _ => .ok s
  | some _, [] => .ok s
  | some w, [(a, _)] => .ok (setWave s k (w.goto (BitVec.ofNat 64 a)))
  | some w, g =>
    if 128 < w.stack.length + 1 + g.length then .error { cause := 0x044 }
    else
      let es := Entry.reconv none 0 w.exec :: g.map (fun p => Entry.path (BitVec.ofNat 64 p.1) 0 (BitVec.ofNat 32 p.2) false)
      match each (fun s e => pushEntry s k e) s es with
      | .error x => .error x
      | .ok s => .ok (modWave s k (fun w => startPath w 0))

/-- An entry leaves a stack at `i` from the top: of those below it that are spilled none is lost, itself may be one (06 R127). -/
def Wave.dropAt (w : Wave) (i : Nat) : Wave :=
  { w with stack := w.stack.eraseIdx i, spilled := if w.stack.length ≤ i + w.spilled then w.spilled - 1 else w.spilled }

/-- Remove the running path of the divergence on top and run the next live one, if there is one. -/
def dropRunning (w : Wave) : Option Wave :=
  let ps := w.stack.takeWhile isPathEntry
  match innermost w with
  | none => none
  | some (ix, n) =>
    let w := w.dropAt (n - 1 - ix)
    if ps.length ≤ 1 then some w else some (startPath w (if ix < n - 1 then ix else 0))

/-- Record the address of a `join` in the RECONV entry below the paths on top (06 R142). -/
def setJaddr (a : DWord) : List Entry → List Entry
  | .reconv _ t m :: r => .reconv (some a) t m :: r
  | e :: r => e :: setJaddr a r
  | [] => []

/-! ## Compaction groups (06 R133) -/

/-- The CPATH entry of a wave's running compacted wave removed from the stack. -/
def dropCpath (w : Wave) : Wave :=
  match w.comp with
  | none => w
  | some c =>
    match w.stack.findIdx? (fun e => match e with
      | .cpath _ _ i t _ => i == c.kidx && t == c.taken
      | _ => false) with
    | some i => w.dropAt i
    | none => w

/-- The MASK of a compacted wave's CPATH entry, as exits have left it. -/
def Wave.cpathMask (w : Wave) (c : CWave) : Word :=
  w.stack.foldl (fun m e => match e with
    | .cpath _ _ i t x => if i = c.kidx && t == c.taken then x else m
    | _ => m) c.mask

/-- Start the compacted waves of a path: each in its carrier's slot, with the lanes its CPATH entry has. -/
def startGroupPath (s : State) (gid : Nat) (ws : List CWave) : State :=
  ws.foldl (fun s c => modWave s c.carrier (fun w =>
    { w with exec := w.cpathMask c, pcHdr := c.addr, pcPos := c.pos, clause := none, count := 0, hold := .no
             comp := some { group := gid, taken := c.taken, kidx := c.kidx, homes := c.homes } })) s

/-- Threads go on in one another's slots: each of some waves has seen what any of them has (14 R315, assumption 106). -/
def shareSights (s : State) (ks : List Nat) : State :=
  let v := ks.foldl (fun v k => v.join (sightOf s (agWave k))) {}
  ks.foldl (fun s k => modSight s (agWave k) (fun _ => v)) s

/-- The merge of a compaction group: every home wave resumes at JADDR with its MASK minus exited lanes; where no lane or no
JADDR is left its enclosing path ends in turn, by `fin` (06 R133). -/
def mergeGroup (fin : State → Nat → Except Trapped State) (s : State) (b : Nat) (g : Group) : Except Trapped State :=
  let s := modBlock (shareSights s g.homes) b (fun x => { x with groups := x.groups.filter (fun y => y.gid != g.gid) })
  each (fun s h => match needTop s h with
    | .error e => .error e
    | .ok s => match waveAt s h with
    | none => .ok s
    | some w => match w.stack with
      | .reconv j _ m :: r =>
        let live := m
        let w := { w with stack := r, spilled := min w.spilled r.length, comp := none, hold := .no, clause := none, count := 0
                          exec := live }
        (match j with
          | some a => if live = 0 then fin (setWave s h w) h else .ok (setWave s h { w with pcHdr := a, pcPos := 0 })
          | none => fin (setWave s h w) h)
      | _ => .ok s) s g.homes

/-- The compacted wave that runs in carrier `k` has ended: its CPATH goes; the path's turn passes when its waves have all
ended, and the group merges when every wave of every path has. -/
def cwaveEnded (fin : State → Nat → Except Trapped State) (s : State) (k : Nat) : Except Trapped State :=
  match waveAt s k with
  | none => .ok s
  | some w =>
    match w.comp, groupOf s w with
    | some c, some g =>
      let ws := g.waves.map (fun x => if x.taken == c.taken && x.kidx == c.kidx then { x with ended := true } else x)
      let s := setWave s k { dropCpath w with comp := none, hold := .meeting, clause := none, exec := 0 }
      let g := { g with waves := ws }
      let put := fun (s : State) (g : Group) =>
        modBlock s w.block (fun x => { x with groups := x.groups.map (fun y => if y.gid == g.gid then g else y) })
      if ws.all (fun x => x.ended) then mergeGroup fin (put s g) w.block g
      else if ws.all (fun x => x.taken != g.cur || x.ended) then
        let nxt := ws.filter (fun x => x.taken != g.cur && !x.ended)
        .ok (startGroupPath (put s { g with cur := !g.cur }) g.gid nxt)
      else .ok (put s g)
    | _, _ => .ok s

/-- Whether a path, or a handler, encloses what lies above these entries. -/
def inPath (l : List Entry) : Bool := l.any (fun e => isPathEntry e || isCpathEntry e || isTrapEntry e)

/-- A path has ended with no lane left: what lies above its entry goes with it, the divergence merges when it was the last,
and the enclosing path ends in turn where the merge leaves none; outside every path the wave itself ends (06 R130,
assumption 70). -/
def endPath : Nat → State → Nat → Except Trapped State
  | 0, s, _ => .ok s
  | fuel + 1, s, k =>
    match needTop s k with
    | .error x => .error x
    | .ok s =>
      match waveAt s k with
      | none => .ok s
      | some w =>
        match w.stack with
        | [] => .ok (setWave s k w.endAll)
        | .frame n _ :: r =>
          if !inPath r then .ok (setWave s k w.endAll) else
          (match slideDown s k (8 * n) with
            | .error x => .error x
            | .ok s => match popEntry s k with
              | .error x => .error x
              | .ok s => endPath fuel s k)
        | .path _ _ _ _ :: _ =>
          (match dropRunning w with
            | none => .ok s
            | some w' =>
              if w'.stack.head?.any isPathEntry then .ok (setWave s k w')
              else endPath fuel (setWave s k w') k)
        | .reconv j _ m :: _ =>
          (match popEntry s k with
            | .error x => .error x
            | .ok s =>
              let live := m
              match j with
              | some a => if live = 0 then endPath fuel s k
                  else .ok (modWave s k (fun w => { (w.goto a) with exec := live, count := 0 }))
              | none => endPath fuel s k)
        | .cpath _ _ _ _ _ :: _ => cwaveEnded (endPath fuel) s k
        | .trap _ _ _ _ :: _ => .ok s

/-! ## Exit (06 R143) -/

/-- Lanes removed from the masks of a list of entries. -/
def purgeEntries (x : Word) (l : List Entry) : List Entry :=
  l.map (fun e => match e with
    | .reconv j t m => .reconv j (t &&& ~~~ x) (m &&& ~~~ x)
    | .path a p m r => .path a p (m &&& ~~~ x) r
    | .frame n m => .frame n (m &&& ~~~ x)
    | .trap a p c m => .trap a p c (m &&& ~~~ x)
    | .cpath a p i t m => .cpath a p i t m)

/-- The entries of a stack that name a wave's own lanes: those below its oldest CPATH entry. -/
def ownSuffix (l : List Entry) : List Entry := (l.reverse.takeWhile (fun e => !isCpathEntry e)).reverse

/-- Lanes of a home wave exit: they leave the masks of its own entries. -/
def Wave.loseLanes (w : Wave) (x : Word) : Wave :=
  let own := ownSuffix w.stack
  { w with exited := w.exited ||| x, stack := w.stack.take (w.stack.length - own.length) ++ purgeEntries x own }

/-- Lanes of a wave exit: of a compacted wave, each thread's home lane, and the compacted wave's own entries lose them. -/
def exitLanes (s : State) (k : Nat) (x : Word) : State :=
  match waveAt s k with
  | none => s
  | some w =>
    match w.comp with
    | none => setWave s k { w.loseLanes x with exec := w.exec &&& ~~~ x }
    | some c =>
      let up := w.stack.take (w.stack.length - (ownSuffix w.stack).length)
      let up := (purgeEntries x up).map (fun e => match e with
        | .cpath a p i t m => if i = c.kidx && t == c.taken then .cpath a p i t (m &&& ~~~ x) else .cpath a p i t m
        | e => e)
      let s := setWave s k { w with exec := w.exec &&& ~~~ x, stack := up ++ ownSuffix w.stack }
      (homeKeys s k w).foldl (fun s h => modWave s h (fun y => y.loseLanes
        (BitVec.ofNat 32 (ofBits (fun l => bitOf x l && laneHome k w l == some h) 32)))) s

/-- Entries above a wave's running CPATH entry dropped, but for those of the group's other path: a compacted wave that ends in its
handler. -/
def dropAboveCpath (w : Wave) : Wave :=
  let above := fun (e : Entry) => match e with
    | .cpath _ _ i t _ => !(w.comp.any (fun c => i = c.kidx && t == c.taken))
    | _ => true
  let st := (w.stack.takeWhile above).filter isCpathEntry ++ w.stack.dropWhile above
  { w with stack := st, spilled := min w.spilled st.length }

/-- The lanes that execute `exit` end: every lane of the wave in handler mode, else the active ones; a path left with no lane
ends (06 R130, R143). Follows the end of the word's clause. -/
def exitWave (s : State) (k : Nat) : Except Trapped State :=
  match waveAt s k with
  | none => .ok s
  | some w =>
    let x := if w.inHandler then w.liveLanes else w.exec
    let s := exitLanes s k x
    if w.inHandler then
      match w.comp with
      | none => .ok (modWave s k Wave.endAll)
      | some _ => cwaveEnded (endPath 300) (modWave s k dropAboveCpath) k
    else match waveAt s k with
      | none => .ok s
      | some w => if liveMask w w.stack = 0 then
          (if w.ended then .ok (setWave s k w.endAll) else endPath 300 s k) else .ok s

/-! ## What a rollback leaves (18 R425) -/

/-- Operations of a wave that a rollback leaves: loads lose their destination, records issued since the checkpoint are gone,
nothing keeps a flag. -/
def strip (mark : Nat) (p : Pend) : Option Pend :=
  match p.work with
  | .engine r => if r < mark then some { p with flag := none } else none
  | .load _ _ _ => none
  | .atomic a _ q c g => some { p with flag := none, dst := [], work := .atomic a none q c g }
  | .store q t a => some { p with flag := none, dst := [], work := .store q t a }
  | .region st sc a _ => some { p with flag := none, dst := [], work := .region (st.map (fun x => { x with dst := none })) sc a [] }
  | .packets o => some { p with flag := none, dst := [], work := .packets o }
  | _ => none

/-- Buffers a tile record names. -/
def TileWork.buffers : TileWork → List Nat
  | .tmma _ _ _ _ _ acc nt _ _ _ => (List.range nt).map (fun i => acc + i)
  | .tzero m => (List.range 16).filter (fun i => bitOf m i)
  | .trd b _ _ _ _ _ _ _ => [b]
  | .twr b _ _ _ _ => [b]
  | _ => []

/-- Cancel a core's tile records that satisfy `p`, as `tcan` does for `tmma` (10 R236): POISON and ERR 1 in their buffers. -/
def cancelTiles (core : Core) (p : TileRec → Bool) : Core :=
  let gone := core.tileQ.filter p
  { core with
    tileQ := core.tileQ.filter (fun r => !p r)
    accs := (gone.flatMap (fun r => r.work.buffers)).foldl (fun t b => t.put {} b { t.look {} b with poison := true, err := 1 }) core.accs }

/-! ## Events for coxes (04 R81, R82, 16 R359) -/

/-- Header of an event (04 R82). -/
def eventHdr (type sub src detail : Nat) : DWord := BitVec.ofNat 64 (type + sub * 2 ^ 8 + src * 2 ^ 16 + detail * 2 ^ 32)

def evType (e : DWord × DWord) : Nat := fieldOf e.1 0 8

/-- Queue an event of a cox (04 R81). -/
def queueEvent (s : State) (c : Nat) (h p : DWord) : State :=
  setCox s c { coxAt s c with events := (coxAt s c).events ++ [(h, p)] }

/-- Room for an entry of a type other than 2. -/
def eventRoom (x : Cox) : Bool := decide ((x.events.filter (fun e => evType e != 2)).length < 192)

/-- Queue an event that a full queue holds in the core until there is room. -/
def offerEvent (s : State) (c : Nat) (h p : DWord) : State :=
  if eventRoom (coxAt s c) && (s.core c).heldEvents.isEmpty then queueEvent s c h p
  else
    let s := setCox s c { coxAt s c with held := true }
    s.setCore c { s.core c with heldEvents := (s.core c).heldEvents ++ [(h, p)] }

/-- Destination of a copy. -/
def CopyWork.dst : CopyWork → DWord
  | .cpy d _ _ => d
  | .cpy2 d _ _ _ _ _ => d
  | .cpyg d _ _ => d
  | .evpost h _ => h

/-- The type 4 event of a wave's copy. -/
def copyEvent (r : CopyRec) (crc err : Nat) : DWord × DWord :=
  (eventHdr 4 0 (r.wave % 64) (r.work.dst.toNat % 2 ^ 32), BitVec.ofNat 64 (crc + err * 2 ^ 32))

/-- The record of a copy's or a chain record's ERR, which is its syndrome (16 R358). -/
def copyRecord (s : State) (c ctx err : Nat) : State :=
  if err = 0 then s
  else writeRecord s c { mkRecord s (1 + freeNat s 9 % 3) 1 c ctx errEngine (c / 32) none with synd := BitVec.ofNat 64 err }

/-- What the queue and the bank take of a copy cancelled before its completion (16 R358, R359): ERR 7. -/
def cancelledCopy (s : State) (c : Nat) (r : CopyRec) : State :=
  let s := match r.work, r.ev && !r.written with
    | .evpost _ _, _ => s
    | _, true => let e := copyEvent r 0 7; offerEvent s c e.1 e.2
    | _, false => s
  copyRecord s c r.ctx 7

/-- Whether a cause is one a shadowed block rolls back on (18 R425). -/
def rollbackCause (e : Trapped) : Bool := e.cause == 0x086 || e.cause == 0x0C3 || (e.cause == 0x0C1 && e.fresh)

/-- Whether a wave has no access outstanding; engine operations it may have. -/
def Wave.quiet (w : Wave) : Bool := w.pend.all (fun q => match q.work with
  | .engine _ => true
  | _ => false)

/-- Whether no wave of a block has an access outstanding. -/
def blockQuiet (s : State) (b : Nat) : Bool := (wavesOf s b).all (fun p => p.2.quiet)

/-- Roll back once the outstanding accesses have ended, or kill the block after a visible effect or a second error in one interval. -/
def rollOrKill (s : State) (b : Nat) (pc : DWord) (cause : Nat := 0) (prov : DWord := 0) : State :=
  match blockAt s b with
  | some x => if (x.escaped && !x.idempotent) || x.rolled then killBlock s b 5 pc cause prov else modBlock s b (fun y => { y with rolling := true })
  | none => s

/-- A visible effect of a shadowed block (18 R424). -/
def escape (s : State) (b : Nat) : State := modBlock s b (fun x => if x.shadowed then { x with escaped := true } else x)

/-! ## Taking a trap (18 R403 to R407) -/

/-- The type 2 event of a trapped injected clause (05 R121, R122). -/
def faultEvent (s : State) (k : Nat) (e : Trapped) (r : Resume) (kept : Bool) : State :=
  if bitOf r.prov 63 then
    queueEvent s (coreOf k) (eventHdr 2 0 (k % 64) (fieldOf r.prov 0 32))
      (BitVec.ofNat 64 (e.cause + r.wordPos * 2 ^ 9 + kept.toNat * 2 ^ 13 + fieldOf r.prov 32 30 * 2 ^ 32))
  else s

/-- TCAUSE (18 R405). -/
def tcauseWord (cause pos held detail : Nat) : Word := BitVec.ofNat 32 (cause + pos * 2 ^ 9 + held * 2 ^ 13 + detail * 2 ^ 16)

/-- The resume point of a cause raised by the word at the present clause's position. -/
def wordResume (w : Wave) (next : Bool) : Resume :=
  match w.clause with
  | none => { addr := w.pcHdr, pos := w.pcPos, wordPos := 0, prov := w.prov }
  | some c =>
    if c.inj then { addr := w.pcHdr, pos := 0, wordPos := c.pos, prov := c.prov }
    else if next then
      { addr := c.addr + BitVec.ofNat 64 (4 * (hdrCount c.hdr + 1)), pos := 0, wordPos := c.pos, prov := c.prov }
    else { addr := c.addr, pos := c.pos, wordPos := c.pos, prov := c.prov }

/-- The head of the injection queue marked as started at the present word (05 R121). -/
def markHead (w : Wave) : Wave :=
  match w.clause, w.inj with
  | some c, h :: r => if c.inj then { w with inj := { h with ipos := c.pos, started := true } :: r } else w
  | _, _ => w

/-- The wave's clause or queue as a trap leaves it. -/
def Wave.leaveClause (w : Wave) : TrapClause → Wave
  | .keep => w
  | .mark => markHead w
  | .past => (match w.clause with
    | some c => w.endClause c
    | none => w)
  | .drop => { w with inj := w.inj.drop 1 }

def Wave.setCbm (w : Wave) (c : Nat) : Wave := { w with cbm := w.cbm ||| BitVec.ofNat 512 (2 ^ c) }

/-- Trap entry (18 R404): a handler address of 0 kills the block, a TRAP entry is pushed, the cause is recorded, every lane
that has not exited goes to TVEC. `kept` says whether an injected clause stays queued. -/
def enterTrap (s : State) (k : Nat) (e : Trapped) (r : Resume) (kept : Bool) (c : TrapClause) : State :=
  match waveAt s k with
  | none => s
  | some w =>
    if w.tvec = 0 then killBlock s w.block 2 w.pcValue e.cause r.prov
    else match pushEntry s k (.trap r.addr r.pos e.cause w.exec) with
      | .error x =>
        if x.cause = 0x082 then setWave s k { w with hold := .entryGrowth e r kept c }
        else killBlock s w.block (if x.cause = 0x044 then 4 else if x.cause = 0x1C4 then 11 else 2) w.pcValue
          (if x.cause = 0x1C4 then e.cause else x.cause) r.prov
      | .ok s =>
        let s := modWave s k (fun w => { w.leaveClause c with
          tcause := tcauseWord e.cause r.wordPos 0 e.detail
          tprov := r.prov
          trec0 := BitVec.ofNat 64 e.addr
          trec1 := BitVec.ofNat 64 e.lanes
          trec2 := BitVec.ofNat 64 w.pidx
          pidx := 0
          exec := w.liveLanes
          pcHdr := w.tvec
          pcPos := 0
          clause := none
          hold := .no
          fencing := false
          polls := 0 })
        faultEvent s k e r kept

/-- The fetch and decode causes of 18 R407, which kill the block of a wave in handler mode wherever they are found. -/
def fetchOrDecode (cause : Nat) : Bool := (decide (1 ≤ cause) && decide (cause ≤ 8)) || cause == 0x080

/-- A cause taken at the present word: a shadowed block past its checkpoint rolls back on some, handler mode holds it in CBM,
and otherwise the wave enters its handler (18 R403, R407, R425). -/
def trapWord (s : State) (k : Nat) (e : Trapped) : State :=
  match waveAt s k with
  | none => s
  | some w =>
    if rollbackCause e && (blockAt s w.block).any (fun b => b.shadowed && b.shadow.isSome) then rollOrKill s w.block w.pcValue e.cause w.prov
    else if w.inHandler && fetchOrDecode e.cause then killBlock s w.block 2 w.pcValue e.cause w.prov
    else if w.inHandler then setWave s k (({ w with hold := .no, pidx := 0 }.setCbm e.cause).retireAt s.time)
    else enterTrap s k e (wordResume w e.next) true (if e.next && !(w.clause.any (fun c => c.inj)) then .past else .mark)

/-- A cause a word raises: private growth goes to the driver first (12 R273), any other is taken. -/
def raiseWord (s : State) (k : Nat) (e : Trapped) : State :=
  if e.cause = 0x082 then modWave s k (fun w => { w with hold := .growth e }) else trapWord s k e

/-- Resume at an address and position (02 R43). -/
def Wave.resume (w : Wave) (addr : DWord) (pos : Nat) : Wave := { w with pcHdr := addr, pcPos := pos, clause := none }

/-! ## Issue of a word (02 R34, R41, 18 R403, R411) -/

/-- The flag an attachment names in the present clause. -/
def attOf (w : Wave) (t : TOp) : Option Nat := match w.clause with
  | some c => attFlag c.hdr t.att
  | none => none

/-- Whether a flag can count one more operation (02 R40). -/
def flagRoom (w : Wave) : Option Nat → Bool
  | some f => w.flagCnt.look 0 f < 63
  | none => true

/-- What issue looks at: registers read and written, vector sources to check for tags with whether the word has `.b`, and
which deferred causes the word observes beside those of the registers it reads, and the flag the word attaches to. -/
structure Gate where
  reads : List RegRef := []
  writes : List RegRef := []
  tags : List (Nat × Bool) := []
  sees : Deferred → Bool := fun _ => false
  att : Option Nat := none

/-- Whether a read of these registers observes a deferred cause: a register it names, or one of a run that the window holds. -/
def Wave.observes (w : Wave) (l : List RegRef) (d : Deferred) : Bool :=
  d.regs.any (fun r => l.contains r) ||
  d.run.any (fun n => decide (w.base ≤ n) && decide (n < w.base + w.bud) && l.contains (.v (n % w.bud)))

/-- The number from the bottom of the call stack of the register in a physical slot of the window (02 R28). -/
def Wave.unphys (w : Wave) (p : Nat) : Nat := w.base + (p + w.bud - w.base % w.bud) % w.bud

/-- Registers that outstanding operations of the waves will write. -/
def pendingRegs (ws : List Wave) : List RegRef := ws.flatMap (fun w => w.pend.flatMap (fun p => p.dst))

/-- The worst-first check of R34 over the sources in order. -/
def tagCheck (v : View) (w : Wave) : List (Nat × Bool) → Option Trapped
  | [] => none
  | (i, b) :: r =>
    if tagIsP (v.tag i) then some { cause := 0x0C1, fresh := w.freshPoison.contains (w.phys i) }
    else if tagIsB (v.tag i) && !b then some { cause := 0x0C2 }
    else tagCheck v w r

/-- The lowest of a list of deferred causes. -/
def lowestCause (l : List Deferred) : Option Deferred :=
  l.foldl (fun m d => match m with
    | none => some d
    | some x => if d.cause < x.cause then some d else some x) none

/-- Whether a deferred cause is one that a shadowed block past its checkpoint rolls back on (18 R425). -/
def Deferred.rolls (d : Deferred) : Bool := d.cause == 0x086 || d.cause == 0x0C3

/-- Causes a wave takes among those observed: the wave without them, the others held in CBM, and the one to raise; in
handler mode all are held (18 R403, R407). Where the block is to roll back on one (`roll`), that one is taken (18 R425). -/
def takeDeferred (w : Wave) (p : Deferred → Bool) (roll : Bool := false) : Wave × Option Trapped :=
  let seen := w.deferred.filter p
  let w := { w with deferred := w.deferred.filter (fun d => !p d) }
  match lowestCause (if roll && seen.any Deferred.rolls then seen.filter Deferred.rolls else seen) with
  | none => (w, none)
  | some d =>
    if roll && d.rolls then (w, some { cause := d.cause, detail := d.detail })
    else if w.inHandler then (seen.foldl (fun w x => w.setCbm x.cause) w, none)
    else ((seen.filter (fun x => x.cause != d.cause)).foldl (fun w x => w.setCbm x.cause) w, some { cause := d.cause, detail := d.detail })

/-- Whether a wave's block is shadowed and past its first checkpoint. -/
def rollsBack (s : State) (w : Wave) : Bool := (s.blocks.look none w.block).any (fun b => b.shadowed && b.shadow.isSome)

/-- Whether a word may issue. -/
inductive Ready where
  | go (s : State) (w : Wave) | wait | trap (s : State) (e : Trapped)

/-- Whether a mem-class word of a wave waits for a `spcfg` of its block to finish (12 R280). -/
def waysHeld (s : State) (w : Wave) : Bool :=
  (w.clause.any (fun c => hdrClass c.hdr == 1)) && (s.blocks.look none w.block).any (fun b => b.waysPend.isSome)

/-- A compacted wave has taken causes: its home waves no longer hold them (12 R288). -/
def dropHeld (s : State) (k : Nat) (hs : List Nat) (seen : List Deferred) : State :=
  (hs.filter (fun h => h != k)).foldl (fun s h => modWave s h (fun x => { x with
    deferred := x.deferred.filter (fun d => d.regs.isEmpty || !seen.any (fun e => e.cause == d.cause && e.regs == d.regs)) })) s

/-- The checks before a word's own: pending registers, a flag that can count no more (02 R40), parity, deferred causes, tags. -/
def gate (s : State) (k : Nat) (w : Wave) (g : Gate) : Ready :=
  let homes := (homeKeys s k w).filterMap (fun h => if h = k then some w else waveAt s h)
  let busy := pendingRegs (w :: homes)
  if (g.reads ++ g.writes).any (fun r => busy.contains r) || !flagRoom w g.att || waysHeld s w then .wait
  else match g.reads.find? (fun r => homes.any (fun x => x.parityBad r)) with
    | some r => .trap (coreRecord s (coreOf k) 3 (ctxOf s w) errParity none) { cause := 0x0C3, detail := regDetail w r }
    | none =>
      let seen := fun (d : Deferred) => g.sees d || w.observes g.reads d
      let had := w.deferred.any seen
      match takeDeferred w seen (rollsBack s w) with
      | (x, some e) => .trap (dropHeld (setWave s k x) k (homeKeys s k w) (w.deferred.filter seen)) e
      | (w, none) =>
        let s := if had then setWave s k w else s
        match tagCheck (waveView s k w) w g.tags with
        | some e => .trap s e
        | none => .go s w

/-- What a word's effect makes of the state: it retires, its control effect follows, its cause is taken, or it waits. -/
def finish (s : State) (k : Nat) : Eff → State
  | .done t => retireWord t k
  | .after t f => match f (retireWord t k) with
    | .ok u => u
    | .error e => raiseWord s k e
  | .trap e => raiseWord s k e
  | .hold t => t

/-- Issue a word of the current wave: its gate, then its own rules. -/
def waveDo (s : State) (g : Wave → Gate) (body : State → Nat → Wave → Eff) : Res :=
  match s.cur with
  | .wave k => match waveAt s k with
    | none => .fault .noAgent
    | some w => match gate s k w (g w) with
      | .wait => .next s
      | .trap s e => .next (raiseWord s k e)
      | .go s w => .next (finish s k (body s k w))
  | _ => .fault .noAgent

/-- Registers an operand names, `n` of them for a vector. -/
def opndRegs (w : Wave) (n : Nat) : Opnd → List RegRef
  | .v i => (List.range n).map (fun j => .v (w.phys (i.toNat + j)))
  | .s i => [.s i.toNat]
  | .m i => if i.toNat < 8 then [.m i.toNat] else []
  | .k _ => []

/-- Vector sources of an operand with the word's `.b`. -/
def opndTags (n : Nat) (b : Bool) : Opnd → List (Nat × Bool)
  | .v i => (List.range n).map (fun j => (i.toNat + j, b))
  | _ => []

/-- The gate of operation `op`: sources A, B, C, and D too where `dsrc`; a run operand's registers where the entry fixes one. -/
def opGate (op : Nat) (t : TOp) (dsrc : Bool) (sees : Deferred → Bool) (w : Wave) : Gate :=
  match opInfo op with
  | none => {}
  | some i =>
    let src := [(i.a, max (i.runA t) (width64 (i.fa t)), t.a), (i.b, width64 (i.fb t), t.b),
      (i.c, max (i.runC t) (width64 (i.fc t)), t.c)].filter (fun p => p.1.used && !p.1.idle)
    let nd := if i.d.used then max (i.run t) (width64 (i.fd t)) else 0
    let d := if i.d.used then opndRegs w nd t.d else []
    { reads := src.flatMap (fun p => opndRegs w p.2.1 p.2.2) ++ (if dsrc then d else [])
      writes := d
      tags := src.flatMap (fun p => opndTags p.2.1 (t.bnd || i.bnd == .native) p.2.2) ++ (if dsrc then opndTags nd false t.d else [])
      sees := sees
      att := if i.long then attOf w t else none }

def noSees (_ : Deferred) : Bool := false

/-- Issue an operation of a working template. -/
def opDo (op : Nat) (t : TOp) (s : State) (body : State → Nat → Wave → Eff) : Res :=
  waveDo s (opGate op t false noSees) body

end Sys2Proof.Machine
end

