-- ==== Sys2Proof/Machine/Fetch.lean ====
section
/-! DEFINITION. From bytes to words: filling holes, the checks of a clause, fetching clauses and cox words. -/

namespace Sys2Proof.Machine

/-! ## Working templates (03 R57, R58) -/

/-- Target and width of hole descriptor `k`. -/
def holeOf (e k : Nat) : Nat × Nat := (e / 2 ^ (100 + 7 * k) % 8, e / 2 ^ (103 + 7 * k) % 16 + 1)

/-- Fill one hole with its value. -/
def fillHole (t : Nat) (target w v : Nat) : Nat :=
  match target with
  | 1 => insertBits t 28 w v
  | 2 => insertBits t 38 w v
  | 3 => insertBits t 48 w v
  | 4 => insertBits t 58 w v
  | 5 => insertBits t 68 32 (extTo true w 32 v)
  | 6 => insertBits t (68 + 32 - w) w v
  | 7 => insertBits t 16 w v
  | _ => t

/-- Fill holes from descriptor `k` on, taking bits from position `pos`. -/
def fillFrom (e h : Nat) : List Nat → Nat → Nat → Nat
  | [], _, t => t
  | k :: r, pos, t =>
    let (target, w) := holeOf e k
    if target = 0 then fillFrom e h r pos t
    else fillFrom e h r (pos + w) (fillHole t target w (h / 2 ^ pos % 2 ^ w))

/-- The working template of entry `e` and word `w`. -/
def workTemplate (e : BitVec 128) (w : Word) : BitVec 128 :=
  BitVec.ofNat 128 (fillFrom e.toNat (w.toNat % 2 ^ 24) [0, 1, 2, 3] 0 e.toNat)

/-! ## Words of a clause (03 R63, 02 R38, R45) -/

def wordIndex (w : Word) : Nat := fieldOf w 24 8

/-- The instruction of a clause's word. -/
def wordInstr (c : CWord) : Except Nat Instr :=
  if wordIndex c.raw < 0x14 then (match decodeFixed c.raw with
    | .ok i => .ok i
    | .error _ => .error 0x006)
  else if wordIndex c.raw < 0x20 then .error 0x006
  else match c.entry with
    | none => .error 0x003
    | some e => match decodeTemplate (workTemplate e c.raw) with
      | .ok i => .ok i
      | .error _ => .error 0x008

/-- The operation number of a word: of a fixed one by R67. -/
def fixedOp (i : Nat) : Nat :=
  if i ≤ 1 then i else if i ≤ 3 then 2 else if i ≤ 6 then 3 else if i ≤ 8 then 4 else i - 4

def wordOp (c : CWord) : Nat :=
  if wordIndex c.raw < 0x20 then fixedOp (wordIndex c.raw) else match c.entry with
    | none => 0
    | some e => fieldOf e 0 10

/-- The word a clause in issue stands at. -/
def clauseWord (c : Clause) : Option CWord := if c.pos = 0 then none else c.words[c.pos - 1]?

/-- The word with its index resolved in a dictionary slot of a core for a context. -/
def resolveWord (s : State) (core ctx slot : Nat) (w : Word) : CWord :=
  let d := (s.core core).slots.look {} slot
  { raw := w
    entry := if wordIndex w < 0x20 || d.state != .ready || d.owner != ctx then none else d.entries.look none (wordIndex w) }

/-- The first failure of an operand's checks (R59, R38 step 3.3): encoding, then register range. -/
def operandFault (bud run : Nat) (x : Kinds × Fmt × Opnd) : Option Nat :=
  if !x.1.used then none
  else if !kindOk x.1 x.2.1 x.2.2 then some 0x008
  else match x.2.2 with
    | .v i => if bud < i.toNat + max run (width64 x.2.1) then some 0x005 else none
    | _ => none

/-- The first failure of a word's decode: undefined entry, class, then operands and OPMOD. -/
def wordFault (cls bud : Nat) (c : CWord) : Option Nat :=
  let i := wordIndex c.raw
  if 0x14 ≤ i && i < 0x20 then some 0x006
  else if i < 0x14 then
    if i = 0 then none
    else if cls != 5 then some 0x004
    else if (i = 0x09 || i = 0x0A) && bud ≤ fieldOf c.raw 0 8 then some 0x005
    else if (i = 0x0B && fieldOf c.raw 19 5 == 0) || (i = 0x0C && fieldOf c.raw 6 5 == 0) then some 0x008
    else none
  else match c.entry with
    | none => some 0x003
    | some e =>
      let op := fieldOf e 0 10
      match opInfo op, fieldsOf (workTemplate e c.raw) with
      | some info, some t =>
        if !inClass op cls then some 0x004
        else
          (match operandFault bud (info.run t) (info.d, info.fd t, t.d), operandFault bud (info.runA t) (info.a, info.fa t, t.a),
              operandFault bud 1 (info.b, info.fb t, t.b), operandFault bud (info.runC t) (info.c, info.fc t, t.c) with
            | some f, _, _, _ => some f
            | none, some f, _, _ => some f
            | none, none, some f, _ => some f
            | none, none, none, some f => some f
            | none, none, none, none => if info.modOk t && info.extra t then none else some 0x008)
      | _, _ => some 0x003

/-- The flag attachment of a word. -/
def wordAtt (c : CWord) : BitVec 2 := match c.entry with
  | some e => BitVec.ofNat 2 (fieldOf e 26 2)
  | none => 0

/-- Header rules of R37, R39 and R40, an attachment to an absent flag among them. -/
def headerShape (h : Word) (ws : List CWord) : Bool :=
  let bad := fun n => decide (12 ≤ n) && decide (n < 15)
  bad (hdrSetA h) || bad (hdrSetB h) ||
  (hdrCount h == 0 && !(hdrSetA h == 15 && hdrSetB h == 15)) ||
  ws.any (fun c => (wordAtt c == 1 && hdrSetA h == 15) || (wordAtt c == 2 && hdrSetB h == 15))

/-- The same with R45's one word of a ctrl clause. -/
def headerBad (h : Word) (ws : List CWord) : Bool := headerShape h ws || (hdrClass h == 5 && decide (1 < hdrCount h))

/-- The first decode failure of a clause, with the failing word's position (R38). -/
def clauseFault (bud : Nat) (h : Word) (ws : List CWord) : Option (Nat × Nat) :=
  if fieldOf h 28 4 != 0xA then some (0x001, 0)
  else if headerBad h ws then some (0x002, 0)
  else
    let faults := ((List.range ws.length).zip ws).filterMap (fun p => (wordFault (hdrClass h) bud p.2).map (fun f => (f, p.1 + 1)))
    faults.head?

/-! ## Fetching for waves (02 R38, 05 R114) -/

/-- Word `i` of a line's data. -/
def lineWord (x : BitVec 1024) (off : Nat) : Word := BitVec.ofNat 32 (x.toNat / 256 ^ (off % 128))

/-- A word of code at its home as a fetch through a mapping reads it: none where a byte reports an uncorrected error, under its grade or
from another package, which may refuse the read (13 R298, R306). Its bytes are then those of the line the fetch has, where the
home still holds them. -/
def codeWord (s : State) (x : Xlat) (i : Nat) (line : Option (BitVec 1024)) : Option Word :=
  let got := (List.range 4).map (fun j => gradedByte s (x.pa + j) x.grade (900000 + 8 * i + j))
  let val := fun (l : List Byte) => BitVec.ofNat 32 (l.foldr (fun b n => b.toNat + 256 * n) 0)
  let now := BitVec.ofNat 32 (homeRead s x.pa 4)
  match line with
  | some l => if lineWord l (physNorm s x.pa) = now then (if got.any (·.2) then none else some (val (got.map (·.1)))) else some (lineWord l (physNorm s x.pa))
  | none => if got.any (·.2) then none else some (val (got.map (·.1)))

/-- A line of code of wave `k` as its core fetches it: an instruction cache or die cache copy that differs from the home may have
been evicted, a free choice; the first fetch of a line after the wave's `ifence` reads through to memory (06 R144). -/
def fetchLine (s : State) (k l i : Nat) : State × BitVec 1024 :=
  let c := coreOf k
  let core := s.core c
  let home := homeLine s l
  let fill := fun (s : State) (x : BitVec 1024) => (s.setCore c { core with icache := putLine s 5900000 icacheLines core.icache l x }, x)
  match (waveAt s k).bind (·.fenced) with
  | some seen => if seen.contains l then cached core home fill
      else
        let (s, x) := fill (atHome s l) home
        (modWave s k (fun w => { w with fenced := some (seen ++ [l]) }), x)
  | none => cached core home fill
where
  cached (core : Core) (home : BitVec 1024) (fill : State → BitVec 1024 → State × BitVec 1024) : State × BitVec 1024 :=
    let src := match (s.die (coreOf k / 32)).cache.look none l with
      | some y => if (List.range 4).all y.has && freeBit s (5000001 + 2 * i) then fill s y.data else fill (atHome s l) home
      | none => fill (atHome s l) home
    match core.icache.look none l with
    | some y => if y = home || freeBit s (5000000 + 2 * i) then (s, y) else src
    | none => src

/-- Fetch one word for wave `k`; a word that a commit has overwritten while the fetch may have been under way is the old or the
new one, a free choice (05 R115). `none` where it cannot be fetched. -/
def fetchWord (s : State) (k ctx va i : Nat) : State × Option Word :=
  if 2 ^ 56 ≤ va then (s, none) else
  match translate s (coreOf k) ctx va (500 + i) 4 with
  | (s, .error _) => (s, none)
  | (s, .ok x) =>
    let a := physNorm s x.pa
    if !x.x then (s, none)
    else if isPeer s a then (s, codeWord s x i none) else
    match fetchLine s k (a / 128) i with
    | (s, l) => match (waveAt s k).bind (fun w => if w.oldPc = w.pcHdr then w.oldWords.look none (a / 4) else none) with
      | some o => (s, if freeBit s (5500000 + i) then some o else codeWord s x i (some l))
      | none => (s, codeWord s x i (some l))

/-- Fetch `n` words from an address. -/
def fetchWords (s : State) (k ctx va i : Nat) : Nat → State × Option (List Word)
  | 0 => (s, some [])
  | n + 1 => match fetchWord s k ctx va i with
    | (s, none) => (s, none)
    | (s, some w) => match fetchWords s k ctx (va + 4) (i + 1) n with
      | (s, none) => (s, none)
      | (s, some r) => (s, some (w :: r))

/-! ## Fetching for coxes (04 R79) -/

/-- Lines of 128 bytes in the instruction cache of a cox. -/
def coxLines : Nat := 128

/-- A cox's word at its PC: on an umpire of physical memory, else of the installed context's code through the cox's instruction
cache, where a line held returns what it held or, by a free choice, what memory holds now (R79). -/
def coxFetch (s : State) (c : Nat) : State × Option Word :=
  let x := coxAt s c
  let pc := x.pc.toNat
  if 256 ≤ c then (if isPoison s pc || physKind s pc == .nothing || (isPeer s pc && freeBit s 6000002) then (s, none)
    else (atHome s (physNorm s pc / 128), some (BitVec.ofNat 32 (anyRead s pc 4))))
  else if 2 ^ 56 ≤ pc then (s, none)
  else match x.ctx with
    | none => (s, none)
    | some ctx => match translate s c ctx pc 600 4 with
      | (s, .error _) => (s, none)
      | (s, .ok t) =>
        if !t.x then (s, none)
        else if isPeer s t.pa then (s, codeWord s t 100 none)
        else
          let now := homeLine s (physNorm s t.pa / 128)
          let keep := fun (l : BitVec 1024) => (atHome (setCox s c { x with icache := putLine s 6000001 coxLines x.icache (pc / 128) l })
            (physNorm s t.pa / 128), codeWord s t 100 (some l))
          match x.icache.look none (pc / 128) with
          | some l => if l = now || freeBit s 6000000 then (s, codeWord s t 100 (some l)) else keep now
          | none => keep now

end Sys2Proof.Machine
end

