-- ==== Sys2Proof/Machine/Address.lean ====
section
/-! DEFINITION. Addresses of the access words: resolution and the checks of every lane (12 R268 to R284, 13 R301). -/

namespace Sys2Proof.Machine

/-! ## Resolution (R268 to R272) -/

/-- What an access asks of its address. `scratch` and `konst` are the causes a scratchpad or constant resolution raises, if
the word does not accept it, and `area` that of a global address in the constant area. -/
structure AccOpts where
  space : Nat := 0
  size : Nat
  align : Nat
  write : Bool := false
  read : Bool := false
  tagWrite : Bool := false
  multicast : Bool := false
  split : Bool := true
  scratch : Option Nat := none
  konst : Option Nat := none
  area : Option Nat := none
  path : Bool := true
  deriving DecidableEq, Repr

/-- What an address names: bytes of a block's scratchpad, or pieces of global virtual memory. -/
inductive Target where
  | spad (blk off : Nat) | virt (pieces : List (Nat × Nat))
  deriving DecidableEq, Repr

/-- Bytes a scratchpad address may name: SPAD, and the extension ways behind SPAD rounded up (R271, R280). -/
def spadHas (b : Block) (off n : Nat) : Bool :=
  let up := (b.spadSize + 65535) / 65536 * 65536
  (List.range n).all (fun i => off + i < b.spadSize || (up ≤ off + i && off + i < up + b.ext * 65536))

/-- The live block of a rank in a block's cluster. -/
def clusterBlock (s : State) (b : Block) (rank : Nat) : Option Nat :=
  (s.blocks.find? (fun p => match p.2 with
    | some x => x.launch == b.launch && x.cluster == b.cluster && x.rank == rank
    | none => false)).map (·.1)

/-- Blocks in a block's cluster. -/
def clusterSize (s : State) (b : Block) : Nat := match launchAt s b.launch with
  | some l => max 1 l.clusterSize
  | none => 1

/-- A tile operand address of block `blk`: the block it names and the offset (10 R217), the bytes apart. -/
def tileAddr (s : State) (blk a : Nat) : Option (Nat × Nat) :=
  match blockAt s blk with
  | none => none
  | some b =>
    let rank := a / 2 ^ 20 % 8
    if 2 ^ 24 ≤ a then none
    else if natBit a 23 then
      (if clusterSize s b ≤ rank then none else if rank = b.rank then some (blk, a % 2 ^ 20)
       else (clusterBlock s b rank).map (fun x => (x, a % 2 ^ 20)))
    else if rank != 0 then none
    else some (blk, a % 2 ^ 20)

/-- A range of scratchpad bytes that a tile operand address begins (10 R217). -/
def tileRange (s : State) (blk a n : Nat) : Option TileAddr :=
  match tileAddr s blk a with
  | none => none
  | some (x, off) => match blockAt s x with
    | some b => if spadHas b off n then some { blk := x, off := off } else none
    | none => none

/-- Private byte `o` of a lane of a wave (R272). -/
def privVa (c : Context) (pslot num lane o : Nat) : Nat :=
  c.pbase.toNat + (32 * pslot + num) * 32 * c.plim + o / 4 * 128 + 4 * lane + o % 4

/-- Whether an address lies in the constant area (R270). -/
def inConst (s : State) (ctx va n : Nat) : Bool :=
  match contextAt s ctx with
  | none => false
  | some c => va < c.cbase.toNat + c.csz && c.cbase.toNat < va + n

/-- Step 1 of R284: the address resolved, or its cause. -/
def resolve (s : State) (k : Nat) (w : Wave) (lane a : Nat) (o : AccOpts) : Except Nat Target :=
  match contextAt s (ctxOf s w), blockAt s w.block with
  | some c, some b =>
    let home := match laneHome k w lane with
      | some h => ((waveAt s h).getD w).num
      | none => w.num
    let spadAt := fun (x : Nat) =>
      match o.scratch with
      | some cause => .error cause
      | none => match tileRange s w.block x o.size with
        | some t => .ok (.spad t.blk t.off)
        | none => .error 0x087
    let privAt := fun (x : Nat) =>
      if c.plim ≤ x then .error 0x087
      else if o.size ≤ 4 then .ok (.virt [(privVa c b.pslot home lane x, o.size)])
      else if !o.split then .error 0x087
      else .ok (.virt ((List.range (o.size / 4)).map (fun i => (privVa c b.pslot home lane (x + 4 * i), 4))))
    let globAt := fun (x : Nat) =>
      if 2 ^ 56 ≤ x then Except.error 0x081
      else match o.area with
        | some cause => if inConst s (ctxOf s w) x o.size then .error cause else .ok (.virt [(x, o.size)])
        | none => .ok (.virt [(x, o.size)])
    match o.space with
    | 2 => if 2 ^ 32 ≤ a then .error 0x087 else spadAt a
    | 3 => if 2 ^ 32 ≤ a then .error 0x087 else privAt a
    | 4 => if c.csz < a + o.size then .error 0x087
        else (match o.konst with
          | some cause => .error cause
          | none => .ok (.virt [(c.cbase.toNat + a, o.size)]))
    | 1 => globAt a
    | _ =>
      let lw := c.lwin.toNat
      let pw := c.pwin.toNat
      if lw ≤ a && a < lw + 2 ^ 24 then spadAt (a - lw)
      else if pw ≤ a && a < pw + 2 ^ 32 then privAt (a - pw)
      else globAt a
  | _, _ => .error 0x087

/-- Whether an address lies in one of the context's windows, whose pages are never mapped (R268). -/
def inWindow (c : Context) (va : Nat) : Bool :=
  (c.lwin.toNat ≤ va && va < c.lwin.toNat + 2 ^ 24) || (c.pwin.toNat ≤ va && va < c.pwin.toNat + 2 ^ 32)

/-- Whether an address lies in the context's private region below its limit (R273). -/
def inPrivate (s : State) (ctx va : Nat) : Bool :=
  match contextAt s ctx with
  | none => false
  | some c =>
    let slots := match launchAt s c.launch with
      | some l => l.psmax
      | none => 65536
    c.pbase.toNat ≤ va && va < c.pbase.toNat + slots * 32 * 32 * c.plim

/-! ## The checks of a lane (R284) -/

/-- A failed check: its step, cause and, for 0x08C, its detail. -/
structure Failure where
  step : Nat
  cause : Nat
  detail : Option Nat := none
  deriving DecidableEq, Repr

/-- The valid paths of PEERRT p whose ports are UP, as path index and port (16 R375). -/
def peerPaths (s : State) (p : Nat) : List (Nat × Nat) :=
  (List.range 4).filterMap (fun i =>
    let e := s.peerrt.look 0 p
    let port := fieldOf e (8 * i) 5
    if bitOf e (8 * i + 7) && (s.ports.look {} port).state == .up && !(s.ports.look {} port).pool then some (i, port) else none)

/-- Whether an address is of this package, or of one that a usable path reaches. -/
def peerReach (s : State) (a : Nat) : Bool :=
  match physKind s a with
  | .peer p _ => !(peerPaths s p).isEmpty
  | _ => true

/-- Steps 3 to 5 for one piece of global memory. -/
def checkPiece (s : State) (core ctx : Nat) (o : AccOpts) (va n i : Nat) : State × Except Failure (List Loc) :=
  match translate s core ctx va i n with
  | (s, .error (c, d)) =>
    -- a spill page fails before its extent (R312)
    if c = 0x08C && (match mapping s core ctx va i with
      | .ok (x, _) => x.spill
      | .error _ => false) then (s, .error { step := 3, cause := 0x085 })
    else (s, .error { step := 4, cause := if c = 0x081 && inPrivate s ctx va then 0x082 else c, detail := if c = 0x08C then some d else none })
  | (s, .ok x) =>
    if (contextAt s ctx).any (fun c => inWindow c va) then (s, .error { step := 4, cause := 0x081 })
    else if x.spill then (s, .error { step := 3, cause := 0x085 })
    else if (o.read && !x.r) || (o.write && !x.w) || (o.tagWrite && !x.tw) || (o.write && inConst s ctx va n) then
      (s, .error { step := 5, cause := 0x083 })
    else if o.multicast && x.rcnt == 0 then (s, .error { step := 6, cause := 0x08A })
    else if o.path && !peerReach s x.pa then (s, .error { step := 6, cause := 0x150 })
    else
      -- an atomic through a replica-direct alias is performed at its one replica's home, whatever its scope (15 R332)
      let far := if o.write then (if o.multicast then (replicaStacks x.pte).map (inStack x.pa)
        else if x.rd && o.read then [x.pa] else x.others) else []
      let pa := if o.write then x.pa else x.nearest (core / 32)
      (s, .ok ((List.range n).map (fun j => .phys (pa + j) x.grade (far.map (· + j)))))

/-- The pieces of a lane in order. -/
def checkPieces (s : State) (core ctx : Nat) (o : AccOpts) (i : Nat) : List (Nat × Nat) → State × Except Failure (List Loc)
  | [] => (s, .ok [])
  | (va, n) :: r =>
    match checkPiece s core ctx o va n i with
    | (s, .error f) => (s, .error f)
    | (s, .ok l) => match checkPieces s core ctx o (i + 1) r with
      | (s, .error f) => (s, .error f)
      | (s, .ok m) => (s, .ok (l ++ m))

/-- Every check of one lane's address: the bytes it names, or the first failure. -/
def checkLane (s : State) (k : Nat) (w : Wave) (o : AccOpts) (lane a : Nat) : State × Except Failure (List Loc) :=
  match resolve s k w lane a o with
  | .error c => (s, .error { step := 1, cause := c })
  | .ok t =>
    if a % o.align != 0 then (s, .error { step := 2, cause := 0x084 })
    else match t with
      | .spad b off => (s, .ok ((List.range o.size).map (fun j => .spad b (off + j))))
      | .virt ps => checkPieces s (coreOf k) (ctxOf s w) o (10000 + 8 * lane) ps

/-- The causes of R284, which record the lane and its address; 0x08C is raised at its step 4 with a detail of its own (18 R405,
R406, 13 R312). -/
def addressCause (c : Nat) : Bool := [0x081, 0x082, 0x083, 0x084, 0x085, 0x087, 0x08C].contains c

/-- The cause a failed check raises for a lane, its address and the lanes that failed the same check. -/
def failTrap (f : Failure) (lane a lanes : Nat) : Trapped :=
  if addressCause f.cause then { cause := f.cause, detail := f.detail.getD lane, addr := a, lanes := lanes }
  else { cause := f.cause, lanes := lanes }

/-- What checking lanes gives: the lanes' bytes so far and the failures with their lanes and addresses. -/
abbrev Checked := List (Nat × List Loc) × List (Failure × Nat × Nat)

def checkEach (k : Nat) (w : Wave) (o : AccOpts) : State → Checked → List (Nat × Nat) → State × Checked
  | s, acc, [] => (s, acc)
  | s, acc, (lane, a) :: r =>
    match checkLane s k w o lane a with
    | (s, .ok l) => checkEach k w o s (acc.1 ++ [(lane, l)], acc.2) r
    | (s, .error f) => checkEach k w o s (acc.1, acc.2 ++ [(f, lane, a)]) r

/-- The checks of R284 over lanes and their addresses: the first check that any lane fails raises its cause, for the lowest
such lane. -/
def checkLanes (s : State) (k : Nat) (w : Wave) (o : AccOpts) (lanes : List (Nat × Nat)) :
    State × Except Trapped (List (Nat × List Loc)) :=
  match checkEach k w o s ([], []) lanes with
  | (s, (oks, [])) => (s, .ok oks)
  | (s, (_, f :: fs)) =>
    let least := (f :: fs).foldl (fun m x => min m x.1.step) f.1.step
    let bad := (f :: fs).filter (fun x => x.1.step == least)
    match bad with
    | [] => (s, .error { cause := f.1.cause })
    | x :: _ => (s, .error (failTrap x.1 x.2.1 x.2.2 (bad.foldl (fun m y => m + 2 ^ y.2.1) 0)))

/-! ## Operand addresses (R282) -/

/-- The lanes an access word acts for: once for a scalar form, the free lane number of the scalar path standing for its
lane, else the active ones. -/
def accLanes (v : View) (once : Bool) : List Nat := if once then [v.once] else v.active

/-- a(L) of R282, modulo 2^64. -/
def accAddr (v : View) (t : TOp) (sc : Nat) (zx : Bool) (l : Nat) : Nat :=
  wrapTo 64 ((srcBits v t .b64 t.a l : Int) + toInt (!zx) 32 (srcBits v t .i32 t.b l) * (2 : Int) ^ sc + toSigned 32 t.imm.toNat)

end Sys2Proof.Machine
end

