-- ==== Sys2Proof/Machine/Peer.lean ====
section
/-! DEFINITION. Requests to other packages: their paths, and what a timeout of one leaves (16 R375, R378, R380, R381). -/

namespace Sys2Proof.Machine

/-! ## What a copy moves (R356) -/

/-- Where a copy's address lies: a scratchpad, or global virtual memory. -/
inductive CopyLoc where
  | spad (blk off : Nat) | virt (va : Nat)

/-- A generic address of a copy; none for private memory and for a broken bound. -/
def copyResolve (s : State) (ctx blk a n : Nat) : Option CopyLoc :=
  match contextAt s ctx with
  | none => none
  | some c =>
    let lw := c.lwin.toNat
    let pw := c.pwin.toNat
    if lw ≤ a && a < lw + 2 ^ 24 then
      (if 2 ^ 20 < n then none else (tileRange s blk (a - lw) n).map (fun t => .spad t.blk t.off))
    else if pw ≤ a && a < pw + 2 ^ 32 then none
    else some (.virt a)

/-- The moves of a copy in source order: source, destination, bytes. -/
def CopyWork.moves : CopyWork → List (Nat × Nat × Nat)
  | .cpy d x n => [(x.toNat, d.toNat, n)]
  | .cpy2 d x rowb rows ss ds => (List.range rows).map (fun (i : Nat) =>
      (wrapTo 64 ((x.toNat : Int) + (i : Int) * ss), wrapTo 64 ((d.toNat : Int) + (i : Int) * ds), rowb))
  | .cpyg d srcs size => srcs.map (fun p => (p.2.toNat, wrapTo 64 ((d.toNat : Int) + p.1 * size), size))
  | .evpost _ _ => []

/-! ## Paths (R375) -/

/-- Whether an address of a context, or a copy's moves, reach another package. -/
def vaFar (s : State) (ctx va : Nat) : Bool := match walk s ctx va with
  | .ok y => isPeer s y.pa
  | .error _ => false
def movesFar (s : State) (ctx : Nat) (rs : Nat → Nat → Option CopyLoc) (moves : List (Nat × Nat × Nat)) : Bool :=
  moves.any (fun m => [m.1, m.2.1].any (fun a => match rs a m.2.2 with
    | some (.virt va) => vaFar s ctx va
    | _ => false))

/-- Messages of a core that await acknowledgement on a port: packets, and requests of its waves and its cox. -/
def onPort (s : State) (c port : Nat) : Nat :=
  let n := fun (l : List Pend) => (l.flatMap (fun p => p.reqs.filter (fun r => r.port == port))).length
  (s.packets.filter (fun q => coreOf q.wave == c && q.port == port)).length +
  (s.waves.filter (fun q => q.1 / 64 == c)).foldl (fun m q => m + q.2.elim 0 (fun w => n w.pend)) (n (coxAt s c).sbuf)

/-- Whether a copy or a chain of a core may have requests to another package on their way: how far the engine has come with them is not
kept (assumption 90). -/
def engineFar (s : State) (c : Nat) : Bool :=
  (s.core c).copies.any (fun r => !r.written && movesFar s r.ctx (copyResolve s r.ctx r.blk) r.work.moves) ||
  (s.core c).chains.any (fun ch => decide (ch.done < ch.tail))

/-- The path and port a request to a package takes: of the usable ones the port with the fewest messages of this core awaiting
acknowledgement, `sent` among them, then the lower index; with the engine's requests unknown a free one. -/
def choosePath (s : State) (c pkg : Nat) (sent : List FarReq) : Nat × Nat :=
  let ps := peerPaths s pkg
  if engineFar s c then (ps[freeNat s (4800018 + sent.length) % max 1 ps.length]?).getD (0, 0)
  else
    let n := fun (port : Nat) => onPort s c port + (sent.filter (fun r => r.port == port)).length
    (ps.foldl (fun (m : Option (Nat × Nat)) p => match m with
      | none => some p
      | some x => if n p.2 < n x.2 then some p else some x) none).getD (0, 0)

def partAddrs (parts : List Part) : List Nat := parts.flatMap (fun p => p.locs.flatMap (fun x => match x with
  | .phys a _ far => a :: far
  | .spad _ _ => []))

/-- Parts a work reads or writes, and whether it writes. -/
def workParts : Work → List Part × Bool
  | .load _ p _ => (p, false)
  | .store p _ a => (p, !a)
  | .atomic _ _ p _ _ => (p, true)
  | .region st _ _ _ => (st.map (·.part), st.any (·.store))
  | _ => ([], false)

/-- The lines of other packages that some parts name. -/
def farLines (s : State) (parts : List Part) : List Nat := (((partAddrs parts).filter (isPeer s)).map (fun a => physNorm s a / 128)).eraseDups

/-- The requests of a core for some lines of other packages, one for each line (assumption 107). -/
def sendReqs (s : State) (c : Nat) (lines : List Nat) : List FarReq :=
  lines.foldl (fun acc l => let p := choosePath s c (l / 2 ^ 33 % 256) acc; acc ++ [{ line := l, path := p.1, port := p.2 }]) []

/-! ## Timeouts (R381) -/

/-- A link-timeout record of a stack. -/
def linkTimeout (s : State) (stack port : Nat) : State := stackRecord s stack (1 + freeNat s 9 % 3) 6 port errTimeout none

/-- The record and the count of a timeout through a port. -/
def portTimeout (s : State) (n : Nat) : State :=
  let p := s.ports.look {} n
  linkTimeout { s with ports := s.ports.put {} n { p with timeouts := min 65535 (p.timeouts + 1) } } (n / 2) n

/-- Some requests time out, each counted and recorded at its port. -/
def timeoutReqs (s : State) (l : List FarReq) : State := l.foldl (fun s r => portTimeout s r.port) s

/-- An access that is answered within its step times out: whether it does, a free choice, and the requests that do. -/
def stepTimeout (s : State) (c i : Nat) (parts : List Part) : List FarReq :=
  let l := farLines s parts
  if l.isEmpty || !freeBit s i then [] else sendReqs s c l

/-! ## A wave that goes (R378) -/

/-- A wave that goes sends a clear for each remote destination with packets since its last flag. -/
def sendClears (s : State) (k : Nat) (w : Wave) : State :=
  (w.rdst.filter (fun d => d.cnt != 0)).foldl (fun s d =>
    let p := choosePath s (coreOf k) d.pkg []
    { s with nextId := s.nextId + 1
             packets := s.packets ++ [{ id := s.nextId, wave := k, pend := none, pkg := d.pkg, path := p.1, port := p.2, isFlag := true
                                        epoch := d.epoch, count := d.cnt, line := 0, mask := 0, data := 0 }] }) s

/-- A wave whose lanes have all exited goes once it has nothing outstanding and runs in no group. -/
def reap (s : State) (k : Nat) : State :=
  match waveAt s k with
  | none => s
  | some w =>
    if w.ended && w.pend.isEmpty && !((blockAt s w.block).any (fun b => b.groups.any (fun g => g.homes.contains k)))
    then dropWave (sendClears s k w) k w else s

end Sys2Proof.Machine
end

