-- ==== Sys2Proof/Machine/Access.lean ====
section
/-! DEFINITION. The bytes that loads read and stores write (12 R276 to R295, 11 R264). -/

namespace Sys2Proof.Machine

/-! ## Reading and writing bytes -/

/-- The sector that holds a byte, or its scratchpad. -/
def locKey (s : State) : Loc → Nat × Nat
  | .phys a g _ => (0, physNorm s a / 32 * 4 + gradeCode g)
  | .spad b _ => (b + 1, 0)

/-- Runs of bytes in one sector. -/
def locRuns (s : State) (l : List Loc) : List (List Loc) :=
  l.foldr (fun x acc => match acc with
    | (y :: g) :: r => if locKey s x == locKey s y then (x :: y :: g) :: r else [x] :: (y :: g) :: r
    | _ => [x] :: acc) []

/-- A scratchpad byte as it now is, and whether its word has an uncorrected error (20 R456). -/
def spadByte (s : State) (b o : Nat) : Byte × Bool := match blockAt s b with
  | some x => (x.spad.look 0 o, x.poison.look false (o / 4))
  | none => (0, false)

/-- The key of a location in the coherence orders: a physical byte, or a scratchpad byte. -/
def locAddr (s : State) : Loc → Nat
  | .phys a _ _ => physNorm s a
  | .spad b o => spadKey b o

/-- How a load reads: past both caches (`hs`), what a miss of a line installs, in the L1 and in the die cache, and the copy of a line
that it hit when it issued (12 R278, R283). -/
structure Through where
  hs : Bool := false
  inst : Nat → Bool × Bool := fun _ => (true, true)
  hit : Nat → Option Copy := fun _ => none

/-- What a read of bytes of one line took from it, each with the stamp it stands for: the bytes checked where the home holds them, and
the line's tag as of `t` (R287, 13 R307). -/
def lineGot (s : State) (g : Grade) (i t : Nat) (got : List (Nat × Byte × Nat)) : List Byte × Bool × Byte :=
  let bytes := ((List.range got.length).zip got).map (fun p =>
    if p.2.2.1 = homeByte s p.2.1 then gradedByte s p.2.1 g (i + p.1) else (p.2.2.1, false))
  (bytes.map (·.1), bytes.any (·.2), tagInstall (rtagAt s ((got.map (·.1)).headD 0) g t i))

/-- The oldest stamp of some bytes read. -/
def oldestOf (s : State) (got : List (Nat × Byte × Nat)) : Nat := got.foldl (fun m p => min m p.2.2) s.clock

/-- An agent has read those bytes, and the tag of their line where the grade has one. -/
def noteLine (s : State) (ag : Nat) (g : Grade) (got : List (Nat × Byte × Nat)) (t : Nat) : State :=
  noteRead s ag (got.map (fun p => (p.1, p.2.2)) ++ (if g = .x then [] else ((got.map (·.1)).head?.toList).map (fun a => (mdKey (a / 64) 0, t))))

/-- Bytes of one sector as an agent of core `c` reads them, all as of one stamp (R295): the values, whether one reported an
uncorrected error, and the line's tag. -/
def readRun (s : State) (c ctx ag : Nat) (v : Through) (i : Nat) (l : List Loc) : State × List Byte × Bool × Byte :=
  match l with
  | .phys pa g _ :: _ =>
    let as := l.filterMap (fun x => match x with
      | .phys a _ _ => some (physNorm s a)
      | .spad _ _ => none)
    if isPeer s pa then
      let bytes := ((List.range as.length).zip as).map (fun p => gradedByte s p.2 g (i + p.1))
      (s, bytes.map (·.1), bytes.any (·.2), tagInstall (rtagAt s pa g s.clock i))
    else
      let q := physNorm s pa / 32
      match sectorFor s c ctx ag q as v.hs (v.inst (q / 4)) (v.hit (q / 4)) i with
      | (s, x) =>
        let got := as.map (fun a =>
          let b := BitVec.ofNat 8 (x.data.toNat / 256 ^ (a % 32))
          (a, b, stampOf s a b x.stamp))
        -- the tag is as of the oldest of them
        match lineGot s g i (oldestOf s got) got with
        | (bs, bad, tag) => (noteLine s ag g got (oldestOf s got), bs, bad, tag)
  | _ =>
    let bytes := l.map (fun x => match x with
      | .spad b o => spadByte s b o
      | .phys _ _ _ => (0, false))
    (noteRead s ag (l.map (fun x => (locAddr s x, s.clock))), bytes.map (·.1), bytes.any (·.2), tagE)

/-- Read bytes of a lane for an agent of core `c`: from the copies its caches hold or the home, or from a scratchpad. -/
def readLocs (s : State) (c ctx ag : Nat) (v : Through) (i : Nat) (l : List Loc) : State × Got :=
  let step := fun (acc : State × Nat × List Byte × Bool × Byte) (r : List Loc) =>
    match readRun acc.1 c ctx ag v (i + acc.2.1) r with
    | (s, bs, bad, tag) => (s, acc.2.1 + r.length, acc.2.2.1 ++ bs, acc.2.2.2.1 || bad, tagWorst acc.2.2.2.2 tag)
  match (locRuns s l).foldl step (s, 0, [], false, tagE) with
  | (s, _, bs, bad, tag) => (s, ⟨bs.foldr (fun b x => b.toNat + 256 * x) 0, bad, tag⟩)

/-- The bytes of a lane's store, lowest first. -/
def partBytes (p : Part) : List (Loc × Byte) :=
  (List.range p.locs.length).zip p.locs |>.map (fun q => (q.2, BitVec.ofNat 8 (p.data.toNat / 256 ^ q.1)))

/-- A write of a scratchpad byte stands for the releases that it carries (14 R321). -/
def noteSpad (s : State) (b : Nat) (p : Nat × Byte) : State :=
  { s with hist := s.hist.put [] (spadKey b p.1) (if s.hand = {} then []
      else [{ at_ := s.clock, val := p.2, rels := s.hand.rels, atom := s.hand.atom }]) }

/-- The words of a scratchpad that some bytes cover whole: they lose an uncorrected error (20 R456). -/
def wholeWords (l : List (Nat × Byte)) : List Nat :=
  let os := (l.map (·.1)).eraseDups
  ((os.map (· / 4)).eraseDups).filter (fun w => (os.filter (fun o => o / 4 == w)).length == 4)

/-- Write scratchpad bytes of a block and readmit the waves that watch them (15 R350). -/
def spadWrite (s : State) (b : Nat) (l : List (Nat × Byte)) : State :=
  let s := modBlock s b (fun x => { x with
    spad := l.foldl (fun t p => t.put 0 p.1 p.2) x.spad
    poison := if x.poison.isEmpty then [] else (wholeWords l).foldl (fun t w => t.put false w false) x.poison })
  let s := l.foldl (fun s p => noteSpad s b p) s
  readmit s ((l.map (fun p => spadLine b p.1)).eraseDups)

def Loc.isPhys : Loc → Bool
  | .phys _ _ _ => true
  | .spad _ _ => false

/-- The release sequence that an atomic continues (14 R321): the releases carried by the write it reads, unless that is of an atomic it
is not mutually atomic with. -/
def carriedFrom (s : State) (me : Who) (scope t : Nat) (as : List Nat) : List Rel :=
  match as.head?.bind (fun a => writeAsOf s (physNorm s a) t) with
  | some w => if w.atom.all (fun u => synced u.1 u.2 me scope) then w.rels else []
  | none => []
def carried (s : State) (me : Who) (scope t : Nat) (ls : List Loc) : List Rel := carriedFrom s me scope t (ls.map (locAddr s))

/-- Physical bytes of a list under a grade, the further replicas included. -/
def physBytes (g : Grade) (l : List (Loc × Byte)) : List (Nat × Byte) :=
  l.flatMap (fun p => match p.1 with
    | .phys a g' far => if g' = g then (a :: far).map (fun x => (x, p.2)) else []
    | .spad _ _ => [])

def spadBytes (l : List (Loc × Byte)) : List (Nat × Nat × Byte) :=
  l.filterMap (fun p => match p.1 with
    | .spad b off => some (b, off, p.2)
    | .phys _ _ _ => none)

/-- Write bytes where they lie as part of the store being applied, in order, so that of two lanes the later stands (R286). -/
def putNow (s : State) (l : List (Loc × Byte)) : State :=
  let s := homePuts s ([Grade.x, .s, .p].flatMap (fun g => physBytes g l))
  ((spadBytes l).map (·.1)).eraseDups.foldl (fun s b =>
    spadWrite s b (((spadBytes l).filter (fun p => p.1 == b)).map (fun p => p.2))) s

/-- One more store, which writes some bytes. -/
def putLocs (s : State) (l : List (Loc × Byte)) : State := putNow s.tickStore l

/-- What the stores of some bytes leave beside their data. -/
def noteLocs (s : State) (l : List (Loc × Byte)) : State :=
  [Grade.x, Grade.s, Grade.p].foldl (fun s g =>
    let bs := physBytes g l
    if bs.isEmpty then s else noteStore s bs g) s

def writeLocs (s : State) (l : List (Loc × Byte)) : State := noteLocs (putLocs s l) l

/-- Bytes of a revoked extent are dropped (13 R313). -/
def dropRevoked (s : State) (l : List (Loc × Byte)) : List (Loc × Byte) :=
  l.filter (fun p => match p.1 with
    | .phys a _ _ => extentDetail s a != some 2
    | .spad _ _ => true)

/-- The next release at sy of an agent writes back the lines of some bytes it, or an engine of its, has written. -/
def noteWrote (s : State) (ag : Nat) (as : List Nat) : State :=
  modSight s ag (fun v => { v with wrote := (v.wrote ++ (linesOf s as).filter (fun l => (s.dirty.look none l).isSome)).eraseDups })

/-- An agent has written some physical bytes: it reads nothing older there. -/
def noteOwn (s : State) (ag : Nat) (as : List Nat) : State :=
  noteWrote (modSight s ag (fun v => { v with seen := as.foldl (fun t a => t.put 0 (physNorm s a) s.clock) v.seen })) ag as

/-- Store groups of bytes for an agent of core `c`, each by `put`, with what the store carries; the core's own copies follow. -/
def storeBy (put : State → List (Loc × Byte) → State) (s : State) (ag c ctx : Nat) (h : Hand) (l : List (List (Loc × Byte))) : State :=
  let bytes := dropRevoked s l.flatten
  let phys := [Grade.x, .s, .p].flatMap (fun g => physBytes g bytes)
  let s := noteLocs { l.foldl (fun s g => put s (dropRevoked s g)) { s with hand := h } with hand := {} } bytes
  updateCopies (noteOwn s ag (phys.map (·.1))) c ctx phys

/-- Store groups of bytes, each group at once. -/
def storeBytes (s : State) (ag c ctx : Nat) (h : Hand) (l : List (List (Loc × Byte))) : State := storeBy putLocs s ag c ctx h l

/-- Store the parts of an operation of an agent, each part whole (R295). -/
def storeParts (s : State) (ag c ctx : Nat) (h : Hand) (parts : List Part) : State := storeBytes s ag c ctx h (parts.map partBytes)

/-- Bytes as their homes hold them, and whether one reports an uncorrected error. -/
def locBytes (s : State) (ls : List Loc) (i : Nat) : List Byte × Bool :=
  let got := ((List.range ls.length).zip ls).map (fun p => match p.2 with
    | .phys a g _ => gradedByte s a g (i + p.1)
    | .spad b o => spadByte s b o)
  (got.map (·.1), got.any (·.2))

/-- Whether a value is what some bytes now hold; another package's are not known. -/
def holdsNow (s : State) (ls : List Loc) (v : Nat) : Bool := ((List.range ls.length).zip ls).all (fun p => match p.2 with
  | .phys a _ _ => isPeer s a || homeByte s a == BitVec.ofNat 8 (v / 256 ^ p.1)
  | .spad b o => (spadByte s b o).1 == BitVec.ofNat 8 (v / 256 ^ p.1))

/-- Reads at the home slices of some bytes (13 R310, R311). -/
def locsHome (s : State) (ls : List Loc) : State := (linesOf s (ls.map (locAddr s))).foldl atHome s

/-- Whether a block's access leaves its own scratchpad (18 R424). -/
def leavesBlock (b : Nat) (parts : List Part) : Bool :=
  parts.any (fun p => p.locs.any (fun l => match l with
    | .phys _ _ _ => true
    | .spad x _ => x != b))

/-! ## Outstanding operations of a wave -/

/-- Home waves of the lanes, kept with an operation of a compacted wave. -/
def pendHomes (w : Wave) : List (Option Nat) := match w.comp with
  | some c => c.homes.toList
  | none => []

/-- Issue an operation that stays outstanding; its stores carry the releases before it and `own`, a load keeps the copies it hit. -/
def issuePend (s : State) (k : Nat) (w : Wave) (t : TOp) (cls : PendCls) (dst : List RegRef) (work : Work) (hits : Tab (Option Copy) := [])
    (own : List Rel := []) : Eff :=
  if flagRoom w (attOf w t) then
    .done (setWave s k (w.addPend { id := w.nextId, flag := attOf w t, cls := cls, dst := dst, work := work, homes := pendHomes w
                                    reqs := sendReqs s (coreOf k) (farLines s (workParts work).1)
                                    rels := (sightOf s (agWave k)).marks ++ own, hits := hits }))
  else .hold s

/-- Every byte that some parts name, all replicas of it included. -/
def partLocs (s : State) (l : List Part) : List (Nat × Nat) := l.flatMap (fun p => p.locs.flatMap (fun x => match x with
  | .phys a _ far => (a :: far).map (fun b => (0, physNorm s b))
  | .spad b o => [(b + 1, o)]))

/-- Whether an outstanding operation is an acquire: the agent's later accesses follow it (14 R320). -/
def Pend.acquires (p : Pend) : Bool := match p.work with
  | .atomic sp _ _ _ _ => sp.acq
  | .region _ _ a _ => a
  | _ => false

/-- Whether an older operation of the same agent touches a common byte, or is an acquire: program order (R295, 14 R320, R324). A
store that has reached its home is past. -/
def olderConflict (s : State) (pend : List Pend) (id : Nat) (parts : List Part) : Bool :=
  let mine := partLocs s parts
  let past := fun (p : Pend) => match p.work with
    | .store _ _ a => a
    | _ => false
  pend.any (fun p => decide (p.id < id) && !past p && (p.acquires || (partLocs s (workParts p.work).1).any (fun x => mine.contains x)))

/-- An outstanding store whose bytes have not reached their home. -/
def Pend.unapplied (p : Pend) : Bool := match p.work with
  | .store _ _ a => !a
  | .atomic _ _ _ _ _ | .region _ _ _ _ => true
  | _ => false

/-- The lines of 128 bytes that some parts name, scratchpad lines among them. -/
def partLines (s : State) (l : List Part) : List (Nat × Nat) := ((partLocs s l).map (fun p => (p.1, p.2 / 128))).eraseDups

/-- The stores of a core's waves other than `k` that a bk release found accepted by the memory port and that have not reached their
homes. -/
def ported (s : State) (c : Nat) (k : Option Nat) : List Pend :=
  (s.waves.filter (fun q => q.1 / 64 == c && some q.1 != k)).flatMap (fun q => match q.2 with
    | some w => w.pend.filter (fun p => p.port != 0 && p.unapplied)
    | none => [])

/-- Whether an access of core `c` to some lines waits behind such a store: the port keeps every later access of the core to the same
line behind it (14 R318). `port` is the access's own mark. -/
def portBehind (s : State) (c : Nat) (k : Option Nat) (port : Nat) (parts : List Part) : Bool :=
  let mine := partLines s parts
  (ported s c k).any (fun p => (port == 0 || decide (p.port < port)) && (partLines s (workParts p.work).1).any (fun l => mine.contains l))

/-- The same for an access of wave `k`. -/
def portBlocked (s : State) (k port : Nat) (parts : List Part) : Bool := portBehind s (k / 64) (some k) port parts

/-- Whether a release of wave `k` at a scope wider than bk, or an engine operation it forks, still waits: stores of its core that it may
have acquired at bk have not all reached their homes (14 R322, R328). -/
def portPending (s : State) (k scope : Nat) : Bool := decide (2 ≤ scope) && !(ported s (k / 64) (some k)).isEmpty

/-- A bk release of wave `k` finds its stores accepted by the core's memory port. -/
def acceptStores (s : State) (k : Nat) : State := match s.waves.look none k with
  | some w => { s with waves := s.waves.put none k (some { w with
      pend := w.pend.map (fun p => if p.unapplied && p.port = 0 then { p with port := s.tick + 1 } else p) }) }
  | none => s

/-- A store that a bk release covers is applied: no wave of the core reads anything older there. -/
def notePorted (s : State) (k : Nat) (p : Pend) : State :=
  if p.port = 0 then s
  else (s.waves.filter (fun q => q.1 / 64 == k / 64 && q.2.isSome)).foldl (fun s q => noteOwn s (agWave q.1) (((partLocs s (workParts p.work).1).filter
    (fun x => x.1 == 0)).map (·.2))) s

/-- The work of a release of an agent at a scope, its waiting done (R318). -/
def releaseWork (s : State) (ag scope : Nat) : State :=
  if scope = 6 then flushWrote s ag else if scope = 1 ∧ ag % 3 = 0 then acceptStores s (ag / 3) else s

/-- A release fence: its later stores carry it (R320). -/
def releaseAt (s : State) (ag scope : Nat) : State :=
  let s := releaseWork s ag scope
  let r := relNow s (whoOf s ag) scope
  modSight s ag (fun v => { v with marks := v.marks.filter (fun x => x.scope != scope) ++ [r] })

/-! ## Outstanding misses (R277) -/

/-- Line misses a core may have outstanding. -/
def missEntries : Nat := 256

/-- The sectors that loads of some parts miss in the L1; of loads that read past it, all. -/
def missSectors (s : State) (c ctx : Nat) (past : Bool) (parts : List Part) : List Nat :=
  let as := parts.flatMap (fun p => p.locs.filterMap (fun x => match x with
    | .phys a _ _ => some (physNorm s a)
    | .spad _ _ => none))
  let held := fun (a : Nat) => !past && ((s.core (l1Of s c ctx a)).l1.look none (a / 128)).any (fun x => x.has (a / 32))
  ((as.filter (fun a => !held a)).map (· / 32)).eraseDups

/-- A miss of some sectors of a line: it joins one outstanding for the line. -/
def addMiss (fills : List Fill) (l : Nat) (qs : List Nat) (fill : Bool) : List Fill :=
  if fills.any (fun f => f.line == l) then
    fills.map (fun f => if f.line = l then { f with secs := (f.secs ++ qs).eraseDups, fills := f.fills || fill } else f)
  else fills ++ [{ line := l, secs := qs, fills := fill }]

/-- Misses of some sectors take their entries, of a load that fills the levels it passes or not; none where all 256 would not do. -/
def takeMisses (s : State) (c : Nat) (qs : List Nat) (fill : Bool) : Option State :=
  let ls := (qs.map (· / 4)).eraseDups
  let fills := ls.foldl (fun t l => addMiss t l (qs.filter (fun q => q / 4 == l)) fill) (s.core c).fills
  if missEntries < fills.length && (s.core c).fills.length < fills.length then none
  else some (s.setCore c { s.core c with fills := fills })

/-- Whether an outstanding miss of a line of a core still installs it, in the L1 and in the die cache. -/
def installs (s : State) (c l : Nat) : Bool × Bool :=
  let f := (s.core c).fills.filter (fun f => f.line == l && f.fills)
  (f.any (·.inst), f.any (·.die))

/-- Whether a load that joins an outstanding miss of a line, or makes one of its own, installs it. -/
def joinsInst (s : State) (c l : Nat) : Bool × Bool :=
  let f := (s.core c).fills.filter (fun f => f.line == l)
  (f.all (·.inst), f.all (·.die))

/-- The copies of an L1 that a load of some parts hits as it issues: those that serve all its bytes of their line, unless evicted before,
a free choice (R278). -/
def hitCopies (s : State) (c ctx ag : Nat) (parts : List Part) : Tab (Option Copy) :=
  let as := parts.flatMap (fun p => p.locs.filterMap (fun x => match x with
    | .phys a _ _ => some (physNorm s a)
    | .spad _ _ => none))
  ((as.map (· / 128)).eraseDups).foldl (fun t l => match (s.core (l1Of s c ctx (l * 128))).l1.look none l with
    | some x =>
      let mine := as.filter (fun a => a / 128 == l)
      if ((mine.map (· / 32)).eraseDups).all (fun q => x.serves s (sightOf s ag) q (mine.filter (fun a => a / 32 == q)) (2300000 + q)) &&
          freeBit s (2350000 + l) then t.put none l (some x) else t
    | none => t) []

/-- A load of some parts issues: its hits, and the L1 without the copies that could serve it and have been evicted before. While older
accesses of its wave to its bytes are outstanding it looks at nothing yet (R278, R295). -/
def loadHits (s : State) (c ctx ag : Nat) (parts : List Part) : State × Tab (Option Copy) :=
  let hits := hitCopies s c ctx ag parts
  let as := parts.flatMap (fun p => p.locs.filterMap (fun x => match x with
    | .phys a _ _ => some (physNorm s a)
    | .spad _ _ => none))
  let lost := ((as.map (· / 128)).eraseDups).filter (fun l => (hits.look none l).isNone &&
    ((s.core (l1Of s c ctx (l * 128))).l1.look none l).any (fun x => (as.filter (fun a => a / 128 == l)).all (fun a => x.has (a / 32))))
  (lost.foldl (fun s l =>
    let k := l1Of s c ctx (l * 128)
    s.setCore k { s.core k with l1 := (s.core k).l1.put none l none }) s, hits)

/-- Misses whose sectors have come give up their entries. -/
def endMisses (s : State) (c : Nat) (qs : List Nat) : State :=
  s.setCore c { s.core c with fills := ((s.core c).fills.map (fun f => if qs.any (fun q => q / 4 == f.line)
    then { f with secs := f.secs.filter (fun q => !qs.contains q) } else f)).filter (fun f => !f.secs.isEmpty) }

end Sys2Proof.Machine
end

