-- ==== Sys2Proof/Machine/ScarabOps.lean ====
section
/-! DEFINITION. Scarabs: what a scarab word sees and writes, its issue, its clauses, its faults (17 R383 to R392, R397). -/

namespace Sys2Proof.Machine

/-! ## Registers -/

/-- A vector register's lane of a scarab. -/
def scLane (x : Scarab) (i l : Nat) : Nat := (((x.vregs.look (Vector.replicate 64 0) i).toList[l]?).getD 0).toNat

/-- What a scarab's vector word sees: no tags, #wave the channel (R383, R385). -/
def scView (s : State) (k : Nat) (x : Scarab) : View :=
  { lanes := 64, exec := x.exec.toNat, vec := scLane x, sca := fun i => (x.sregs.look 0 i).toNat
    msk := fun j => if j = 0 then x.exec.toNat else (x.mregs.look 0 j).toNat
    tag := fun _ => tagE, wave := k % 16, once := freeNat s 100 % 64, lattice := defaultLattice }

/-- Replace lanes of a scarab register. -/
def setLanes64 (v : Vector Word 64) (vals : List (Nat × Nat)) : Vector Word 64 :=
  Vector.ofFn (fun i => match vals.find? (fun p => p.1 == i.val) with
    | some p => BitVec.ofNat 32 p.2
    | none => v[i])

def Scarab.writeVec (x : Scarab) (r : Nat) (vals : List (Nat × Nat)) : Scarab :=
  { x with vregs := x.vregs.put (Vector.replicate 64 0) r (setLanes64 (x.vregs.look (Vector.replicate 64 0) r) vals) }

/-- Write a mask: m0 within SAVED of the top mask-stack entry, all ones without one (R392). -/
def Scarab.writeMask (x : Scarab) (i v : Nat) : Scarab :=
  if i = 0 then { x with exec := BitVec.ofNat 64 v &&& (match x.maskStack with
    | e :: _ => e.saved
    | [] => BitVec.allOnes 64) }
  else { x with mregs := x.mregs.put 0 i (BitVec.ofNat 64 v) }

/-- Write a word's results. -/
def Scarab.apply (x : Scarab) (o : Out) : Scarab :=
  let x := o.vecs.foldl (fun x v => x.writeVec v.reg v.vals) x
  let x := o.scas.foldl (fun x p => { x with sregs := x.sregs.put 0 p.1 (BitVec.ofNat 64 p.2) }) x
  o.msks.foldl (fun x p => x.writeMask p.1 p.2) x

/-! ## Retiring and faulting -/

def Scarab.endClause (x : Scarab) (c : Clause) : Scarab :=
  { x with flagOpen := closeFlags x.flagOpen c.hdr, clause := none, pcPos := 0
           pcHdr := c.addr + BitVec.ofNat 64 (4 * (hdrCount c.hdr + 1)) }

/-- A word retires: the last one of its clause and every ctrl word end the clause, so that no word after a ctrl word issues (03 R72). -/
def Scarab.retire (x : Scarab) : Scarab :=
  match x.clause with
  | none => x
  | some c => if c.words.length ≤ c.pos || hdrClass c.hdr == 5 then x.endClause c else { x with clause := some { c with pos := c.pos + 1 }, pcPos := c.pos + 1 }

def retireScarab (s : State) (k : Nat) : State := setScarab s k (scarabAt s k).retire

/-- PC of a scarab in the layout of 02 R27. -/
def Scarab.pcValue (x : Scarab) : DWord := BitVec.ofNat 64 (x.pcPos * 2 ^ 56 + (x.pcHdr.toNat + 4 * x.pcPos) % 2 ^ 56)

/-- Messages buffered for a launch are discarded (R397). -/
def Scarab.dropMsgs (x : Scarab) (l : Nat) : Scarab := { x with msgs := x.msgs.filter (fun m => m.launch != l) }

/-- Every scarab of a launch is to stop at its next clause boundary, and the launch's messages go; no further block starts (R397). -/
def stopScarabs (s : State) (l : Nat) : State :=
  let s := { s with scarabs := s.scarabs.map (fun p =>
    (p.1, { p.2.dropMsgs l with stopping := p.2.stopping || (p.2.launch == l && (p.2.state == .running || p.2.state == .selfRefresh)) })) }
  modLaunch s l (fun x => { x with rowBlocks := [], unplaced := [] })

/-- A scarab fault at a PC ends its launch with the in-band error "scarab fault" (R397, R400). -/
def scarabFaultAt (s : State) (k cause : Nat) (pc : DWord) : State :=
  let x := scarabAt s k
  let s := inBand s x.launch { cls := 9, unit := 7, unitIx := k, addr := pc, cause := cause }
  let s := setScarab s k { x.dropMsgs x.launch with state := .stopped, cause := cause, clause := none, deferred := [], pend := x.pend.filter (fun p =>
    match p.work with
    | .collRecv _ _ _ _ _ => false
    | _ => true) }
  stopScarabs s x.launch

/-- A scarab fault at the word where the scarab stands. -/
def scarabFault (s : State) (k cause : Nat) : State := scarabFaultAt s k cause (scarabAt s k).pcValue

/-! ## Issue -/

def scRegs (n : Nat) : Opnd → List RegRef
  | .v i => (List.range n).map (fun j => .v (i.toNat + j))
  | .s i => [.s i.toNat]
  | .m i => [.m i.toNat]
  | .k _ => []

/-- What a word's effect makes of a scarab. -/
def scFinish (s : State) (k : Nat) : Eff → State
  | .done t => retireScarab t k
  | .after t f => match f (retireScarab t k) with
    | .ok u => u
    | .error e => scarabFault s k e.cause
  | .trap e => scarabFault s k e.cause
  | .hold t => t

/-- Issue a word of the current scarab that reads and writes these registers (02 R41). -/
def scarabDo (s : State) (regs : List RegRef) (body : State → Nat → Scarab → Eff) : Res :=
  match s.cur with
  | .scarab k =>
    let x := scarabAt s k
    if (x.pend.flatMap (fun p => p.dst)).any (fun r => regs.contains r) then .next s
    else .next (scFinish s k (body s k x))
  | _ => .fault .noAgent

/-- Registers of the operands an operation uses. -/
def scOpRegs (op : Nat) (t : TOp) : List RegRef :=
  match opInfo op with
  | none => []
  | some i => (i.operands t).flatMap (fun p => if p.1.used then scRegs 1 p.2.2 else [])

/-- Attach and issue an operation of a scarab that stays outstanding. -/
def Scarab.addPend (x : Scarab) (p : Pend) : Scarab :=
  { x with pend := x.pend ++ [p], nextId := x.nextId + 1, flagCnt := attachFlag x.flagCnt p.flag }

def Scarab.endPend (x : Scarab) (id : Nat) : Scarab :=
  match x.pend.find? (fun p => p.id == id) with
  | some p => { x with pend := x.pend.filter (fun q => q.id != id), flagCnt := releaseFlag x.flagCnt p.flag }
  | none => x

/-- The flag that a scarab's word attaches to. -/
def scFlag (x : Scarab) (t : TOp) : Option Nat := x.clause.bind (fun c => attFlag c.hdr t.att)

def scIssue (s : State) (k : Nat) (x : Scarab) (t : TOp) (cls : PendCls) (dst : List RegRef) (work : Work) : Eff :=
  .done (setScarab s k (x.addPend { id := x.nextId, flag := scFlag x t, cls := cls, dst := dst, work := work, rels := (sightOf s (agScarab k)).marks, pc := x.pcValue }))

/-- Issue a word of latency class L of the current scarab, which waits while its flag cannot count one more (02 R40). -/
def scarabOp (op : Nat) (t : TOp) (s : State) (body : State → Nat → Scarab → Eff) : Res :=
  scarabDo s (scOpRegs op t) (fun s k x => if (scFlag x t).any (fun f => 63 ≤ x.flagCnt.look 0 f) then .hold s else body s k x)

/-- Issue a word that a wave and a scarab both have. -/
def eitherDo (s : State) (g : Wave → Gate) (regs : List RegRef) (wave : State → Nat → Wave → Eff)
    (scarab : State → Nat → Scarab → Eff) : Res :=
  match s.cur with
  | .scarab _ => scarabDo s regs scarab
  | _ => waveDo s g wave

/-- Issue a vector ALU operation by the wave or scarab whose turn it is. -/
def aluDo (op : Nat) (t : TOp) (s : State) (f : View → TOp → Out) : Res :=
  match s.cur with
  | .scarab _ => scarabDo s (scOpRegs op t) (fun s k x => .done (setScarab s k (x.apply (f (scView s k x) t))))
  | _ => waveDo s (opGate op t false noSees) (fun s k w => .done (applyOut s k (f (waveView s k w) t)))

/-! ## Clauses (R384, R385) -/

/-- Fixed indices a scarab accepts. -/
def scFixed : List Nat := [0x00, 0x01, 0x02, 0x03, 0x0F, 0x12]

/-- Operations of a scarab's classes. -/
def scInClass (op cls : Nat) : Bool :=
  match cls with
  | 0 => (decide (0x040 ≤ op) && decide (op < 0x1C0)) || op == 0x327 || op == 0x328 || op == 0x329
  | 1 => op == 0x320 || op == 0x321 || op == 0x322 || op == 0x323 || op == 0x22E
  | 4 => op == 0x324 || op == 0x325 || op == 0x326
  | _ => false

/-- The operation numbers a scarab dictionary accepts. -/
def scOps (op : Nat) : Bool :=
  (decide (0x040 ≤ op) && decide (op ≤ 0x046)) || (decide (0x049 ≤ op) && decide (op ≤ 0x05C)) ||
  (decide (0x060 ≤ op) && decide (op ≤ 0x064)) || (decide (0x06A ≤ op) && decide (op ≤ 0x06E)) ||
  (decide (0x100 ≤ op) && decide (op ≤ 0x106)) || op == 0x180 || op == 0x22E || (decide (0x320 ≤ op) && decide (op ≤ 0x329))

/-- Formats to which a scarab dictionary limits an operation: those of its row of the map where it has but FMT none (the mask
operations), else the table's; the map alone judges those of 0x22E and 0x320 to 0x329 (R395). -/
def scFmts (op : Nat) (t : TOp) : Bool :=
  if op < 0x100 then
    (if (opInfo op).any (fun i => i.fmts == [.none]) then t.fmt == .none
     else [Fmt.b8, .b16, .b32, .i8, .i16, .i32, .n8, .n16, .n32].contains t.fmt)
  else if op ≤ 0x106 then t.fmt == .f32
  else if op = 0x180 then [Fmt.f32, .i32, .n32].contains t.fmt && [Fmt.f32, .i32, .n32].contains (secondFmt t)
  else true

/-- Scalar, mask and special-register indices a scarab has. -/
def scIndexOk : Opnd → Bool
  | .s i => decide (i.toNat < 16)
  | .m i => decide (i.toNat < 4)
  | _ => true

/-- The first decode failure of a scarab's word. -/
def scWordFault (cls : Nat) (c : CWord) : Option Nat :=
  let i := wordIndex c.raw
  if i < 0x14 then
    (if !scFixed.contains i then some 0x160 else if cls != 5 then some 0x004
     else if (i = 2 || i = 3) && 16 ≤ fieldOf c.raw 0 6 then some 0x008 else none)
  else if i < 0x20 then some 0x006
  else match c.entry with
    | none => some 0x003
    | some e =>
      let op := fieldOf e 0 10
      match opInfo op, fieldsOf (workTemplate e c.raw) with
      | some info, some t =>
        let one := fun (x : Kinds × Fmt × Opnd) =>
          if x.1.used && !scIndexOk x.2.2 then some 0x008 else operandFault 16 1 x
        if !scInClass op cls then some 0x004
        else
          (match one (info.d, info.fd t, t.d), one (info.a, info.fa t, t.a), one (info.b, info.fb t, t.b), one (info.c, info.fc t, t.c) with
            | some f, _, _, _ => some f
            | none, some f, _, _ => some f
            | none, none, some f, _ => some f
            | none, none, none, some f => some f
            | none, none, none, none =>
              if info.modOk t && info.extra t && scFmts op t && (op != 0x22E || t.opmod.toNat / 4 == 6) then none else some 0x008)
      | _, _ => some 0x003

/-- The first decode failure of a scarab's clause. -/
def scClauseFault (h : Word) (ws : List CWord) : Option Nat :=
  if fieldOf h 28 4 != 0xA then some 0x001
  else if headerShape h ws || (hdrCount h != 0 && [2, 3, 6, 7].contains (hdrClass h)) then some 0x002
  else (ws.filterMap (scWordFault (hdrClass h))).head?

/-- The word with its index resolved in the scarab's dictionary. -/
def scResolve (x : Scarab) (w : Word) : CWord := { raw := w, entry := if wordIndex w < 0x20 then none else x.dict.look none (wordIndex w) }

/-- Fetch one word through the base die: a walk of the context's tables, execute permission, the home's bytes. -/
def scFetchWord (s : State) (ctx va : Nat) : Option Word :=
  if 2 ^ 56 ≤ va then none else match walk s ctx va with
  | .error _ => none
  | .ok x => if !x.x || (extentDetail s x.pa).isSome || isPoison s x.pa then none else some (BitVec.ofNat 32 (anyRead s x.pa 4))

def scFetchWords (s : State) (ctx va : Nat) : Nat → Option (List Word)
  | 0 => some []
  | n + 1 => match scFetchWord s ctx va, scFetchWords s ctx (va + 4) n with
    | some w, some r => some (w :: r)
    | _, _ => none

/-- A stopping scarab leaves its wave at the boundary; its row operations in flight end first. -/
def stopAtBoundary (s : State) (k : Nat) : State :=
  let x := scarabAt s k
  let busy := x.pend.any (fun p => match p.work with
    | .load _ _ _ | .store _ _ _ => true
    | _ => false)
  if busy then s
  else setScarab s k { dict := x.dict, cause := x.cause, nextId := x.nextId, msgs := (x.dropMsgs x.launch).msgs }

/-- The start of a scarab's next clause: fetched, decoded, and started once its WAIT flags are clear and no deferred cause is
observed (R384). -/
def scarabStart (k : Nat) (s : State) : State :=
  let x := scarabAt s k
  if x.state != .running then s
  else match x.clause with
    | some c => if c.pos != 0 then s else if x.stopping then stopAtBoundary s k else go s k c
    | none =>
      if x.stopping then stopAtBoundary s k
      else match scFetchWord s x.ctx x.pcHdr.toNat with
        | none => scarabFault s k 0x080
        | some h => match scFetchWords s x.ctx (x.pcHdr.toNat + 4) (hdrCount h) with
          | none => scarabFault s k 0x080
          | some ws =>
            let ws := ws.map (scResolve x)
            (match scClauseFault h ws with
              | some cause => scarabFault s k cause
              | none => go s k { hdr := h, addr := x.pcHdr, words := ws, pos := 0, prov := x.pcHdr, inj := false })
where
  go (s : State) (k : Nat) (c : Clause) : State :=
    let x := scarabAt s k
    if (hdrWait c.hdr).any (Machine.flagPending x.flagCnt x.flagOpen) then setScarab s k { x with clause := some c }
    else match lowestCause (x.deferred.filter (fun d => d.flag.any (fun f => (hdrWait c.hdr).contains f))) with
      | some d => scarabFault s k d.cause
      | none =>
        let x := { x with flagOpen := openFlags x.flagOpen c.hdr, clause := some { c with pos := 1 }, pcPos := 1 }
        setScarab s k (if c.words.isEmpty then x.endClause c else x)

/-! ## Row operations (R390, R391) -/

/-- Physical address of a bank's burst of the bound row on the scarab's channel (13 R305). -/
def rowAddr (k row bank burst : Nat) : Nat :=
  2 ^ 40 + k / 16 * 2 ^ 36 + row * 2 ^ 21 + bank * 2 ^ 15 + burst * 2 ^ 12 + k % 16 * 2 ^ 8

/-- The scarab's wave ends: its block has one wave fewer (R388). -/
def endScarab (s : State) (k : Nat) : State :=
  let x := scarabAt s k
  setScarab s k { dict := x.dict, cause := x.cause, nextId := x.nextId, msgs := x.msgs }

/-- Whether an outstanding operation reads memory or a message, or stores. -/
def Pend.isLoad (p : Pend) : Bool := match p.work with
  | .load _ _ _ | .collRecv _ _ _ _ _ => true
  | _ => false

def Pend.isStore (p : Pend) : Bool := match p.work with
  | .store _ _ _ | .atomic _ _ _ _ _ | .region _ _ _ _ | .packets _ => true
  | _ => false

end Sys2Proof.Machine
end

