-- ==== Sys2Proof/Machine/MemWords.lean ====
section
/-! DEFINITION. The memory access words and fences: loads and stores, their runs and tagged forms, line operations, scratchpad
ways, aliases and metadata (12 R274 to R293, 13 R307, R308, 14 R318, R319). -/

namespace Sys2Proof.Machine

/-! ## Back-invalidation (20 R448) -/

/-- The lines of some bytes that the host may hold. -/
def heldLines (s : State) (as : List Nat) : List Nat := (linesOf s as).filter (fun l => s.hostLines.contains l)

/-- Snoops sent for host-held lines of a store, if there are any: the store waits for their acknowledgement. -/
def needSnoop (s : State) (as : List Nat) : Option State :=
  let h := heldLines s as
  if h.isEmpty then none else some { s with snoops := s.snoops ++ h.filter (fun l => !s.snoops.contains l) }

/-! ## Loads -/

/-- Parts of lanes without data. -/
def loadParts (ls : List (Nat × List Loc)) : List Part := ls.map (fun p => { lane := p.1, locs := p.2, data := 0 })

def loadDst (w : Wave) (n : Nat) : Opnd → LoadDst
  | .v i => .vec (w.phys i.toNat) (if n = 2 then some (w.phys (i.toNat + 1)) else none)
  | o => .scal (opndIx o)

/-- Read the parts of a load, each lane in turn; `inst` says of a line what a miss of it installs, `hit` which copy it hit. -/
def readParts (s : State) (k ctx cp : Nat) (inst : Nat → Bool × Bool) (parts : List Part) (hit : Nat → Option Copy := fun _ => none) :
    State × List (Nat × Got) :=
  parts.foldl (fun acc p => match readLocs acc.1 (coreOf k) ctx (agWave k)
      { hs := cp == 2, inst := if cp = 0 then inst else fun _ => (false, false), hit := hit } (20 * p.lane) p.locs with
    | (s, g) => (s, acc.2 ++ [(p.lane, g)])) (s, [])

/-- Home wave of a lane of an operation. -/
def pendHome (k : Nat) (homes : List (Option Nat)) (l : Nat) : Option Nat := if homes.isEmpty then some k else (homes[l]?).join
def pendKeys (k : Nat) (homes : List (Option Nat)) : List Nat := if homes.isEmpty then [k] else (homes.filterMap id).eraseDups

/-- Write lanes of a physical register in their home waves; `fresh` a poison of an uncorrected error (18 R425). -/
def writeLanes (s : State) (k : Nat) (homes : List (Option Nat)) (p : Nat) (vals : List (Nat × Nat)) (tag : Byte) (fresh : Bool) : State :=
  (pendKeys k homes).foldl (fun s h => modWave s h (fun x =>
    let x := x.writeVec p (vals.filter (fun q => pendHome k homes q.1 == some h)) tag false
    if fresh then { x with freshPoison := p :: x.freshPoison.filter (fun r => r != p) } else x)) s

/-- Write what a load returned: a vector load's tag is the worst of its lines, P for an error; a scalar load holds its cause
for its first observer (R287, R288). `cause` is raised for an error. -/
def deliverLoad (s : State) (k : Nat) (homes : List (Option Nat)) (flag : Option Nat) (d : LoadDst) (gs : List (Nat × Got))
    (bad : Bool) (cause : Nat) (path : Nat := 0) : State :=
  let worst := gs.foldl (fun t g => tagWorst t g.2.tag) tagE
  match d with
  | .vec p none => writeLanes s k homes p (gs.map (fun g => (g.1, g.2.val % 2 ^ 32))) (if bad then tagP else worst) bad
  | .vec p (some q) =>
    let tag := if bad then tagP else worst
    let s := writeLanes s k homes p (gs.map (fun g => (g.1, g.2.val % 2 ^ 32))) tag bad
    writeLanes s k homes q (gs.map (fun g => (g.1, g.2.val / 2 ^ 32 % 2 ^ 32))) tag bad
  | .whole p => writeLanes s k homes p (gs.map (fun g => (g.1, g.2.val % 2 ^ 32))) (if bad then tagP else worst) bad
  | .scal i =>
    let x := match gs with
      | g :: _ => g.2.val
      | [] => 0
    let keys := match waveAt s k with
      | some w => homeKeys s k w
      | none => []
    let s := keys.foldl (fun s h => modWave s h (fun w => w.writeSca i (BitVec.ofNat 64 x))) s
    let c := if bad then some cause else if tagIsP worst then some 0x0C1 else if tagIsB worst then some 0x0C2 else none
    -- every home wave of a compacted wave holds the cause with its value
    match c with
    | none => s
    | some c => (k :: keys.filter (fun h => h != k)).foldl (fun s h => modWave s h (fun w => { w with deferred := w.deferred ++
        [{ cause := c, detail := path, regs := [.s i], flag := if h = k then flag else none, cls := .mem, pathIx := path }] })) s

/-- The record of a load's uncorrected error: deferred or, for a scalar load, uncorrected (R287, R288). -/
def loadRecord (s : State) (k ctx : Nat) (d : LoadDst) (addr : Option Nat) : State :=
  let sev := match d with
    | .scal _ => 3
    | _ => if freeBit s 4999999 then 2 else 3
  coreRecord s (coreOf k) sev ctx errData addr

/-- The first physical byte of some parts. -/
def firstPhys (parts : List Part) : Option Nat := (partAddrs parts).head?

/-- An access word's lanes with their addresses. -/
def wordLanes (v : View) (t : TOp) (once : Bool) : List (Nat × Nat) :=
  (accLanes v once).map (fun l => (l, accAddr v t (t.opmod.toNat / 32 % 4) (bitOf t.opmod 7) l))

/-- What a load finds as it issues: nothing of the L1 past it, or behind older accesses of its wave (R278, R283, R295). -/
def lookHits (s : State) (k : Nat) (w : Wave) (cp : Nat) (parts : List Part) : State × Tab (Option Copy) :=
  if cp = 2 || olderConflict s w.pend w.nextId parts || portBlocked s k 0 parts then (s, [])
  else loadHits s (coreOf k) (ctxOf s w) (agWave k) parts

/-- Issue a load: its misses take their entries, or the word waits (R277); `.na` and `.hs` install nothing. -/
def issueLoad (s0 : State) (k : Nat) (w : Wave) (t : TOp) (dst : List RegRef) (d : LoadDst) (ls : List (Nat × List Loc)) (cp : Nat) : Eff :=
  let (s, hits) := lookHits s0 k w cp (loadParts ls)
  match takeMisses s (coreOf k) (missSectors s (coreOf k) (ctxOf s w) (cp == 2) (loadParts ls)) (cp == 0) with
  | none => .hold s0
  | some s => issuePend s k w t .mem dst (.load d (loadParts ls) cp) hits

def execLd (t : TOp) (s : State) : Res :=
  opDo 0x220 t s (fun s k w =>
    let n := fmtBits t.fmt / 8
    match checkLanes s k w { space := t.opmod.toNat % 8, size := n, align := n, read := true } (wordLanes (waveView s k w) t t.d.isS) with
    | (_, .error e) => .trap e
    | (s, .ok []) => .done s
    | (s, .ok ls) => issueLoad s k w t (opndRegs w (width64 t.fmt) t.d) (loadDst w (width64 t.fmt) t.d) ls (t.opmod.toNat / 8 % 4))

/-! ## Stores -/

/-- Parts of lanes with the value each stores. -/
def storeOf (v : View) (t : TOp) (ls : List (Nat × List Loc)) : List Part :=
  ls.map (fun p => { lane := p.1, locs := p.2, data := BitVec.ofNat 64 (srcBits v t t.fmt t.c p.1) })

/-- Send a store: it escapes a shadowed block where it leaves the block's scratchpad. -/
def issueStore (s : State) (k : Nat) (w : Wave) (t : TOp) (parts : List Part) (tag : Option Byte) : Eff :=
  issuePend (if leavesBlock w.block parts then escape s w.block else s) k w t .mem [] (.store parts tag false)

def storeEff (t : TOp) (multicast : Bool) (s : State) (k : Nat) (w : Wave) : Eff :=
  let v := waveView s k w
  let n := fmtBits t.fmt / 8
  match checkLanes s k w { space := t.opmod.toNat % 8, size := n, align := n, write := true, multicast := multicast } (wordLanes v t t.c.isS) with
  | (_, .error e) => .trap e
  | (s, .ok []) => .done s
  | (s, .ok ls) => issueStore s k w t (storeOf v t ls) none

def execSt (t : TOp) (s : State) : Res := opDo 0x221 t s (storeEff t false)

/-- Through the ordinary address of a replicated page it acts as `st`; through a replica-direct alias it reaches every replica
(R292). -/
def execStmc (t : TOp) (s : State) : Res := opDo 0x226 t s (storeEff t true)

/-! ## Runs (R289) -/

/-- A failure inside a run: the registers before it stand, PIDX names it. -/
def runFault (s : State) (k j : Nat) (e : Trapped) : Eff := .hold (raiseWord (modWave s k (fun w => { w with pidx := j })) k e)

/-- Whether some parts name bytes of another package. -/
def partsPeer (s : State) (parts : List Part) : Bool := (partAddrs parts).any (isPeer s)

/-- A store that its home's package refuses raises 0x086 at its first observer (13 R298). -/
def refusedStore (flag : Option Nat) (cls : PendCls) : Deferred :=
  { cause := 0x086, detail := 0, regs := [], flag := flag, cls := cls, atFence := true }

/-- A store whose request times out raises 0x151 at its first observer (16 R381). -/
def lateStore (flag : Option Nat) (cls : PendCls) (path : Nat) : Deferred :=
  { cause := 0x151, detail := path, regs := [], flag := flag, cls := cls, atFence := true, pathIx := path }

/-- Register `j` of a run of `ldg` or `stg`: its checks, then its accesses; or the cause it takes, or none where it waits for the
wave's earlier accesses to its bytes, for a miss entry or for the host. -/
def groupReg (isLoad : Bool) (t : TOp) (j : Nat) (s : State) (k : Nat) (w : Wave) : Except Trapped (Option State × State) :=
  let v := waveView s k w
  let n := fmtBits t.fmt / 8
  let step := width64 t.fmt
  let reg := fun o => opndIx o + j * step
  let t' := { t with imm := BitVec.ofInt 32 0 }
  let lanes := v.active.map (fun l => (l, wrapTo 64 ((accAddr v t' 0 (bitOf t.opmod 8) l : Int) + j * toSigned 32 t.imm.toNat)))
  match (if isLoad then none else tagCheck v w ((List.range step).map (fun i => (reg t.c + i, false)))) with
  | some e => .error e
  | none => match checkLanes s k w { space := t.opmod.toNat % 8, size := n, align := n, read := isLoad, write := !isLoad } lanes with
    | (_, .error e) => .error e
    | (s, .ok ls) =>
      let parts := if isLoad then loadParts ls else ls.map (fun p =>
        { lane := p.1, locs := p.2
          data := BitVec.ofNat 64 (if n = 8 then v.vec (reg t.c) p.1 + v.vec (reg t.c + 1) p.1 * 2 ^ 32 else v.vec (reg t.c) p.1 % 256 ^ n) })
      if olderConflict s w.pend w.nextId parts || portBlocked s k 0 parts then .ok (none, s)
      else if isLoad then
        let qs := missSectors s (coreOf k) (ctxOf s w) false parts
        match takeMisses s (coreOf k) qs true with
        | none => .ok (none, s)
        | some s => match readParts s k (ctxOf s w) 0 (installs s (coreOf k)) parts with
          | (s, gs) =>
            let bad := gs.any (fun g => g.2.bad)
            let d := loadDst w step (.v (BitVec.ofNat 8 (reg t.d)))
            -- a request to another package may time out: class P data (16 R381)
            let late := stepTimeout s (coreOf k) 4999997 parts
            let s := timeoutReqs (endMisses (if bad then loadRecord s k (ctxOf s w) d (firstPhys parts) else s) (coreOf k) qs) late
            .ok (some (if gs.isEmpty then s else deliverLoad s k (pendHomes w) none d gs (bad || !late.isEmpty) 0x086), s)
      else match needSnoop s (partAddrs parts) with
        | some s => .ok (none, s)
        | none =>
          let s := if leavesBlock w.block parts then escape s w.block else s
          let refused := partsPeer s parts && freeBit s 4999998
          let late := stepTimeout s (coreOf k) 4999997 parts
          let s := timeoutReqs (storeParts s (agWave k) (coreOf k) (ctxOf s w) { rels := (sightOf s (agWave k)).marks } parts) late
          let owed := match late with
            | r :: _ => [lateStore (attOf w t) .mem r.path]
            | [] => if refused then [refusedStore (attOf w t) .mem] else []
          .ok (some (if owed.isEmpty then s else modWave s k (fun w => { w with deferred := w.deferred ++ owed })), s)

/-- The word moves one register and stays with PIDX at the next, so that a context save may come between two (18 R417); it retires
with its last. Addresses and data are those of the word as it moves each register (assumption 81). -/
def groupEff (isLoad : Bool) (t : TOp) (s : State) (k : Nat) (w : Wave) : Eff :=
  let n := t.opmod.toNat / 8 % 32 + 1
  let j := w.pidx
  if n ≤ j then .done (modWave s k (fun w => { w with pidx := 0 }))
  else match groupReg isLoad t j s k w with
    | .error e => runFault s k j e
    | .ok (none, s) => .hold (modWave s k (fun w => { w with pidx := j }))
    | .ok (some s, _) =>
      if j + 1 < n then .hold (modWave s k (fun w => { w with pidx := j + 1 }))
      else .done (modWave s k (fun w => { w with pidx := 0 }))

/-- `stg` has the tags of its data checked register by register. -/
def groupGate (op : Nat) (t : TOp) (w : Wave) : Gate :=
  { opGate op t false noSees w with tags := (opGate op { t with c := .k 0 } false noSees w).tags }

def execLdg (t : TOp) (s : State) : Res := opDo 0x222 t s (groupEff true t)
def execStg (t : TOp) (s : State) : Res := waveDo s (groupGate 0x223 t) (groupEff false t)

/-! ## Whole registers with their tags (R290) -/

/-- Private offset of an address, if it names private memory. -/
def privOffset (c : Context) (space a : Nat) : Option Nat :=
  if space = 3 then some a
  else if space = 0 && c.pwin.toNat ≤ a && a < c.pwin.toNat + 2 ^ 32 then some (a - c.pwin.toNat) else none

/-- The four bytes of every lane of a whole-register access: 128 aligned global bytes, or each lane's own private word. -/
def wholeLocs (s : State) (k : Nat) (w : Wave) (o : AccOpts) (lane a : Nat) : State × Except Trapped (List (Nat × List Loc)) :=
  let fail := fun (f : Failure) => Except.error (failTrap f lane a (2 ^ lane))
  match contextAt s (ctxOf s w), blockAt s w.block with
  | some c, some b =>
    (match privOffset c o.space a with
      | some off =>
        if 2 ^ 32 ≤ off || c.plim ≤ off then (s, fail { step := 1, cause := 0x087 })
        else if off % 4 != 0 then (s, fail { step := 2, cause := 0x084 })
        else
          let num := fun l => ((laneHome k w l).bind (waveAt s)).elim w.num (fun x => x.num)
          (match checkPieces s (coreOf k) (ctxOf s w) o 9000 ((List.range 32).map (fun l => (privVa c b.pslot (num l) l off, 4))) with
            | (s, .error f) => (s, fail f)
            | (s, .ok locs) => (s, .ok ((List.range 32).map (fun l => (l, (locs.drop (4 * l)).take 4)))))
      | none => match checkLane s k w { o with size := 128, align := 128, scratch := some 0x088 } lane a with
        | (s, .error f) => (s, fail f)
        | (s, .ok locs) => (s, .ok ((List.range 32).map (fun l => (l, (locs.drop (4 * l)).take 4)))))
  | _, _ => (s, fail { step := 1, cause := 0x087 })

/-- Whether some bytes lie on a grade X page or in a scratchpad. -/
def noMetadata (ls : List (Nat × List Loc)) : Bool :=
  ls.any (fun p => p.2.any (fun x => match x with
    | .phys _ g _ => g == .x
    | .spad _ _ => true))

/-- A whole-register access: its checks, then `f` on the lanes' bytes. -/
def wholeEff (t : TOp) (write : Bool) (f : State → Wave → List (Nat × List Loc) → Eff) (s : State) (k : Nat) (w : Wave) : Eff :=
  let v := waveView s k w
  let a := accAddr v t 0 false v.once
  match wholeLocs s k w { space := t.opmod.toNat % 8, size := 4, align := 4, read := !write, write := write } v.once a with
  | (_, .error e) => .trap e
  | (s, .ok ls) => if noMetadata ls then .trap { cause := 0x088 } else f s w ls

def execLdt (t : TOp) (s : State) : Res :=
  opDo 0x224 t s (fun s k w => wholeEff t false (fun s w ls =>
    issueLoad s k w t (opndRegs w 1 t.d) (.whole (w.phys (opndIx t.d))) ls 0) s k w)

def execStt (t : TOp) (s : State) : Res :=
  opDo 0x225 t s (fun s k w => wholeEff t true (fun s w ls =>
    issueStore s k w t (storeOf (waveView s k w) { t with fmt := .b32 } ls) (some ((waveView s k w).tag (opndIx t.c)))) s k w)

/-! ## Lines: pf, cinv, cwb (R293) -/

/-- The lines the active lanes name, each once; for `pf` lanes that fail are dropped. -/
def laneLines (s : State) (ls : List (Nat × List Loc)) : List Nat :=
  (ls.flatMap (fun p => p.2.filterMap (fun x => match x with
    | .phys a _ _ => some (physNorm s a / 128)
    | .spad _ _ => none))).eraseDups

def lineOpts (t : TOp) : AccOpts :=
  { space := t.opmod.toNat % 8, size := 1, align := 1, read := true, scratch := some 0x087, konst := some 0x087 }

/-- The sectors of a line. -/
def lineSectors (l : Nat) : List Nat := (List.range 4).map (fun i => 4 * l + i)

/-- Fill a level with a line: the L1 by a miss whose fill arrives later, or none where it has no entry for it (R277). -/
def prefetch (s : State) (k ctx level l : Nat) : Option State :=
  if isPeer s (l * 128) then some s
  else match level with
  | 0 =>
    let held := ((s.core (l1Of s (coreOf k) ctx (l * 128))).l1.look none l).any (fun x => (List.range 4).all x.has)
    if held then some s else takeMisses s (coreOf k) (lineSectors l) true
  | 1 => some ((lineSectors l).foldl (fun s q => (belowL1 s (coreOf k) (agWave k) q [] false true q).1) s)
  | 2 => some (atHome s l)
  | _ => some (if physKind s (l * 128) == .pool && s.mcGiB != 0 && (s.msc.look none l).isNone then mscPut s l none else s)

/-- The lines, one after the other; none where one finds no entry. -/
def prefetchAll (s : State) (k ctx level : Nat) : List Nat → Option State
  | [] => some s
  | l :: r => (prefetch s k ctx level l).bind (fun s => prefetchAll s k ctx level r)

/-- Never faults: a lane that fails its checks is dropped, and no tag is asked for (R293). -/
def execPf (t : TOp) (s : State) : Res :=
  waveDo s (fun w => { opGate 0x227 t false noSees w with tags := [] }) (fun s k w =>
    let v := waveView s k w
    let step := fun (acc : State × List (Nat × List Loc)) (p : Nat × Nat) => match checkLane acc.1 k w (lineOpts t) p.1 p.2 with
      | (s, .ok l) => (s, acc.2 ++ [(p.1, l)])
      | (s, .error _) => (s, acc.2)
    let (s, ls) := (wordLanes v { t with opmod := 0 } false).foldl step (s, [])
    match prefetchAll s k (ctxOf s w) (t.opmod.toNat / 8 % 4) (laneLines s ls) with
    | some s => .done s
    | none => .hold s)

/-- Drop clean copies of a line from the L1, and from the die cache at level 1; a fill outstanding does not install (R278). -/
def dropLine (s : State) (k ctx level l : Nat) : State :=
  let c := l1Of s (coreOf k) ctx (l * 128)
  let s := (l1Mates s (coreOf k) ctx).foldl (fun s m => blockFills s m (fun x => x == l))
    (s.setCore c { s.core c with l1 := (s.core c).l1.put none l none })
  let die := s.die (coreOf k / 32)
  if level = 0 then s
  else blockDieFills (s.setDie (coreOf k / 32) { die with cache := die.cache.put none l none }) (coreOf k / 32) (fun x => x == l)

def lineEff (t : TOp) (f : State → Nat → Nat → State) (s : State) (k : Nat) (w : Wave) : Eff :=
  match checkLanes s k w (lineOpts t) (wordLanes (waveView s k w) { t with opmod := 0 } false) with
  | (_, .error e) => .trap e
  | (s, .ok ls) => .done ((laneLines s ls).foldl (fun s l => f s (ctxOf s w) l) s)

def execCinv (t : TOp) (s : State) : Res :=
  opDo 0x228 t s (fun s k w => lineEff t (fun s ctx l => dropLine s k ctx (t.opmod.toNat / 8 % 4) l) s k w)

def execCwb (t : TOp) (s : State) : Res := opDo 0x229 t s (fun s k w => lineEff t (fun s _ l => writeThrough s l) s k w)

/-! ## Scratchpad ways and aliases (R274, R280) -/

/-- A running `spcfg` of a block takes effect once no tile operation of the block is left: new ways read as zero, and the ways given
back return to caching empty (R280). -/
def settleWays (s : State) (b : Nat) : State :=
  match blockAt s b with
  | none => s
  | some x => match x.waysPend with
    | none => s
    | some (n, k, id) =>
      if (s.core (b / 64)).tileQ.any (fun r => r.blk == b) then s
      else
        let up := (x.spadSize + 65535) / 65536 * 65536
        let s := setBlock s b { x with ext := n, waysPend := none, spad := x.spad.filter (fun p => p.1 < up + min n x.ext * 65536) }
        modWave (if x.ext < n then convertWays s (b / 64) else s) k (fun w => w.endPend id)

/-- Checks its bounds and runs: later mem-class words of the block wait until it has completed. -/
def execSpcfg (t : TOp) (s : State) : Res :=
  opDo 0x22A t s (fun s k w =>
    match blockAt s w.block with
    | none => .done s
    | some b =>
      let n : Int := toSigned 64 (srcBits (waveView s k w) t .n64 t.a 0) + toSigned 32 t.imm.toNat
      if n < 0 || 12 < n then .trap { cause := 0x089 }
      else if (12 : Int) < coreWays s (coreOf k) - b.ext + n then .trap { cause := 0x089 }
      else match issuePend s k w t .mem [] (.ways n.toNat) with
        | .done s => .done (settleWays (modBlock s w.block (fun b => { b with waysPend := some (n.toNat, k, w.nextId) })) w.block)
        | e => e)

/-- Addresses `palias` gives lane by lane, or none where one is not private. -/
def execPalias (t : TOp) (s : State) : Res :=
  opDo 0x22B t s (fun s k w =>
    let v := waveView s k w
    match contextAt s (ctxOf s w), blockAt s w.block with
    | some c, some b =>
      let at_ := v.active.map (fun l => (l, wrapTo 64 ((srcBits v t .b64 t.a l : Int) + toSigned 32 (srcBits v t .i32 t.b l))))
      let bad := at_.filter (fun p => match privOffset c 0 p.2 with
        | some o => c.plim ≤ o
        | none => true)
      (match bad with
        | p :: _ => .trap { cause := 0x087, detail := p.1, addr := p.2, lanes := bad.foldl (fun m q => m + 2 ^ q.1) 0 }
        | [] =>
          let num := fun l => ((laneHome k w l).bind (waveAt s)).elim w.num (fun x => x.num)
          .done (applyOut s k { vecs := vecOut 64 (opndIx t.d) (at_.map (fun p =>
            (p.1, privVa c b.pslot (num p.1) p.1 (p.2 - c.pwin.toNat)))) tagE }))
    | _, _ => .trap { cause := 0x087 })

/-! ## Metadata (13 R307, R308) -/

/-- The bits of an image that the fields `mdst` names take (bits of `f`: rt, st, cs). -/
def mdMask (g : Grade) (f : Nat) : DWord :=
  (if natBit f 0 then 0xFF else 0) ||| (if natBit f 1 then (if g = .s then 0xFFFF00 else 0xFF00) else 0) |||
    (if natBit f 2 && g = .p then 0xFFFFFFFF00000000 else 0)

/-- Fields of a line replaced as `mdst` names them. -/
def mdMerge (g : Grade) (f : Nat) (old new : DWord) : DWord := (old &&& ~~~ mdMask g f) ||| (new &&& mdMask g f)

/-- The bytes of a line's image that some fields take. -/
def mdBytes (g : Grade) (f : Nat) : List Nat := (List.range 8).filter (fun j => fieldOf (mdMask g f) (8 * j) 8 != 0)

/-- Those bytes come last in their coherence orders, with what the store in hand carries (14 R315). -/
def mdPush (s : State) (l : Nat) (js : List Nat) (v : DWord) : State :=
  js.foldl (fun s j =>
    let before := match s.hist.look [] (mdKey l j) with
      | [] => [({ at_ := 0, val := BitVec.ofNat 8 (fieldOf (s.md.look 0 l) (8 * j) 8) } : Write)]
      | h => h
    let new : Write := { at_ := s.clock, val := BitVec.ofNat 8 (fieldOf v (8 * j) 8), rels := s.hand.rels, atom := s.hand.atom }
    { s with hist := s.hist.put [] (mdKey l j) (new :: before) }) s

/-- Write the metadata of a line through its mapping, its replicas included, and readmit its watchers. A line last written under
another grade has then the check bits of neither (R306). -/
def mdWrite (s : State) (a : Nat) (far : List Nat) (g : Grade) (f : Nat) (v : DWord) : State :=
  let put := fun (s : State) (x : Nat) =>
    if isPeer s x || isLost s x then s
    else
      let l := physNorm s x / 64
      let old := s.grades.look 0 l
      let s := mdPush (markDirty s x) l (mdBytes g f) v
      { mdPut s x (mdMerge g f (mdImage s x) v) with grades := s.grades.put 0 l (if old = 0 || old = gradeCode g + 1 then gradeCode g + 1 else 4) }
  let s := (a :: far).foldl put s
  readmit ((linesOf s (a :: far)).foldl atHome s) (linesOf s (a :: far))

/-- The line a metadata word's lane names: its byte, its replicas and its grade; none in a scratchpad. -/
def mdRow (p : Nat × List Loc) : Option (Nat × Nat × List Nat × Grade) := match p.2 with
  | .phys a g far :: _ => some (p.1, a, far, g)
  | _ => none

/-- The checks of R284, with alignment and the permission to write left for later, then those of R308 in their order. -/
def mdCheck (s : State) (k : Nat) (w : Wave) (t : TOp) (write : Bool) (lanes : List (Nat × Nat)) :
    State × Except Trapped (List (Nat × Nat × List Nat × Grade)) :=
  let f := t.opmod.toNat / 8
  let o : AccOpts := { space := t.opmod.toNat % 8, size := 1, align := 1, read := !write, konst := some 0x088 }
  let fail := fun (l : List (Nat × List Loc)) => (s, Except.error ({ cause := 0x088, lanes := l.foldl (fun m p => m + 2 ^ p.1) 0 } : Trapped))
  match checkLanes s k w o lanes with
  | (s, .error e) => (s, .error e)
  | (s, .ok ls) =>
    -- the constant area is of global addresses, whatever a private offset's number
    let konst := fun l => (lanes.find? (fun q => q.1 == l)).any (fun q => match resolve s k w l q.2 o with
      | .ok (.virt ps) => ps.any (fun p => inConst s (ctxOf s w) p.1 p.2)
      | _ => false)
    let bare := ls.filter (fun p => (mdRow p).all (fun r => r.2.2.2 == .x) || konst p.1)
    let short := ls.filter (fun p => (mdRow p).any (fun r => r.2.2.2 == .s))
    if !bare.isEmpty then fail bare
    else if write && natBit f 2 && !short.isEmpty then fail short
    else if write then
      match checkLanes s k w { o with write := true, tagWrite := natBit f 0 } lanes with
      | (s, .error e) => (s, .error e)
      | (s, .ok ls) => (s, .ok (ls.filterMap mdRow))
    else (s, .ok (ls.filterMap mdRow))

/-- Whether the wave has an outstanding access to one of some lines, or an acquire: metadata follows them in program order. -/
def lineBusy (s : State) (w : Wave) (as : List Nat) : Bool :=
  let ls := linesOf s as
  w.pend.any (fun p => p.acquires || (linesOf s (partAddrs (workParts p.work).1)).any (fun l => ls.contains l))

/-- Keys of bytes of the images of some lines, each with the present stamp. -/
def mdKeys (s : State) (as : List (Nat × List Nat)) : List (Nat × Nat) :=
  as.flatMap (fun p => if isPeer s p.1 then [] else p.2.map (fun j => (mdKey (physNorm s p.1 / 64) j, s.clock)))

/-- A wave has written bytes of the images of some lines: it reads nothing older there, and a release at sy writes the lines back. -/
def noteMd (s : State) (k : Nat) (js : Grade → List Nat) (rows : List (Nat × Grade)) : State :=
  noteWrote (modSight s (agWave k) (fun v => { v with
    seen := (mdKeys s (rows.map (fun r => (r.1, js r.2)))).foldl (fun t p => t.put 0 p.1 p.2) v.seen })) (agWave k) (rows.map (·.1))

/-- What a metadata word's destination is. -/
def mdDst (w : Wave) (t : TOp) : LoadDst := loadDst w 2 t.d

/-- A line that reports an uncorrected error is read as a load reads one (R287, R288); tags are no part of an image. -/
def execMdld (t : TOp) (s : State) : Res :=
  opDo 0x22C t s (fun s k w =>
    let v := waveView s k w
    match mdCheck s k w t false (wordLanes v { t with opmod := 0 } t.d.isS) with
    | (_, .error e) => .trap e
    | (s, .ok rows) =>
      if lineBusy s w (rows.map (fun r => r.2.1)) then .hold s else
      let gs := rows.map (fun r => let m := mdSeen s r.2.1 r.2.2.2 r.1; (r.1, (⟨m.1.toNat, m.2, tagE⟩ : Got)))
      let bad := gs.any (fun g => g.2.bad)
      let s := if bad then loadRecord s k (ctxOf s w) (mdDst w t) ((rows.map (fun r => r.2.1)).head?) else s
      let s := (linesOf s (rows.map (fun r => r.2.1))).foldl atHome s
      let s := noteRead s (agWave k) (mdKeys s (rows.map (fun r => (r.2.1, List.range 8))))
      .done (if gs.isEmpty then s else deliverLoad s k (pendHomes w) (attOf w t) (mdDst w t) gs bad 0x086))

def execMdst (t : TOp) (s : State) : Res :=
  opDo 0x22D t s (fun s k w =>
    let v := waveView s k w
    match mdCheck s k w t true (wordLanes v { t with opmod := 0 } t.c.isS) with
    | (_, .error e) => .trap e
    | (s, .ok []) => .done s
    | (s, .ok rows) => if lineBusy s w (rows.map (fun r => r.2.1)) then .hold s else match needSnoop s (rows.map (fun r => r.2.1)) with
      | some s => .hold s
      | none =>
        let f := t.opmod.toNat / 8
        let s := rows.foldl (fun s r => mdWrite s r.2.1 r.2.2.1 r.2.2.2 f (BitVec.ofNat 64 (srcBits v t .b64 t.c r.1)))
          { (escape s w.block).tickStore with hand := { rels := (sightOf s (agWave k)).marks } }
        let s := noteMd { s with hand := {} } k (fun g => mdBytes g f) (rows.map (fun r => (r.2.1, r.2.2.2)))
        .done (if rows.any (fun r => isPeer s r.2.1) && freeBit s 4999998 then
          modWave s k (fun w => { w with deferred := w.deferred ++ [refusedStore (attOf w t) .mem] }) else s))

/-! ## fence and fjoin (14 R318, R319) -/

/-- An outstanding load or returning atomic. -/
def Pend.returns (p : Pend) : Bool := match p.work with
  | .load _ _ _ | .collRecv _ _ _ _ _ => true
  | .atomic sp d _ _ _ => d.isSome || sp.acq
  | .region st _ a _ => a || st.any (fun x => x.dst.isSome)
  | _ => false

/-- Whether a fence of this order and scope still waits: a release at bk for loads, since the port has accepted every store, atomic and region, at cl and
wider for stores to be acknowledged too; an acquire for loads (R318). -/
def fenceBusy (ps : List Pend) (ord scope : Nat) : Bool :=
  (2 ≤ ord && 1 ≤ scope && ps.any Pend.isLoad) ||
  (2 ≤ ord && 2 ≤ scope && ps.any (fun p => p.returns || p.unapplied || p.isStore)) ||
  (ord % 2 == 1 && ps.any Pend.returns)

def execFence (t : TOp) (s : State) : Res :=
  let ord := t.opmod.toNat % 4
  let scope := t.opmod.toNat / 4
  eitherDo s (fun w => { sees := fun d => d.atFence && 2 ≤ ord && 2 ≤ scope && !fenceBusy w.pend ord scope }) []
    (fun s k w =>
      if fenceBusy w.pend ord scope || (2 ≤ ord && portPending s k scope) then .hold (setWave s k { w with fencing := true })
      else
        let s := if 2 ≤ ord then releaseAt s (agWave k) scope else s
        .done (if ord % 2 = 1 then acquireAt s (agWave k) (coreOf k) (ctxOf s w) scope else s))
    (fun s k x =>
      if fenceBusy x.pend ord scope then .hold s
      else
        let s := if 2 ≤ ord then releaseAt s (agScarab k) scope else s
        .done (if ord % 2 = 1 then syncSight s (agScarab k) scope else s))

/-- Whether a kind mask names a class of operations. -/
def joinHas (m : Nat) : PendCls → Bool
  | .mem => natBit m 0
  | .tile => natBit m 1
  | .xbar => natBit m 2
  | .async => natBit m 3
  | .rst => false

def execFjoin (t : TOp) (s : State) : Res :=
  let m := t.opmod.toNat
  let busy := fun (w : Wave) => w.pend.any (fun p => joinHas m p.cls)
  waveDo s (fun w => { sees := fun d => joinHas m d.cls && !busy w })
    (fun s k w => if busy w then .hold s else .done (if m < 2 then s else joinEngines s (agWave k)))

/-! ## Completion of accesses of waves and scarabs (R276, R285) -/

/-- The memory lines that some bytes lie in: of each its first byte, with the further replicas and the grade. -/
def mdLines (s : State) (l : List (Loc × Byte)) : List (Nat × List Nat × Grade) :=
  l.foldl (fun acc b => match b.1 with
    | .phys a g far => if acc.any (fun r => physNorm s r.1 / 64 == physNorm s a / 64) then acc else acc ++ [(a, far, g)]
    | .spad _ _ => acc) []

/-- Apply a store of a wave at its homes; that of a `stt` is one, the register tag in both lines with it (13 R307). -/
def applyWaveStore (s : State) (k ctx : Nat) (rels : List Rel) (parts : List Part) (tag : Option Byte) : State :=
  match tag with
  | none => storeParts s (agWave k) (coreOf k) ctx { rels := rels } parts
  | some t =>
    let rows := mdLines s (dropRevoked s (parts.flatMap partBytes))
    let s := storeBytes s (agWave k) (coreOf k) ctx { rels := rels } [parts.flatMap partBytes]
    let s := rows.foldl (fun s r => mdWrite s r.1 r.2.1 r.2.2 1 (t.zeroExtend 64)) { s with hand := { rels := rels } }
    noteMd { s with hand := {} } k (fun g => mdBytes g 1) (rows.map (fun r => (r.1, r.2.2)))

/-- A line as a whole-register load finds it, as of one stamp, its tags with it (13 R307): a copy it hit or one that holds all of it,
or the line at its home. -/
def wholeLine (s : State) (c ctx ag l : Nat) (inst : Bool × Bool) (hit : Option Copy) (i : Nat) : State × Copy :=
  let v := sightOf s ag
  let as := (List.range 128).map (fun j => 128 * l + j)
  let serves := fun (x : Copy) => x.oneStamp l &&
    (lineSectors l).all (fun q => x.serves s v q (as.filter (fun a => a / 32 == q)) (2000000 + 3 * i + q % 4))
  let fill := fun (j size : Nat) (t : Tab (Option Copy)) (x : Copy) => (lineSectors l).foldl (fun t q => fillSector s (j + i) size t q (x.sector q) (x.stamp q)) t
  let k := l1Of s c ctx (l * 128)
  let toL1 := fun (r : State × Copy) => if !inst.1 then r
    else (r.1.setCore k { r.1.core k with l1 := fill 7200000 (l1Lines r.1 k) (r.1.core k).l1 r.2 }, r.2)
  let home := fun (s : State) =>
    let low := as.foldl (fun m a => max m (v.lowAt (a / 32) a)) v.floor
    let t := low + freeNat s (2000002 + 3 * i) % (s.clock - low + 1)
    let x := (lineSectors l).foldl (fun (x : Copy) q => x.fill q (sectorAsOf s q t) t) {}
    let d := s.die (c / 32)
    (atHome (if !inst.2 then s else s.setDie (c / 32) { d with cache := fill 7100000 dieLines d.cache x }) l, x)
  match hit, (s.core k).l1.look none l, (s.die (c / 32)).cache.look none l with
  | some x, _, _ => (s, x)
  | none, some x, some y => if serves x then (s, x) else toL1 (if serves y then (s, y) else home s)
  | none, some x, none => if serves x then (s, x) else toL1 (home s)
  | none, none, some y => toL1 (if serves y then (s, y) else home s)
  | none, none, none => toL1 (home s)

/-- The bytes of some lanes of a line that a whole-register load took, each memory line's half with its tag. -/
def wholeLanes (s : State) (ag i : Nat) (x : Copy) (parts : List Part) : State × List (Nat × Got) :=
  let got := fun (p : Part) => p.locs.map (fun y =>
    let a := locAddr s y
    (a, x.byte a, stampOf s a (x.byte a) (x.stamp (a / 32))))
  let t := oldestOf s (parts.flatMap got)
  parts.foldl (fun acc p =>
    let g := match p.locs with
      | .phys _ g _ :: _ => g
      | _ => .x
    match lineGot acc.1 g (i + 20 * p.lane) t (got p) with
    | (bs, bad, tag) => (noteLine acc.1 ag g (got p) t, acc.2 ++ [(p.lane, ⟨bs.foldr (fun b x => b.toNat + 256 * x) 0, bad, tag⟩)])) (s, [])

/-- Read a whole register, line by line. -/
def readWhole (s : State) (k ctx : Nat) (inst : Nat → Bool × Bool) (hit : Nat → Option Copy) (parts : List Part) : State × List (Nat × Got) :=
  if (partAddrs parts).any (isPeer s) then readParts s k ctx 0 inst parts else
  ((parts.map (fun p => (p.locs.map (fun y => locAddr s y / 128)).headD 0)).eraseDups).foldl (fun acc l =>
    match wholeLine acc.1 (coreOf k) ctx (agWave k) l (inst l) (hit l) (20 * l) with
    | (s, x) => match wholeLanes s (agWave k) (20 * l) x (parts.filter (fun p => (p.locs.map (fun y => locAddr s y / 128)).headD 0 == l)) with
      | (s, gs) => (s, acc.2 ++ gs)) (s, [])

/-- What a load's data is when it returns: a whole register's as of one stamp. -/
def loadGot (s : State) (k ctx : Nat) (p : Pend) (d : LoadDst) (parts : List Part) (cp : Nat) : State × List (Nat × Got) :=
  let hit := fun l => p.hits.look none l
  match d with
  | .whole _ => readWhole s k ctx (installs s (coreOf k)) (fun l => (hit l).filter (fun x => x.oneStamp l)) parts
  | _ => readParts s k ctx cp (installs s (coreOf k)) parts hit

/-- An uncorrected error that an access to some parts met poisons the first of their sectors, or words of a scratchpad (20 R456). -/
def poisonParts (s : State) (parts : List Part) : State :=
  match (parts.flatMap Part.locs).head? with
  | some (.phys a _ _) => if isPeer s a then s else { s with poison := s.poison.put false (physNorm s a / 32) true }
  | some (.spad b o) => modBlock s b (fun x => { x with poison := x.poison.put false (o / 4) true })
  | none => s

/-- A load's data returns to its wave: its misses give up their entries, and install their lines unless those were invalidated (R278). -/
def waveLoadReturn (s : State) (k id : Nat) (err : Bool) : State :=
  match waveAt s k with
  | none => s
  | some w => match w.pend.find? (fun p => p.id == id) with
    | some p => (match p.work with
      | .load d parts cp =>
        if olderConflict s w.pend id parts || portBlocked s k p.port parts then s
        else
          let qs := missSectors s (coreOf k) (ctxOf s w) (cp == 2) parts
          match loadGot s k (ctxOf s w) p d parts cp with
          | (s, gs) =>
            let bad := err || gs.any (fun g => g.2.bad)
            let s := if err then poisonParts s parts else s
            let s := if bad then loadRecord s k (ctxOf s w) d (firstPhys parts) else s
            let s := deliverLoad (endMisses s (coreOf k) qs) k p.homes p.flag d gs bad 0x086
            modWave s k (fun w => w.endPend id)
      | _ => s)
    | none => s

/-- A store of a wave reaches its homes, once the host has given up the lines it may hold. -/
def waveStoreApply (s : State) (k id : Nat) : State :=
  match waveAt s k with
  | none => s
  | some w => match w.pend.find? (fun p => p.id == id) with
    | some p => (match p.work with
      | .store parts tag false =>
        if olderConflict s w.pend id parts || portBlocked s k p.port parts then s
        else match needSnoop s (partAddrs parts) with
          | some s => s
          | none =>
            let s := notePorted (applyWaveStore s k (ctxOf s w) p.rels parts tag) k p
            modWave s k (fun w => { w with pend := w.pend.map (fun q =>
              if q.id = id then { q with work := .store parts tag true } else q) })
      | _ => s)
    | none => s

/-- A store of a wave is acknowledged; a peer package may have refused it (13 R298). -/
def waveStoreAck (s : State) (k id : Nat) : State :=
  match waveAt s k with
  | none => s
  | some w => match w.pend.find? (fun p => p.id == id) with
    | some p => (match p.work with
      | .store parts _ true =>
        let refused := partsPeer s parts && freeBit s 4999998
        modWave s k (fun w => let w := w.endPend id
          if refused then { w with deferred := w.deferred ++ [refusedStore p.flag p.cls] } else w)
      | _ => s)
    | none => s

/-- The same for a scarab's row operations (17 R391): they read and write at the home slices, data bytes only. -/
def scarabLoadReturn (s : State) (k id : Nat) (err : Bool) : State :=
  let x := scarabAt s k
  match x.pend.find? (fun p => p.id == id) with
  | some p => (match p.work with
    | .load (.vec r _) parts _ =>
      if olderConflict s x.pend id parts then s
      else
        let step := fun (acc : State × List (Nat × Got)) (q : Part) =>
          match readLocs acc.1 256 x.ctx (agScarab k) { hs := true } (20 * q.lane) q.locs with
          | (s, g) => (s, acc.2 ++ [(q.lane, g)])
        match parts.foldl step (s, []) with
        | (s, gs) =>
          if err || gs.any (fun g => g.2.bad) then
            let s := if err then poisonParts s parts else s
            scarabFaultAt (stackRecord (setScarab s k (x.endPend id)) (k / 16) 3 7 k errData (firstPhys parts)) k 0x086 p.pc
          else setScarab s k ((x.writeVec r (gs.map (fun g => (g.1, g.2.val)))).endPend id)
    | _ => s)
  | none => s

def scarabStoreApply (s : State) (k id : Nat) : State :=
  let x := scarabAt s k
  match x.pend.find? (fun p => p.id == id) with
  | some p => (match p.work with
    | .store parts tag false =>
      if olderConflict s x.pend id parts then s
      else match needSnoop s (partAddrs parts) with
        | some s => s
        | none =>
          let bytes := dropRevoked s (parts.flatMap partBytes)
          let s := { noteLocs (putLocs { s with hand := { rels := p.rels } } bytes) bytes with hand := {} }
          setScarab (noteOwn s (agScarab k) (partAddrs parts)) k { x with pend := x.pend.map (fun q =>
            if q.id = id then { q with work := .store parts tag true } else q) }
    | _ => s)
  | none => s

def scarabStoreAck (s : State) (k id : Nat) : State :=
  let x := scarabAt s k
  match x.pend.find? (fun p => p.id == id) with
  | some p => (match p.work with
    | .store _ _ true => setScarab s k (x.endPend id)
    | _ => s)
  | none => s

end Sys2Proof.Machine
end

