-- ==== Sys2Proof/Machine/Engine.lean ====
section
/-! DEFINITION. What engines and umpires share: ranges of global memory, forks and joins, events that wait for room, and the
cancel of launches (04 R81, 14 R328, 19 R436). -/

namespace Sys2Proof.Machine

/-! ## Ranges of global memory -/

/-- A range cut at 64 KiB boundaries, the smallest page size (13 R300). -/
def pagePieces : Nat → Nat → Nat → List (Nat × Nat)
  | 0, _, _ => []
  | fuel + 1, va, n =>
    if n = 0 then []
    else
      let m := min n (65536 - va % 65536)
      (va, m) :: pagePieces fuel (va + m) (n - m)

def piecesOf (va n : Nat) : List (Nat × Nat) := pagePieces (n / 65536 + 2) va n

/-- The bytes of a range as a unit of core `core` reaches them, or the cause and the address of the first piece that fails. -/
def rangeLocs (s : State) (core ctx : Nat) (write : Bool) (i : Nat) : List (Nat × Nat) → State × Except (Nat × Nat) (List Loc)
  | [] => (s, .ok [])
  | (va, n) :: r =>
    if 2 ^ 56 < va + n then (s, .error (0x081, va))
    else match checkPiece s core ctx { size := n, align := 1, read := !write, write := write } va n i with
      | (s, .error f) => (s, .error (f.cause, va))
      | (s, .ok l) => match rangeLocs s core ctx write (i + 1) r with
        | (s, .error e) => (s, .error e)
        | (s, .ok m) => (s, .ok (l ++ m))

def engLocs (s : State) (core ctx va n : Nat) (write : Bool) (i : Nat) : State × Except (Nat × Nat) (List Loc) :=
  rangeLocs s core ctx write i (piecesOf va n)

/-- A little-endian number of bytes. -/
def bytesNat : List Byte → Nat
  | [] => 0
  | b :: r => b.toNat + 256 * bytesNat r

/-- Bytes `[lo, lo + n)` of a list as a number. -/
def natAt (l : List Byte) (lo n : Nat) : Nat := bytesNat ((l.drop lo).take n)

/-- Bytes that an agent reads at their homes as they now are, and whether one reports an uncorrected error. -/
def homeLoad (s : State) (ag : Nat) (ls : List Loc) (i : Nat) : State × List Byte × Bool :=
  (noteRead (locsHome s ls) ag ((ls.map (locAddr s)).map (fun a => (a, s.clock))), locBytes s ls i)

/-- A range read at its homes: its bytes, or the cause and address; 0x086 for an uncorrected error. -/
def engRead (s : State) (core ctx va n i : Nat) : State × Except (Nat × Nat) (List Byte) :=
  match engLocs s core ctx va n false i with
  | (s, .error e) => (s, .error e)
  | (s, .ok ls) => match locBytes s ls (40000 + i) with
    | (_, true) => (locsHome s ls, .error (0x086, va))
    | (bs, false) => (locsHome s ls, .ok bs)

/-- A range within a line read as a plain load of wave `k` (12 R276): its value, or the cause and address. -/
def plainRead (s : State) (k ctx va n i : Nat) : State × Except (Nat × Nat) Nat :=
  match engLocs s (coreOf k) ctx va n false i with
  | (s, .error e) => (s, .error e)
  | (s, .ok ls) => match readLocs s (coreOf k) ctx (agWave k) {} (40000 + i) ls with
    | (s, g) => (s, if g.bad then .error (0x086, va) else .ok g.val)

/-- A range read at its homes through some tables, as an umpire or a base die reads; none where a byte cannot be read. -/
def rangeRead (s : State) (tr : Nat → Except Nat Xlat) (va n : Nat) : Option (List Byte) :=
  let got : List (Option Byte) := (List.range n).map (fun i => match tr (va + i) with
    | .error _ => none
    | .ok x => if !x.r || (extentDetail s x.pa).isSome then none
        else let b := gradedByte s x.pa x.grade (30000 + i); if b.2 then none else some b.1)
  if got.all (fun b => b.isSome) then some (got.map (fun b => b.getD 0)) else none

/-! ## Stores of an engine -/

/-- Store bytes of a unit that works for agent `ag` of core `c`, with what the store carries. -/
def engPut (s : State) (ag c ctx : Nat) (h : Hand) (l : List (Loc × Byte)) : State :=
  let bytes := dropRevoked s l
  let phys := [Grade.x, .s, .p].flatMap (fun g => physBytes g bytes)
  let s := { writeLocs { s with hand := h } bytes with hand := {} }
  updateCopies (noteWrote s ag (phys.map (·.1))) c ctx phys

/-- Store a value at a global address for a context: done, refused at its home, or not translated. -/
inductive EngStore where
  | done (s : State) | refused (s : State) | fault (s : State)

def engStore (s : State) (ag : Nat) (h : Hand) (c ctx va n v i : Nat) : EngStore :=
  match engLocs s c ctx va n true i with
  | (s, .error _) => .fault s
  | (s, .ok ls) =>
    let s := engPut s ag c ctx h (partBytes { lane := 0, locs := ls, data := BitVec.ofNat 64 v })
    if (ls.any (fun l => match l with
      | .phys a _ _ => isPeer s a
      | .spad _ _ => false)) && freeBit s (4700000 + i) then .refused s
    else if ls.any (fun l => match l with
      | .phys a _ _ => isLost s a
      | .spad _ _ => false) then .refused s else .done s

/-- The physical bytes of a range a task stores to, for the snoops of host-held lines. -/
def storeAddrs (s : State) (c ctx va n : Nat) : List Nat := match engLocs s c ctx va n true 0 with
  | (_, .ok ls) => partAddrs [{ lane := 0, locs := ls, data := 0 }]
  | (_, .error _) => []

/-! ## Completing records -/

/-- Whether the older accesses of the wave that issued an operation have been performed, and the stores of its core that it may have
acquired at bk: they happen before what it forks (14 R328). -/
def forkReady (s : State) (k id : Nat) : Bool := (ported s (k / 64) (some k)).isEmpty && (match waveAt s k with
  | some w => w.pend.all (fun p => id ≤ p.id || !(p.returns || p.unapplied))
  | none => true)

/-- The thread of the engines' operations of a wave, and the release that an operation's completion write is (R320, R328). -/
def engWho (s : State) (k : Nat) : Who := { whoOf s (agWave k) with kind := .engine }
def engRel (s : State) (k scope : Nat) : Rel := relNow s (engWho s k) scope

/-- The release of an operation of wave `k` at a scope: at sy the lines its stores wrote are written back (R329). -/
def engRelease (s : State) (k scope : Nat) : State := if scope = 6 then flushWrote s (agWave k) else s

/-- The engine record of an operation. -/
def Pend.record (p : Pend) : Option Nat := match p.work with
  | .engine r => some r
  | _ => none

/-- An operation of a wave completes with a cause held for its first observer, if it has one; a join of the wave then takes up its
accesses. -/
def endOp (s : State) (k id : Nat) (cause : Option (Nat × Nat)) : State :=
  let s := modSight s (agWave k) (fun v => { v with joined := s.clock })
  modWave s k (fun w => match w.pend.find? (fun p => p.id == id), cause with
    | some p, some (c, d) => { w.endPend id with deferred := w.deferred ++ [{ cause := c, detail := d, regs := [], flag := p.flag, cls := p.cls, origin := p.record }] }
    | _, _ => w.endPend id)

/-! ## Events held for want of room (R81) -/

/-- The oldest held event enters a queue with room. -/
def releaseHeld (s : State) (c : Nat) : State :=
  match (s.core c).heldEvents with
  | e :: r => if eventRoom (coxAt s c) then queueEvent (s.setCore c { s.core c with heldEvents := r }) c e.1 e.2 else s
  | [] => s

/-! ## Operands of engine words -/

/-- A scalar or constant operand of a wave as a 64-bit integer. -/
def waveSca (w : Wave) (t : TOp) : Opnd → Nat
  | .s i => (w.sregs.look 0 i.toNat).toNat
  | .k c => constBits .n64 c.toNat t.imm 0 w.num
  | _ => 0

/-- Registers of a run that lie below the budget. -/
def runRegs (w : Wave) (i n : Nat) : List Nat := (List.range n).filterMap (fun j => if i + j < w.bud then some (i + j) else none)

end Sys2Proof.Machine
end

