-- ==== Sys2Proof/Machine/Copy.lean ====
section
/-! DEFINITION. Running copies and the records of command chains (16 R354, R357 to R363). -/

namespace Sys2Proof.Machine

/-! ## Line segments (R354, R357) -/

/-- A move cut at the 128-byte lines of its destination (12 R276). -/
def cutMove : Nat → Nat → Nat → Nat → List (Nat × Nat × Nat)
  | 0, _, _, _ => []
  | fuel + 1, x, d, n =>
    if n = 0 then []
    else
      let m := min n (128 - d % 128)
      (x, d, m) :: cutMove fuel (x + m) (d + m) (n - m)

/-- The line segments of a copy in source order. -/
def segsOf (moves : List (Nat × Nat × Nat)) : List (Nat × Nat × Nat) := moves.flatMap (fun m => cutMove (m.2.2 / 128 + 2) m.1 m.2.1 m.2.2)

/-- The memory lines of 64 bytes that a segment reaches: number, first byte of the segment in it, bytes (13 R307). -/
def halvesOf (d n : Nat) : List (Nat × Nat × Nat) :=
  let m := min n (64 - d % 64)
  (d / 64, 0, m) :: (if m < n then [(d / 64 + 1, m, n - m)] else [])

/-- Bytes that segments write in a memory line of their destination. -/
def lineBytes (segs : List (Nat × Nat × Nat)) (ln : Nat) : Nat :=
  ((segs.flatMap (fun g => halvesOf g.2.1 g.2.2)).filter (fun h => h.1 == ln)).foldl (fun n h => n + h.2.2) 0

/-- A segment ready to be written: where it goes, its source and destination bytes, the data, the tag for each memory line it reaches,
whether its data was bad. -/
structure Seg where
  dst : Nat
  src : List Loc
  locs : List Loc
  bytes : List Byte
  tags : List Byte
  bad : Bool
  deriving DecidableEq, Repr

/-- The memory lines of a segment with its bytes there and the tag. -/
def Seg.halves (g : Seg) : List (Nat × List Loc × Byte) :=
  ((halvesOf g.dst g.locs.length).zip g.tags).map (fun p => (p.1.1, (g.locs.drop p.1.2.1).take p.1.2.2, p.2))

def Seg.lines (g : Seg) : List Nat := (halvesOf g.dst g.locs.length).map (·.1)

/-- ERR of a failed translation or permission. -/
def copyErr (write : Bool) (cause : Nat) : Nat :=
  if cause = 0x085 then 5 else if cause = 0x150 then 9 else if write then 2 else 1

def spadLocs (s : State) (b off n : Nat) : Option (List Loc) :=
  if (blockAt s b).any (fun x => spadHas x off n) then some ((List.range n).map (fun i => .spad b (off + i))) else none

/-- The bytes of one side of a segment. -/
def sideLocs (s : State) (c ctx : Nat) (rs : Nat → Nat → Option CopyLoc) (a n : Nat) (write : Bool) (i : Nat) : State × Except Nat (List Loc) :=
  match rs a n with
  | none => (s, .error (if write then 2 else 1))
  | some (.spad b off) => (match spadLocs s b off n with
    | some l => (s, .ok l)
    | none => (s, .error (if write then 2 else 1)))
  | some (.virt va) => (match engLocs s c ctx va n write i with
    | (s, .ok l) => (s, .ok l)
    | (s, .error e) => (s, .error (copyErr write e.1)))

/-- The worst tag of the lines that some bytes lie in; a scratchpad gives E. -/
def locTag (s : State) (ls : List Loc) (i : Nat) : Byte := ls.foldl (fun t l => match l with
  | .phys a g _ => tagWorst t (tagInstall (rtagAt s a g s.clock i))
  | .spad _ _ => t) tagE

/-- Whether a destination cannot take a tag or a stash. -/
def metaBad (ls : List Loc) (tag : Byte) (stash : Bool) : Bool := ls.any (fun l => match l with
  | .phys _ g _ => (g == .x && tag != tagE) || (stash && g != .p)
  | .spad _ _ => false)

/-- Prepare segment `i` of a copy, or its ERR. -/
def prepSeg (s : State) (c ctx : Nat) (rs : Nat → Nat → Option CopyLoc) (stash err : Bool) (x d n i : Nat) : State × Except Nat Seg :=
  match sideLocs s c ctx rs x n false (2 ^ 55 + 4 * i) with
  | (s, .error e) => (s, .error e)
  | (s, .ok src) => match sideLocs s c ctx rs d n true (2 ^ 55 + 4 * i + 2) with
    | (s, .error e) => (s, .error e)
    | (s, .ok dst) =>
      let (bs, bad) := locBytes s src (2 ^ 50 + 128 * i)
      let g : Seg := { dst := d, src := src, locs := dst, bytes := bs, bad := bad || err
                       tags := (halvesOf d n).map (fun h => locTag s ((src.drop h.2.1).take h.2.2) (2 ^ 50 + 128 * i)) }
      let s := locsHome s src
      let refused := dst.any (fun l => match l with
        | .phys a _ _ => isPeer s a
        | .spad _ _ => false) && freeBit s (2 ^ 53 + i)
      if g.halves.any (fun h => metaBad h.2.1 h.2.2 stash) then (s, .error 4)
      else if refused then (s, .error 2)
      else (s, .ok g)

def prepAll (c ctx : Nat) (rs : Nat → Nat → Option CopyLoc) (stash err : Bool) : State → Nat → List (Nat × Nat × Nat) → State × List (Except Nat Seg)
  | s, _, [] => (s, [])
  | s, i, (x, d, n) :: r =>
    match prepSeg s c ctx rs stash err x d n i with
    | (s, e) => match prepAll c ctx rs stash false s (i + 1) r with
      | (s, l) => (s, e :: l)

/-- The tag of one memory line that a segment writes: `whole` says that the copy writes it whole, `first` that the segment is the first
to (R357). -/
def writeTag (s : State) (tag : Byte) (ls : List Loc) (whole first : Bool) : State :=
  match ls with
  | .phys a gr far :: _ =>
    if gr == .x then s
    else
      let t := if whole && first then tag else tagWorst (tagInstall (rtagAt s a gr s.clock (2 ^ 57))) tag
      mdWrite s a far gr 1 (t.zeroExtend 64)
  | _ => s

/-- Write one segment for agent `ag` as one access, its tags with it; `whole` names the memory lines the copy writes whole, `old` those it
has written in. -/
def writeSeg (s : State) (ag c ctx : Nat) (g : Seg) (whole : Nat → Bool) (old : List Nat) : State :=
  g.halves.foldl (fun s h => writeTag s h.2.2 h.2.1 (whole h.1) (!old.contains h.1)) (engPut s ag c ctx {} (g.locs.zip g.bytes))

/-- CSTASH of the memory lines of a segment written whole: the CRC-32 of their 64 bytes. -/
def stashLines (s : State) (whole : Nat → Bool) (g : Seg) : State :=
  (g.halves.filter (fun h => whole h.1)).foldl (fun s h => match h.2.1 with
    | .phys a .p far :: _ =>
      let crc := crc32 ((List.range 64).map (fun i => (homeByte s (a - a % 64 + i)).toNat))
      mdWrite s a far .p 4 (BitVec.ofNat 64 (crc * 2 ^ 32))
    | _ => s) s

/-- Destination sectors poisoned (ERR 3). -/
def poisonLocs (s : State) (ls : List Loc) : State :=
  { s with poison := (partAddrs [{ lane := 0, locs := ls, data := 0 }]).foldl (fun t a =>
      if isPeer s a then t else t.put false (physNorm s a / 32) true) s.poison }

def locId (s : State) : Loc → Nat × Nat
  | .phys a _ _ => (0, physNorm s a)
  | .spad b o => (b + 1, o)

/-- Whether source and destination ranges of some segments overlap. -/
def segsLap (s : State) (l : List Seg) : Bool :=
  let ds := l.flatMap (fun g => g.locs.map (locId s))
  l.any (fun g => g.src.any (fun x => ds.contains (locId s x)))

/-- The order segments are written in: where they overlap, a free one. -/
def segOrder (s : State) (lap : Bool) (n : Nat) : List Nat :=
  if lap then (List.range n).foldl (fun l i =>
    let p := freeNat s (2 ^ 56 + i) % (i + 1)
    l.take p ++ [i] ++ l.drop p) []
  else List.range n

/-- A segment with the data it carries when it is written: where the copy overlaps itself each byte is what its source held before the
copy or holds now (R357), a free choice. -/
def Seg.now (g : Seg) (s : State) (lap : Bool) (i : Nat) : Seg :=
  if lap then { g with bytes := ((List.range g.bytes.length).zip (g.bytes.zip (locBytes s g.src (2 ^ 51 + 128 * i)).1)).map (fun p =>
    if freeBit s (2 ^ 52 + 128 * i + p.1) then p.2.2 else p.2.1) } else g

/-- Write segments with their tags, then the stashes of the memory lines that `whole` names; `old` are those written in before. Answers
the segments as written, in source order. -/
def writeSegs (s : State) (ag c ctx : Nat) (stash : Bool) (whole : Nat → Bool) (old : List Nat) (l : List Seg) : State × List Seg :=
  let lap := segsLap s l
  let step := fun (acc : State × List Nat × List (Nat × Seg)) (i : Nat) => match l[i]? with
    | none => acc
    | some g =>
      let g := g.now acc.1 lap i
      (writeSeg acc.1 ag c ctx g whole acc.2.1, g.lines ++ acc.2.1, (i, g) :: acc.2.2)
  match (segOrder s lap l.length).foldl step (s, old, []) with
  | (s, _, done) =>
    let segs := (List.range l.length).filterMap (fun i => (done.find? (fun p => p.1 == i)).map (·.2))
    (if stash then segs.foldl (fun s g => stashLines s whole g) s else s, segs)

/-- The segments that may be written, and the failures with the segment whose data is bad. -/
def goodSegs (l : List (Except Nat Seg)) : List Seg := l.filterMap (fun e => match e with
  | .error _ => none
  | .ok g => if g.bad then none else some g)
def badSegs (l : List (Except Nat Seg)) : List (Nat × Option Seg) := l.filterMap (fun e => match e with
  | .error e => some (e, none)
  | .ok g => if g.bad then some (3, some g) else none)

def segsCrc (c : Nat) (l : List Seg) : Nat := crc32Run c (l.flatMap (fun g => g.bytes.map (·.toNat)))

/-! ## Running a copy (R357, R358, R360) -/

/-- A copy's bookkeeping: what it moves and how, and how far an earlier run came (R360). -/
structure CopyJob where
  ag : Nat
  ctx : Nat
  rs : Nat → Nat → Option CopyLoc
  moves : List (Nat × Nat × Nat)
  crc : Bool
  stash : Bool
  seg : Nat
  part : Nat

/-- The memory lines in which earlier segments of a copy have written. -/
def linesIn (segs : List (Nat × Nat × Nat)) : List Nat := segs.flatMap (fun g => (halvesOf g.2.1 g.2.2).map (·.1))

/-- Run a copy from where it stands: ERR and CRC. Where a segment fails, or `stop` names an ERR from outside, the copy ends with one of
the failures and a free part of the other segments is written. -/
def runCopy (s : State) (c : Nat) (j : CopyJob) (err : Bool) (stop : Option Nat) : State × Nat × Nat :=
  let segs := segsOf j.moves
  let past := segs.take j.seg
  let old := linesIn past
  match prepAll c j.ctx j.rs j.stash err s j.seg (segs.drop j.seg) with
  | (s, l) =>
    let good := goodSegs l
    let part := ((List.range good.length).zip good).filterMap (fun p => if freeBit s (2 ^ 54 + p.1) then some p.2 else none)
    let wholePart := fun ln => lineBytes (past ++ part.map (fun g => (0, g.dst, g.bytes.length))) ln == 64
    match stop with
    | some e => ((writeSegs s j.ag c j.ctx j.stash wholePart old part).1, e, 0)
    | none => match (badSegs l)[freeNat s 12 % max 1 (badSegs l).length]? with
      | none => match writeSegs s j.ag c j.ctx j.stash (fun ln => lineBytes segs ln == 64) old good with
        | (s, done) => (s, 0, if j.crc then segsCrc j.part done ^^^ 0xFFFFFFFF else 0)
      | some (e, g) =>
        let s := (writeSegs s j.ag c j.ctx j.stash wholePart old part).1
        (match g with
          | some g => (poisonLocs (writeSegs s j.ag c j.ctx false (fun _ => false) old [g]).1 g.locs, e, 0)
          | none => (s, e, 0))

/-- A running copy stops for a context save at a line segment, a free one before any that fails: the segments moved in all, and the CRC
register (R360). -/
def pauseCopy (s : State) (c : Nat) (j : CopyJob) : State × Nat × Nat :=
  let segs := segsOf j.moves
  match prepAll c j.ctx j.rs j.stash false s j.seg (segs.drop j.seg) with
  | (s, l) =>
    let ok := goodSegs (l.takeWhile (fun e => match e with
      | .error _ => false
      | .ok g => !g.bad))
    let now := ok.take (freeNat s 29 % (ok.length + 1))
    match writeSegs s j.ag c j.ctx j.stash (fun ln => lineBytes segs ln == 64) (linesIn (segs.take j.seg)) now with
    | (s, done) => (s, j.seg + done.length, segsCrc j.part done)

/-- The physical bytes that a copy's destinations name. -/
def copyAddrs (s : State) (c ctx : Nat) (rs : Nat → Nat → Option CopyLoc) (moves : List (Nat × Nat × Nat)) : List Nat :=
  moves.flatMap (fun m => match rs m.2.1 m.2.2 with
    | some (.virt va) => storeAddrs s c ctx va m.2.2
    | _ => [])

/-- Whether a copy leaves its block (18 R424). -/
def copyLeaves (rs : Nat → Nat → Option CopyLoc) (blk : Nat) (moves : List (Nat × Nat × Nat)) : Bool :=
  moves.any (fun m => match rs m.2.1 m.2.2 with
    | some (.spad b _) => b != blk
    | _ => true)

/-- The job of a wave's copy. -/
def copyJob (s : State) (r : CopyRec) : CopyJob :=
  { ag := agWave r.wave, ctx := r.ctx, rs := copyResolve s r.ctx r.blk, moves := r.work.moves, crc := r.crc, stash := r.stash, seg := r.seg, part := r.part }

/-! ## Ending copies (R358, R359) -/

/-- Cause and detail that a joining word takes for a copy's ERR; `path` is the path index of a timeout. -/
def copyCause (err path : Nat) : Option (Nat × Nat) :=
  match err with
  | 1 | 2 | 4 => some (0x152, err)
  | 5 => some (0x085, 0)
  | 6 => some (0x151, path)
  | 9 => some (0x150, 0)
  | _ => none

/-- A copy leaves the engine with its ERR: its operation completes, an error is recorded. -/
def endCopy (s : State) (c : Nat) (r : CopyRec) (err path : Nat) : State :=
  let core := s.core c
  let s := s.setCore c { core with copies := core.copies.filter (fun x => x.id != r.id) }
  endOp (copyRecord s c r.ctx err) r.wave r.pend (copyCause err path)

/-- A running copy of a wave is cancelled: a free part of what it had left is written, then it ends with ERR 7. -/
def stopCopy (s : State) (c : Nat) (r : CopyRec) (runs : Bool) : State :=
  let s := if runs then
      let s := if copyLeaves (copyResolve s r.ctx r.blk) r.blk r.work.moves && freeBit s 30 then escape s r.blk else s
      (runCopy s c (copyJob s r) false (some 7)).1
    else s
  cancelledCopy s c r

/-! ## Command chains (R361 to R363) -/

/-- The agent of a core's command chains. -/
def agChains (c : Nat) : Nat := agCox (2 ^ 20 + c)

/-- The `chapp` that appended record `seq`. -/
def Chain.issue (ch : Chain) (seq : Nat) : Option ChainIssue := ch.issued.find? (fun x => seq < x.upto)

/-- The thread of record `seq` of a chain: an engine operation of the wave that appended it (14 R317, R363). -/
def chainWho (c : Nat) (ch : Chain) (seq : Nat) : Who :=
  match ch.issue seq with
  | some x => { x.who with kind := .engine, id := 2 ^ 20 + c }
  | none => { kind := .engine, id := 2 ^ 20 + c, die := c / 32 }

/-- A record of a chain has an effect beyond the block that appended it (18 R424). -/
def chainEscape (s : State) (ch : Chain) (seq : Nat) : State :=
  match ch.issue seq with
  | some x => if (blockAt s x.blk).any (fun b => b.launch == x.who.launch && b.index == x.who.index) then escape s x.blk else s
  | none => s

/-- Store for the chains of a core, whatever becomes of it. -/
def engPoke (s : State) (h : Hand) (c ctx va n v : Nat) : State :=
  match engStore s (agChains c) h c ctx va n v 0 with
  | .done s | .refused s | .fault s => s

/-- Stop a bound chain: HALT is written, BOUND[24] cleared, and the engine forgets it (R363). -/
def haltChain (s : State) (c : Nat) (ch : Chain) (err : Nat) : State :=
  let h := ch.hdr.toNat
  let s := s.setCore c { s.core c with chains := (s.core c).chains.filter (fun x => x.hdr != ch.hdr) }
  engPoke (engPoke s {} c ch.ctx (h + 0x20) 8 err) {} c ch.ctx (h + 0x28) 8 (ch.ctx + c * 2 ^ 16)

/-- A chain's record `seq`: its address and bytes, or ERR 1. -/
def chainRec (s : State) (c : Nat) (ch : Chain) (seq : Nat) : State × Except Nat (Nat × List Byte) :=
  match engRead s c ch.ctx ch.hdr.toNat 64 0 with
  | (s, .error _) => (s, .error 1)
  | (s, .ok h) =>
    let a := natAt h 0 8 + 64 * (seq % max 1 (natAt h 8 4))
    match engRead s c ch.ctx a 64 1 with
    | (s, .error _) => (s, .error 1)
    | (s, .ok r) => (s, .ok (a, r))

def recOp (r : List Byte) : Nat := natAt r 0 1

/-- Whether a record's address fails R269 as a `.g` address: beyond 56 bits, or in a window of the context. -/
def recAddrBad (s : State) (ctx a : Nat) : Bool := 2 ^ 56 ≤ a || (contextAt s ctx).any (fun c => inWindow c a)

/-- What a COPY or COPY2 record does. -/
def chainCopy (r : List Byte) : CopyWork :=
  if recOp r = 1 then .cpy (BitVec.ofNat 64 (natAt r 8 8)) (BitVec.ofNat 64 (natAt r 0x10 8)) (natAt r 0x18 8)
  else .cpy2 (BitVec.ofNat 64 (natAt r 8 8)) (BitVec.ofNat 64 (natAt r 0x10 8)) (natAt r 0x18 4) (natAt r 0x1C 4) (natAt r 0x20 4) (natAt r 0x24 4)

/-- Whether a record has an undefined OP or bad fields (R362); the address of each row counts. -/
def recBad (s : State) (ctx : Nat) (r : List Byte) : Bool :=
  natAt r 0 4 / 2 ^ 12 != 0 || natAt r 4 4 != 0 ||
  (match recOp r with
    | 0 | 5 => false
    | 1 => natAt r 0x18 8 == 0 || (chainCopy r).moves.any (fun m => recAddrBad s ctx m.1 || recAddrBad s ctx m.2.1)
    | 2 => natAt r 0x18 4 == 0 || natAt r 0x1C 4 == 0 || (decide (1 < natAt r 0x1C 4) && decide (natAt r 0x24 4 < natAt r 0x18 4)) ||
        (chainCopy r).moves.any (fun m => recAddrBad s ctx m.1 || recAddrBad s ctx m.2.1)
    | 3 | 4 => recAddrBad s ctx (natAt r 8 8) || natAt r 8 8 % 8 != 0
    | _ => true)

/-- Records below `seq` that have not completed. -/
def earlier (ch : Chain) (seq : Nat) : List Nat :=
  ((List.range (seq - ch.done)).map (fun i => ch.done + i)).filter (fun j => !ch.finished.contains j)

/-- The number of the record that stopped a chain. -/
def haltSeq (ch : Chain) : Option Nat := if ch.halt = 0 then none else some (ch.halt / 256 - 1)

/-- Whether record `seq` runs: appended, unfinished, among the 16 that run at once, and with FENCE behind nothing. Records start in sequence
order, so it is behind no WAIT and no FENCE that is still held; after a record has stopped the chain only those run that had started. -/
def recRuns (s : State) (c : Nat) (ch : Chain) (seq : Nat) (r : List Byte) : Bool :=
  let e := earlier ch seq
  decide (ch.done ≤ seq) && decide (seq < ch.tail) && !ch.finished.contains seq &&
  (haltSeq ch).all (fun h => seq < h || (h < seq && seq < ch.upto)) &&
  decide (e.length < 16) && (!natBit (natAt r 0 4) 8 || e.isEmpty) &&
  e.all (fun j => match chainRec s c ch j with
    | (_, .ok (_, x)) => recOp x != 4 && (!natBit (natAt x 0 4) 8 || e.head? == some j)
    | (_, .error _) => true)

/-- Whether record `seq` of a chain is a copy that runs. -/
def recCopies (s : State) (c : Nat) (ch : Chain) (seq : Nat) : Bool :=
  match chainRec s c ch seq with
  | (_, .ok (_, r)) => (recOp r == 1 || recOp r == 2) && !recBad s ch.ctx r && !ch.moved.any (fun m => m.1 == seq) && recRuns s c ch seq r
  | (_, .error _) => false

/-- Whether a core's engine runs a copy issued as record `id`, of a chain its number `seq`: fewer than 32 copies are before it (R354). -/
def copyStarted (s : State) (c id seq : Nat) : Bool :=
  let mine := ((s.core c).copies.filter (fun r => !r.written && r.id < id)).length
  let chained := ((s.core c).chains.flatMap (fun ch => ((earlier ch ch.tail).take 16).filter (fun j =>
    ((ch.issue j).any (fun x => x.id < id || (x.id == id && decide (j < seq)))) && recCopies s c ch j))).length
  decide (mine + chained < 32)

/-- A copy that may run, its host-held lines given up and the accesses before it performed. -/
def copyRuns (s : State) (c : Nat) (r : CopyRec) : Bool :=
  !r.written && copyStarted s c r.id 0 && forkReady s r.wave r.pend &&
  (needSnoop s (copyAddrs s c r.ctx (copyResolve s r.ctx r.blk) r.work.moves)).isNone

/-- Every copy that a core runs stops for a context save (R360). -/
def pauseCopies (s : State) (c : Nat) : State :=
  ((s.core c).copies.filter (copyRuns s c)).foldl (fun s r =>
    match pauseCopy (if copyLeaves (copyResolve s r.ctx r.blk) r.blk r.work.moves && freeBit s 30 then escape s r.blk else s) c (copyJob s r) with
    | (s, seg, part) => s.setCore c { s.core c with
        copies := (s.core c).copies.map (fun x => if x.id = r.id then { x with seg := seg, part := part } else x) }) s

/-- The records above `h` that have been started when it stops the chain: those below the number answered, a free one of those that could
have been (R363). -/
def startedUpto (s : State) (c : Nat) (ch : Chain) (h : Nat) : Nat :=
  let n := ((List.range 15).takeWhile (fun i => ch.finished.contains (h + 1 + i) || (match chainRec s c ch (h + 1 + i) with
    | (_, .ok (_, r)) => recRuns s c ch (h + 1 + i) r
    | (_, .error _) => false))).length
  h + 1 + freeNat s 31 % (n + 1)

/-- A record that ends with an ERR other than 3 stops the chain: the lowest such record does, one above it that had is done. -/
def stopChain (s : State) (c : Nat) (ch : Chain) (seq err : Nat) : Chain :=
  if (haltSeq ch).any (fun h => h < seq) then { ch with finished := ch.finished ++ [seq] }
  else { ch with halt := err + 256 * (seq + 1), finished := ch.finished ++ (haltSeq ch).toList
                 upto := if ch.upto = 0 then startedUpto s c ch seq else ch.upto }

/-- DONE after the finished records above it are counted. -/
def advance (finished : List Nat) : Nat → Nat → Nat
  | 0, d => d
  | fuel + 1, d => if finished.contains d then advance finished fuel (d + 1) else d

/-- DONE rises, written as the release at CSCOPE of each record it counts (R363). -/
def writeDone (s : State) (c : Nat) (ch ch' : Chain) : State :=
  if ch'.done = ch.done then s
  else
    let s := if ch.scope = 6 then flushWrote s (agChains c) else s
    let whos := ((List.range (ch'.done - ch.done)).map (fun i => chainWho c ch (ch.done + i))).eraseDups
    engPoke s { rels := whos.map (fun w => relNow s w ch.scope) } c ch.ctx (ch.hdr.toNat + 0x18) 8 ch'.done

/-- A record completes: RESULT, then DONE; an ERR other than 3 stops the chain once the records before it are done (R363). -/
def endRecord (s : State) (c : Nat) (ch : Chain) (seq : Nat) (slot : Option Nat) (crc err : Nat) : State :=
  let s := chainEscape s ch seq
  let s := match slot with
    | some a => engPoke s {} c ch.ctx (a + 0x38) 8 (crc + err * 2 ^ 32)
    | none => s
  let s := copyRecord s c ch.ctx err
  let ch := { ch with prog := ch.prog.filter (fun p => p.1 != seq), moved := ch.moved.filter (fun p => p.1 != seq) }
  let ch' := if err = 0 || err = 3 then
      let fin := ch.finished ++ [seq]
      let d := advance fin fin.length ch.done
      { ch with finished := fin.filter (fun j => d ≤ j), done := d, issued := ch.issued.filter (fun x => d < x.upto) }
    else stopChain s c ch seq err
  let s := writeDone s c ch ch'
  let s := s.setCore c { s.core c with chains := (s.core c).chains.map (fun x => if x.hdr = ch.hdr then ch' else x) }
  match haltSeq ch' with
  | some h => if ((earlier ch' (max ch'.upto (h + 1))).filter (fun j => j != h)).isEmpty then haltChain s c ch' (ch'.halt % 256) else s
  | none => s

/-- The job of a COPY or COPY2 record. -/
def chainJob (c seq : Nat) (ch : Chain) (r : List Byte) : CopyJob :=
  let p := ((ch.prog.find? (fun p => p.1 == seq)).map (·.2)).getD (0, 0xFFFFFFFF)
  { ag := agChains c, ctx := ch.ctx, rs := fun a _ => some (.virt a), moves := (chainCopy r).moves, crc := natBit (natAt r 0 4) 10
    stash := natBit (natAt r 0 4) 11, seg := p.1, part := p.2 }

/-- Whether an event can enter a core's queue now (04 R81). -/
def eventOpen (s : State) (c : Nat) : Bool := eventRoom (coxAt s c) && (s.core c).heldEvents.isEmpty

/-- The type 4 event of a chain's record. -/
def recEvent (seq crc err : Nat) : DWord × DWord := (eventHdr 4 1 0xFFFF (seq % 2 ^ 32), BitVec.ofNat 64 (crc + err * 2 ^ 32))

/-- A chain's copy has been moved, and its event waits for room. -/
def holdRecord (s : State) (c : Nat) (ch : Chain) (m : Nat × Nat × Nat) : State :=
  setCox (s.setCore c { s.core c with chains := (s.core c).chains.map (fun x => if x.hdr = ch.hdr then { x with moved := x.moved ++ [m] } else x) })
    c { coxAt s c with held := true }

/-- A COPY or COPY2 record: its bytes, its release at CSCOPE, its event where it asks for one (R359); `stop` is an ERR from outside. -/
def chainMove (c seq : Nat) (stop : Option Nat) (s : State) (ch : Chain) (r : List Byte) : State × Option (Nat × Nat) :=
  match ch.moved.find? (fun m => m.1 == seq) with
  | some (_, crc, e) =>
    if eventOpen s c then (queueEvent s c (recEvent seq crc e).1 (recEvent seq crc e).2, some (e, crc)) else (s, none)
  | none =>
    let j := chainJob c seq ch r
    if !(ch.issue seq).any (fun x => copyStarted s c x.id seq) then (s, none)
    else match needSnoop s (copyAddrs s c ch.ctx j.rs j.moves) with
      | some s => (s, none)
      | none => match runCopy (chainEscape s ch seq) c j false stop with
        | (s, e, crc) =>
          let s := if ch.scope = 6 then flushWrote s (agChains c) else s
          if !natBit (natAt r 0 4) 9 then (s, some (e, crc))
          else if eventOpen s c then (queueEvent s c (recEvent seq crc e).1 (recEvent seq crc e).2, some (e, crc))
          else (holdRecord s c ch (seq, crc, e), none)

/-- The copies that the chains of a core run stop for a context save (R360, R363). -/
def pauseChains (s : State) (c : Nat) : State :=
  (s.core c).chains.foldl (fun s ch => ((earlier ch ch.tail).filter (fun seq => recCopies s c ch seq &&
      (ch.issue seq).any (fun x => copyStarted s c x.id seq))).foldl (fun s seq =>
    match chainRec s c ch seq with
    | (s, .error _) => s
    | (s, .ok (_, r)) =>
      let j := chainJob c seq ch r
      if (needSnoop s (copyAddrs s c ch.ctx j.rs j.moves)).isSome then s
      else match pauseCopy (if freeBit s 30 then chainEscape s ch seq else s) c j with
        | (s, seg, part) => s.setCore c { s.core c with chains := (s.core c).chains.map (fun x =>
            if x.hdr = ch.hdr then { x with prog := x.prog.filter (fun p => p.1 != seq) ++ [(seq, seg, part)] } else x) }) s) s

/-! ## Cancelled records (R358, 18 R425, 19 R436) -/

/-- Record `seq` of a chain ends with ERR 7: of a copy that runs a free part is written, and its event is queued or held. -/
def cancelRecord (s : State) (c : Nat) (hdr : DWord) (seq : Nat) : State :=
  match (s.core c).chains.find? (fun x => x.hdr == hdr) with
  | none => s
  | some ch => match chainRec s c ch seq with
    | (s, .error _) => endRecord s c ch seq none 0 7
    | (s, .ok (a, r)) =>
      let ev := (recOp r == 1 || recOp r == 2) && natBit (natAt r 0 4) 9
      let s := if recCopies s c ch seq && (ch.issue seq).any (fun x => copyStarted s c x.id seq) && freeBit s 30 then
          (runCopy (chainEscape s ch seq) c (chainJob c seq ch r) false (some 7)).1 else s
      let s := if ev then offerEvent s c (recEvent seq 0 7).1 (recEvent seq 0 7).2 else s
      endRecord s c ch seq (some a) 0 7

/-- The records of a chain from number `lo` on are cancelled: those that have started end with ERR 7, the lowest in any case, and no
later one starts. -/
def cancelFrom (s : State) (c : Nat) (ch : Chain) (lo : Nat) : State :=
  match (earlier ch ch.tail).filter (fun j => lo ≤ j && (haltSeq ch).all (fun h => j < h || (h < j && j < ch.upto))) with
  | [] => s
  | j :: r =>
    let up := if ch.halt = 0 then startedUpto s c ch j else ch.upto
    let s := s.setCore c { s.core c with chains := (s.core c).chains.map (fun x => if x.hdr = ch.hdr && x.halt = 0 then { x with upto := up } else x) }
    (j :: r.filter (fun i => i < up)).foldl (fun s i => cancelRecord s c ch.hdr i) s

end Sys2Proof.Machine
end

