-- ==== Sys2Proof/Machine/Cancel.lean ====
section
/-! DEFINITION. The cancel of launches: placement stops, waves exit, engine operations end (19 R436, 10 R236, 11 R259, 16 R358). -/

namespace Sys2Proof.Machine

/-! ## Engines of a core -/

def cancelTileRecs (s : State) (c ctx : Nat) : State :=
  let gone := (s.core c).tileQ.filter (fun r => r.ctx == ctx)
  let s := s.setCore c (cancelTiles (s.core c) (fun r => r.ctx == ctx))
  gone.foldl (fun s r => settleWays (endOp s r.wave r.pend none) r.blk) s

/-- The records of the arrays a context owns end with ERR 7; a release among them takes effect. -/
def cancelArray (s : State) (c ctx x : Nat) : State :=
  let a := (s.core c).arrays.look {} x
  if a.owner != some ctx then s
  else
    let ops := a.queue.filter (fun r => r.work != .xrel)
    let a' := { a with queue := [], err := if ops.isEmpty then a.err else 7 }
    let a' := if a.queue.any (fun r => r.work == .xrel) then { a' with owner := none, state := .empty } else a'
    let s := s.setCore c { s.core c with arrays := (s.core c).arrays.put {} x a' }
    ops.foldl (fun s r => endOp s r.wave r.pend none) s

/-- Copies of a core are cancelled: of those that run a free part is written. -/
def stopCopies (s : State) (c : Nat) (p : CopyRec → Bool) : State :=
  let l := (s.core c).copies.filter p
  let runs := l.filter (copyRuns s c)
  let s := l.foldl (fun s r => stopCopy s c r (runs.any (fun x => x.id == r.id))) s
  s.setCore c { s.core c with copies := (s.core c).copies.filter (fun r => !p r) }

def cancelCopies (s : State) (c ctx : Nat) : State :=
  ((s.core c).copies.filter (fun r => r.ctx == ctx)).foldl (fun s r => endOp s r.wave r.pend none) (stopCopies s c (fun r => r.ctx == ctx))

/-- The records of a context's chains that have started end with ERR 7, and no later one starts. -/
def cancelChains (s : State) (c ctx : Nat) : State :=
  ((s.core c).chains.filter (fun h => h.ctx == ctx)).foldl (fun s ch => cancelFrom s c ch 0) s

def cancelEngines (s : State) (c ctx : Nat) : State :=
  cancelChains (cancelCopies (cancelArray (cancelArray (cancelTileRecs s c ctx) c ctx 0) c ctx 1) c ctx) c ctx

/-- A chain saved with its context loses the record it stands at, with ERR 7. -/
def loseChain (s : State) (c : Nat) (ch : Chain) : State :=
  match earlier ch ch.tail with
  | [] => s
  | j :: _ =>
    let s := match chainRec s c ch j with
      | (s, .ok (a, _)) => engPoke s {} c ch.ctx (a + 0x38) 8 (7 * 2 ^ 32)
      | (s, .error _) => s
    haltChain (copyRecord s c ch.ctx 7) c ch 7

/-- The operations saved with a context end with ERR 7 when it is lost or its launch is cancelled (11 R259, 16 R358). -/
def loseOps (s : State) (v : Saved) : State :=
  let s := v.cores.foldl (fun s p => p.2.1.chains.foldl (fun s ch => loseChain s p.1 ch) (p.2.1.copies.foldl (fun s r => cancelledCopy s p.1 r) s)) s
  v.cores.foldl (fun s p => p.2.1.arrays.foldl (fun s q =>
    if q.2.owner == some v.ctx && q.2.queue.any (fun r => r.work != .xrel) then
      s.setCore p.1 { s.core p.1 with arrays := (s.core p.1).arrays.put {} q.1 { (s.core p.1).arrays.look {} q.1 with err := 7 } }
    else s) s) s

/-! ## Rollback of a shadowed block (18 R425) -/

/-- The chain records that a block has appended since its checkpoint are cancelled. -/
def lateChains (s : State) (c b mark : Nat) : State :=
  (s.core c).chains.foldl (fun s ch => match ch.issued.dropWhile (fun x => !(x.blk == b && decide (mark ≤ x.id))) with
    | [] => s
    | _ :: _ =>
      let before := ch.issued.takeWhile (fun x => !(x.blk == b && decide (mark ≤ x.id)))
      cancelFrom s c ch ((before.getLast?.map (·.upto)).getD 0)) s

/-- The causes still held for a wave of a block that rolls back: those it held at the checkpoint, and since then those of operations
issued before it. -/
def keptDeferred (mark : Nat) (then_ now : Wave) : List Deferred :=
  then_.deferred ++ now.deferred.filter (fun d => d.origin.any (fun r => decide (r < mark)) && !then_.deferred.contains d)

/-- Cancel the records an array holds of a block's waves that were issued since its checkpoint, with ERR 7 (11 R259, R425). -/
def cancelLateX (s : State) (c a b mark : Nat) : State :=
  let x := (s.core c).arrays.look {} a
  let late := fun (r : XRec) => decide (mark ≤ r.id) && (waveAt s r.wave).any (fun w => w.block == b)
  if x.queue.any late then
    s.setCore c { s.core c with arrays := (s.core c).arrays.put {} a { x with queue := x.queue.filter (fun r => !late r), err := 7 } }
  else s

/-- Roll a shadowed block back to its checkpoint. -/
def rollback (s : State) (b : Nat) : State :=
  match blockAt s b with
  | none => s
  | some x => match x.shadow with
    | none => s
    | some sh =>
      let c := b / 64
      let s := s.setCore c (cancelTiles (s.core c) (fun r => r.blk == b && decide (sh.mark ≤ r.id)))
      let s := lateChains (stopCopies s c (fun r => r.blk == b && decide (sh.mark ≤ r.id))) c b sh.mark
      let s := [0, 1].foldl (fun s a => cancelLateX s c a b sh.mark) s
      -- block barriers as they were; a shared one passed by an arrival since breaks
      let s := { s with bars := s.bars.map (fun p => match sh.bars.find? (fun q => q.1 == p.1), p.2 with
        | some q, some y =>
          if p.1 < 2 ^ 40 then (p.1, some { q.2 with gone := y.gone, at_ := y.at_ })
          else if x.crossed.contains p.1 then (p.1, some { y with broken := true })
          else p
        | _, some y => if x.crossed.contains p.1 then (p.1, some { y with broken := true }) else p
        | _, _ => p) }
      let s := (wavesOf s b).foldl (fun s p => match sh.waves.find? (fun q => q.1 == p.1) with
        | none => s
        | some q =>
          let core := s.core c
          let sl := core.slots
          let sl := sl.put {} p.2.dsel { sl.look {} p.2.dsel with selcnt := (sl.look {} p.2.dsel).selcnt - 1 }
          let sl := sl.put {} q.2.dsel { sl.look {} q.2.dsel with selcnt := (sl.look {} q.2.dsel).selcnt + 1 }
          setWave (s.setCore c { core with slots := sl }) p.1
            { q.2 with pend := p.2.pend.filterMap (strip sh.mark), nextId := p.2.nextId, flagCnt := [], flagOpen := [], region := []
                       regionOvf := false, deferred := keptDeferred sh.mark q.2 p.2, inj := p.2.inj, rdst := p.2.rdst }) s
      let s := modBlock (dropSpadKeys s b) b (fun y => { y with spad := sh.spad, poison := [], rolled := true, rolling := false, crossed := [], meeting := [], groups := [], waysPend := none })
      -- the record names the block in its syndrome
      writeRecord s c { mkRecord s 2 1 c x.ctx errRollback (c / 32) none with synd := BitVec.ofNat 64 (b % 64) }

/-- A block that is to roll back does so once its outstanding accesses have ended; till then its waves issue nothing (18 R425). -/
def rollStep (s : State) (b : Nat) : State :=
  if blockQuiet s b then rollback s b else modBlock s b (fun y => { y with rolling := true })

/-! ## A launch -/

/-- The placed blocks of a launch. -/
def blocksOf (s : State) (l : Nat) : List (Nat × Block) :=
  s.blocks.filterMap (fun p => match p.2 with
    | some b => if b.launch == l then some (p.1, b) else none
    | none => none)

/-- Whether the coxes of a context's cores have no store on its way (04 R90). -/
def coxesDrained (s : State) (ctx : Nat) : Bool := s.cores.all (fun p => p.2.ctx != some ctx || (coxAt s p.1).sbuf.isEmpty)

/-- Whether the chains of a context have completed every record appended (16 R363). -/
def chainsDone (s : State) (ctx : Nat) : Bool := s.cores.all (fun p => p.2.chains.all (fun ch => ch.ctx != ctx || decide (ch.tail ≤ ch.done)))

/-- Whether a launch's work has all ended, the stores of its coxes and the chains of its context among it. -/
def launchEnded (s : State) (l : Nat) (x : Launch) : Bool :=
  coxesDrained s x.ctx && chainsDone s x.ctx &&
  x.unplaced.isEmpty && x.toEnd == 0 && x.rowBlocks.isEmpty && !s.saved.any (fun v => v.ctx == x.ctx) &&
  !s.scarabs.any (fun p => p.2.launch == l && (p.2.state == .running || p.2.state == .selfRefresh || p.2.state == .saved))

/-- Whether a launch's work is over and only its report is left: posted and ended, refused, or cancelled. -/
def launchOver (s : State) (l : Nat) (x : Launch) : Bool :=
  match x.state with
  | .completed => false
  | .posted => launchEnded s l x
  | _ => x.status != 0

/-- A block's waves exit, its shared barriers break, and a `getwork` outstanding is answered with 2. -/
def cancelBlock (s : State) (b : Nat) : State :=
  let s := breakBarriers s b false
  let s := modBlock s b (fun x => { x with killed := true, halted := false, meeting := [], groups := []
                                           mailbox := x.mailbox.map (fun m => (m.1, m.2.1, m.2.2 % 2 ^ 32 + 2 ^ 32)) })
  (wavesOf s b).foldl (fun s p => setWave s p.1 p.2.endAll) s

/-- Cancel one launch that has not ended (R436), in one step. -/
def cancelLaunch (s : State) (l : Nat) : State :=
  match launchAt s l with
  | none => s
  | some x =>
    if x.state == .completed || launchOver s l x then s
    else
      let bs := blocksOf s l
      let cores := (bs.map (fun p => p.1 / 64)).eraseDups
      -- an engine may still work for blocks that have ended
      let s := s.cores.foldl (fun s p => if p.2.ctx == some x.ctx then cancelEngines s p.1 x.ctx else s) s
      let s := bs.foldl (fun s p => cancelBlock s p.1) s
      let s := cores.foldl (fun s c => offerEvent s c (eventHdr 6 (freeNat s 10 % 2 ^ 8) (freeNat s 11 % 2 ^ 16) x.ctx) 0) s
      let s := if x.state == .posted then (s.saved.filter (fun v => v.ctx == x.ctx)).foldl loseOps s else s
      let s := { s with saved := s.saved.filter (fun v => v.ctx != x.ctx || x.state != .posted)
                        scarabs := s.scarabs.map (fun p =>
                          if p.2.launch == l && p.2.state == .saved then (p.1, { dict := p.2.dict, cause := p.2.cause, nextId := p.2.nextId }) else p) }
      let s := stopScarabs s l
      modLaunch s l (fun x => { x with status := 2, unplaced := [], rowBlocks := []
                                       toEnd := bs.foldl (fun n p => n + 1 + p.2.withdrawn.length) 0 })

end Sys2Proof.Machine
end

