-- ==== Sys2Proof/Machine/Async.lean ====
section
/-! DEFINITION. The words and events of the copy engine and of command chains, `evpost` and `getwork` (16 R354 to R366, 19 R443). -/

namespace Sys2Proof.Machine

def asTrap (cause detail : Nat) : Eff := .trap { cause := cause, detail := detail }

/-! ## Issue of copies (R355, R356) -/

/-- Records of a core's copy engine in use, of 512: copies, `evpost`s, and of each chain those that it may run (R354, R363). -/
def chainUse (tail done : Nat) : Nat := min 16 (tail - done)
def recordsUsed (core : Core) : Nat := core.chains.foldl (fun n h => n + chainUse h.tail h.done) core.copies.length

/-- A copy record enters the engine. -/
def enqueueCopy (t : TOp) (r : CopyRec) (s : State) (k : Nat) (w : Wave) : Eff :=
  let c := coreOf k
  if 512 ≤ recordsUsed (s.core c) || !flagRoom w (attOf w t) then .hold s
  else
    let r := { r with id := s.nextId, wave := k, pend := w.nextId, ctx := ctxOf s w, blk := w.block }
    let s := s.setCore c { s.core c with copies := (s.core c).copies ++ [r] }
    issuePend { s with nextId := s.nextId + 1 } k w t .async [] (.engine r.id)

/-- The lane of each move: `cpyg` names its lanes, and a scalar form's is the one that stands for the wave. -/
def CopyWork.lanes (once : Nat) : CopyWork → List Nat
  | .cpyg _ srcs _ => srcs.map (·.1)
  | x => x.moves.map (fun _ => once)

/-- The address of a move that does not resolve, the source before the destination. -/
def moveLost (s : State) (ctx blk : Nat) (m : Nat × Nat × Nat) : Option Nat :=
  if (copyResolve s ctx blk m.1 m.2.2).isNone then some m.1
  else if (copyResolve s ctx blk m.2.1 m.2.2).isNone then some m.2.1 else none

/-- Lanes with an address that does not resolve. -/
def copyLost (s : State) (k : Nat) (w : Wave) (work : CopyWork) : List (Nat × Nat) :=
  ((work.lanes (waveView s k w).once).zip work.moves).filterMap (fun p => (moveLost s (ctxOf s w) w.block p.2).map (fun a => (p.1, a)))

/-- A broken bound with the lane, the address and every lane that broke one (18 R405, R406). -/
def boundTrap (lane a : Nat) (lost : List (Nat × Nat)) : Trapped :=
  { cause := 0x087, detail := lane, addr := a, lanes := lost.foldl (fun m p => m ||| 2 ^ p.1) 0 }

/-- The checks the copy forms share, then the tags of the sources checked last, then the record. -/
def copyEff (t : TOp) (bad : Bool) (work : CopyWork) (tags : List (Nat × Bool)) (s : State) (k : Nat) (w : Wave) : Eff :=
  let sc := t.imm.toNat % 8
  if bad || t.imm.toNat / 2 ^ 6 != 0 || sc == 0 || sc == 7 then asTrap 0x153 0
  else match copyLost s k w work with
    | q :: r => .trap (boundTrap q.1 q.2 (q :: r))
    | [] => match tagCheck (waveView s k w) w tags with
      | some e => .trap e
      | none => enqueueCopy t { id := 0, wave := 0, pend := 0, ctx := 0, blk := 0, work := work, crc := bitOf t.imm 3, stash := bitOf t.imm 4
                                ev := bitOf t.imm 5, scope := sc } s k w

def execCpy (t : TOp) (s : State) : Res :=
  opDo 0x2E0 t s (fun s k w =>
    let n := waveSca w t t.c
    copyEff t (n = 0 || 2 ^ 40 ≤ n) (.cpy (BitVec.ofNat 64 (waveSca w t t.a)) (BitVec.ofNat 64 (waveSca w t t.b)) n) [] s k w)

def execCpy2 (t : TOp) (s : State) : Res :=
  opDo 0x2E1 t s (fun s k w =>
    let x := waveSca w t t.c
    let rowb := x % 2 ^ 20
    let rows := x / 2 ^ 20 % 2 ^ 12 + 1
    let ds := x / 2 ^ 48 * 16
    copyEff t (rowb = 0 || (1 < rows && ds < rowb))
      (.cpy2 (BitVec.ofNat 64 (waveSca w t t.a)) (BitVec.ofNat 64 (waveSca w t t.b)) rowb rows (x / 2 ^ 32 % 2 ^ 16 * 16) ds) [] s k w)

def execCpyg (t : TOp) (s : State) : Res :=
  waveDo s (fun w => { opGate 0x2E2 t false noSees w with tags := [] }) (fun s k w =>
    let v := waveView s k w
    let n := waveSca w t t.c
    copyEff t (n = 0 || 4096 < n)
      (.cpyg (BitVec.ofNat 64 (waveSca w t t.a)) (v.active.map (fun l => (l, BitVec.ofNat 64 (srcBits v t .b64 t.b l)))) n) (opndTags 2 false t.b) s k w)

/-! ## COPY_COMPLETE (R359) -/

/-- Only the queueing of a record's event is left: with room it is queued and the operation completes. -/
def queueHeld (s : State) (c : Nat) (r : CopyRec) : State :=
  if eventOpen s c then
    endCopy (queueEvent s c r.evHdr r.evPay) c r (match r.work with
      | .evpost _ _ => 0
      | _ => r.evPay.toNat / 2 ^ 32) r.path
  else setCox s c { coxAt s c with held := true }

/-- A copy has ended with ERR `e`: its release at CSCOPE, its event, then its operation. -/
def finishCopy (s : State) (c : Nat) (r : CopyRec) (crc e path : Nat) : State :=
  let s := engRelease s r.wave r.scope
  if !r.ev then endCopy s c r e path
  else
    let v := copyEvent r crc e
    if eventOpen s c then endCopy (queueEvent s c v.1 v.2) c r e path
    else
      let r := { r with written := true, evHdr := v.1, evPay := v.2, path := path }
      let s := s.setCore c { s.core c with copies := (s.core c).copies.map (fun x => if x.id = r.id then r else x) }
      setCox s c { coxAt s c with held := true }

def execCopyComplete (c id : Nat) (err : Bool) (s : State) : Res :=
  match (s.core c).copies.find? (fun r => r.id == id) with
  | none => .next s
  | some r =>
    if r.written then .next (queueHeld s c r)
    else if !copyStarted s c id 0 || !forkReady s r.wave r.pend then .next s
    else
      let rs := copyResolve s r.ctx r.blk
      match needSnoop s (copyAddrs s c r.ctx rs r.work.moves) with
      | some s => .next s
      | none =>
        let s := if copyLeaves rs r.blk r.work.moves then escape s r.blk else s
        match runCopy s c (copyJob s r) err none with
        | (s, e, crc) => .next (finishCopy s c r crc e 0)

/-! ## Chains (R361 to R365) -/

/-- The header a wave's `chapp` or `chseq` names: its bytes, or the cause. -/
def chainHeader (s : State) (k : Nat) (w : Wave) (a : Nat) : State × Except Trapped (List Byte × List Loc) :=
  let lane := (waveView s k w).once
  if a % 64 != 0 || (contextAt s (ctxOf s w)).any (fun c => inWindow c a) then (s, .error { cause := 0x153 })
  else match checkLanes s k w { space := 1, size := 64, align := 64, read := true } [(lane, a)] with
    | (s, .error e) => (s, .error e)
    | (s, .ok ls) =>
      let locs := ls.flatMap (·.2)
      let (s, bs, bad) := homeLoad s (agWave k) locs 0
      if bad then (s, .error { cause := 0x086 }) else (s, .ok (bs, locs))

/-- Whether the wave's earlier accesses have been performed. -/
def accessesDone (w : Wave) : Bool := w.pend.all (fun p => !(p.returns || p.unapplied))

def execChapp (t : TOp) (s : State) : Res :=
  opDo 0x2E3 t s (fun s k w =>
    let c := coreOf k
    let ctx := ctxOf s w
    let a := waveSca w t t.a
    let b := waveSca w t t.b
    if !forkReady s k w.nextId then .hold s
    else match chainHeader s k w a with
    | (_, .error e) => .trap e
    | (s, .ok (h, locs)) =>
      let n := natAt h 8 4 % 2 ^ 17
      let sc := natAt h 0xC 4
      let tail := natAt h 0x10 8
      let done := natAt h 0x18 8
      let bound := natAt h 0x28 8
      if natBit bound 24 && bound % 2 ^ 24 != ctx + c * 2 ^ 16 then asTrap 0x155 1
      else if b < tail || n < wrapTo 64 ((b : Int) - done) then asTrap 0x155 2
      else if n = 0 || natAt h 8 4 / 2 ^ 17 != 0 || 65536 < n || n != 2 ^ Nat.log2 n || sc = 0 || 7 ≤ sc || natAt h 0x20 8 != 0 || bound / 2 ^ 25 != 0 || natAt h 0x30 16 != 0 then
        asTrap 0x155 3
      else if 512 < recordsUsed { s.core c with chains := (s.core c).chains.filter (fun x => x.hdr.toNat != a) } + chainUse b done then .hold s
      else match needSnoop s (partAddrs [{ lane := 0, locs := locs, data := 0 }]) with
        | some s => .hold s
        | none =>
          let s := engPoke (engPoke (escape s w.block) {} c ctx (a + 0x10) 8 b) {} c ctx (a + 0x28) 8 (ctx + c * 2 ^ 16 + 2 ^ 24)
          let core := s.core c
          let old := core.chains.find? (fun x => x.hdr.toNat == a)
          let me : ChainIssue := { upto := b, id := s.nextId, blk := w.block, who := engWho s k }
          let ch : Chain := match old with
            | some x => { x with tail := b, scope := sc, issued := x.issued ++ [me] }
            | none => { hdr := BitVec.ofNat 64 a, ctx := ctx, tail := b, done := done, scope := sc, issued := [me] }
          .done ({ s with nextId := s.nextId + 1 }.setCore c { core with chains := core.chains.filter (fun (x : Chain) => x.hdr.toNat != a) ++ [ch] }))

def execChseq (t : TOp) (s : State) : Res :=
  opDo 0x2E4 t s (fun s k w =>
    if !accessesDone w then .hold s
    else match chainHeader s k w (waveSca w t t.a) with
    | (_, .error e) => .trap e
    | (s, .ok (h, _)) =>
      .done (acquireAt (writeScaAt s k (opndIx t.d) (natAt h 0x18 8)) (agWave k) (coreOf k) (ctxOf s w) (natAt h 0xC 4 % 8)))

/-- Run record `seq` of the chain whose header is at `h`, when its OP is `op` and its fields are good: `f` gets the chain and the
record, and answers ERR and CRC, or that the record goes on. -/
def chainDo (op c h seq : Nat) (s : State) (f : State → Chain → List Byte → State × Option (Nat × Nat)) : Res :=
  match (s.core c).chains.find? (fun x => x.hdr.toNat == h) with
  | none => .next s
  | some ch => match chainRec s c ch seq with
    | (s, .error _) => .next s
    | (s, .ok (a, r)) =>
      if recOp r != op || recBad s ch.ctx r || !recRuns s c ch seq r then .next s
      else match f s ch r with
        | (s, none) => .next s
        | (s, some (err, crc)) => .next (endRecord s c ch seq (some a) crc err)

def execChainNop (c ch seq : Nat) (s : State) : Res := chainDo 0 c ch seq s (fun s _ _ => (s, some (0, 0)))

def execChainCopy (c ch seq : Nat) (s : State) : Res := chainDo 1 c ch seq s (chainMove c seq none)
def execChainCopy2 (c ch seq : Nat) (s : State) : Res := chainDo 2 c ch seq s (chainMove c seq none)

/-- An indivisible add at the home of an n64, a release at CSCOPE. -/
def execChainAdd (c ch seq : Nat) (s : State) : Res :=
  chainDo 3 c ch seq s (fun s ch r =>
    let a := natAt r 8 8
    match engRead s c ch.ctx a 8 2 with
    | (s, .error (cause, _)) => (s, some (if cause = 0x086 then 3 else copyErr false cause, 0))
    | (s, .ok bs) => match needSnoop s (storeAddrs s c ch.ctx a 8) with
      | some s => (s, none)
      | none =>
        let me := chainWho c ch seq
        let s := chainEscape s ch seq
        let s := if ch.scope = 6 then flushWrote s (agChains c) else s
        let h : Hand := { rels := relNow s me ch.scope :: carriedFrom s me ch.scope s.clock (storeAddrs s c ch.ctx a 8), atom := some (me, ch.scope) }
        match engStore s (agChains c) h c ch.ctx a 8 ((bytesNat bs + natAt r 0x10 8) % 2 ^ 64) 3 with
        | .done s => (s, some (0, 0))
        | .refused s | .fault s => (s, some (2, 0)))

/-- Completes once the n64 is at least the value: an acquire at CSCOPE, after which the engine reads the homes as they then are, as it
does at every read. -/
def execChainWait (c ch seq : Nat) (s : State) : Res :=
  chainDo 4 c ch seq s (fun s ch r => match engRead s c ch.ctx (natAt r 8 8) 8 2 with
    | (s, .error (cause, _)) => (s, some (if cause = 0x086 then 3 else copyErr false cause, 0))
    | (s, .ok bs) => (s, if natAt r 0x10 8 ≤ bytesNat bs then some (0, 0) else none))

def execChainEvent (c ch seq : Nat) (s : State) : Res :=
  chainDo 5 c ch seq s (fun s _ _ =>
    if eventOpen s c then (queueEvent s c (recEvent seq 0 0).1 (recEvent seq 0 0).2, some (0, 0))
    else (setCox s c { coxAt s c with held := true }, none))

/-- A record with an undefined OP or bad fields ends with ERR 8, one that cannot be read with ERR 1. -/
def execChainBadRecord (c ch seq : Nat) (s : State) : Res :=
  match (s.core c).chains.find? (fun x => x.hdr.toNat == ch) with
  | none => .next s
  | some x => match chainRec s c x seq with
    | (s, .error e) => .next (if recRuns s c x seq [] then endRecord s c x seq none 0 e else s)
    | (s, .ok (a, r)) => .next (if recBad s x.ctx r && recRuns s c x seq r then endRecord s c x seq (some a) 0 8 else s)

/-! ## evpost (R366) -/

def execEvpost (t : TOp) (s : State) : Res :=
  opDo 0x2E5 t s (fun s k w =>
    let c := coreOf k
    let b := waveSca w t t.b
    let pay : DWord := BitVec.ofNat 64 (waveSca w t t.a)
    let hdr := eventHdr 3 (b / 2 ^ 32 % 2 ^ 8) (k % 64) (b % 2 ^ 32)
    let waiting := (s.core c).copies.any (fun r => match r.work with
      | .evpost _ _ => true
      | _ => false)
    if b / 2 ^ 40 != 0 then asTrap 0x153 0
    else if !accessesDone w || 512 ≤ recordsUsed (s.core c) then .hold s
    else if eventOpen s c && !waiting then .done (queueEvent (escape s w.block) c hdr pay)
    else
      let s := setCox s c { coxAt s c with held := true }
      enqueueCopy t { id := 0, wave := 0, pend := 0, ctx := 0, blk := 0, work := .evpost hdr pay, written := true, evHdr := hdr, evPay := pay }
        (escape s w.block) k w)

/-! ## getwork (19 R443) -/

/-- The barrier members that an unplaced block of a launch stands for. -/
def ghost (l i w : Nat) : Nat := 2 ^ 100 + (l * 2 ^ 96 + i) * 32 + w

def execGetwork (t : TOp) (s : State) : Res :=
  opDo 0x2E9 t s (fun s k w =>
    let a := waveSca w t t.a
    let put := fun (s : State) (v : Nat) => Eff.done (writeScaAt s k (opndIx t.d) v)
    match (if natBit a 23 || a % 8 != 0 then none else tileRange s w.block a 16), blockAt s w.block with
    | some m, some b => (match launchAt s b.launch with
      | none => put s 1
      | some l =>
        if !bitOf l.attr 3 then put s 2
        else match l.unplaced with
          | [] => put s 1
          | i :: r =>
            let s := modLaunch s b.launch (fun l => { l with unplaced := r })
            let s := setBlock s w.block { b with withdrawn := b.withdrawn ++ [i], mailbox := b.mailbox ++ [(m.blk, m.off, i)] }
            put (leaveBarriers s ((List.range 32).map (ghost b.launch i))) 0)
    | _, _ => let l := (waveView s k w).once; .trap (boundTrap l a [(l, a)]))

/-- The mailbox of a withdrawn block is written: its index, then READY, 2 where the launch was cancelled first. -/
def execGetworkMailbox (k : Nat) (s : State) : Res :=
  match blockAt s k with
  | none => .next s
  | some b => match b.mailbox with
    | [] => .next s
    | (blk, off, i) :: r =>
      let ready := if 2 ^ 32 ≤ i then 2 else 1
      let bytes := (List.range 16).map (fun j => (off + j, BitVec.ofNat 8 ((i % 2 ^ 32 + ready * 2 ^ 64) / 256 ^ j)))
      .next (spadWrite (setBlock s k { b with mailbox := r }) blk bytes)

end Sys2Proof.Machine
end

