-- ==== Sys2Proof/Machine/Atomic.lean ====
section
/-! DEFINITION. Atomics and atomic regions (15 R332 to R342). -/

namespace Sys2Proof.Machine

/-! ## New values (R337 to R339) -/

/-- The new value of `amo` and `red` on `n`-bit values. -/
def amoNew (f : Fmt) (aop old v : Nat) : Nat :=
  let n := fmtBits f
  match aop with
  | 0 => (old + v) % 2 ^ n
  | 1 => wrapTo n ((old : Int) - v)
  | 2 => combine 1 f old v
  | 3 => combine 2 f old v
  | 4 => old &&& v
  | 5 => old ||| v
  | 6 => old ^^^ v
  | 7 => v
  | 8 => if v ≤ old then 0 else old + 1
  | 9 => if old = 0 || v < old then v else old - 1
  | 10 => combine 0 f old v
  | 11 => combine 1 f old v
  | _ => combine 2 f old v

/-- Old value returned and new value stored, of a location's bytes `old`, an operand `v` and a compare value `cmp`. -/
def atomResult (sp : AtomSpec) (old v cmp : Nat) : Nat × Nat :=
  if sp.cas then (old, if old = cmp then v else old)
  else if sp.nib then
    let p := if natBit v 4 then 4 else 0
    let nib := old / 2 ^ p % 16
    (nib, insertBits old p 4 (amoNew .n4 sp.aop nib (v % 16)))
  else (old, amoNew sp.fmt sp.aop old v)

/-! ## Issue -/

def atomSize (t : TOp) : Nat := if t.fmt = .n4 then 1 else fmtBits t.fmt / 8

/-- Order and scope of OPMOD. -/
def atomOrd (t : TOp) : Nat := t.opmod.toNat / 16 % 4
def atomScope (t : TOp) : Nat := t.opmod.toNat / 64

/-- Issue an operation that is a release of its own at a scope, if it is one: its stores carry it. -/
def issueRel (s : State) (k : Nat) (w : Wave) (t : TOp) (dst : List RegRef) (work : Work) (rel : Bool) (scope : Nat) : Eff :=
  issuePend s k w t .mem dst work [] (if rel then [relNow s (whoOf s (agWave k)) scope] else [])

/-- Issue an atomic: its release first, then the operation stays outstanding until its unit performs it. -/
def atomEff (t : TOp) (sp : AtomSpec) (once : Bool) (d : Option LoadDst) (dst : Wave → List RegRef)
    (s : State) (k : Nat) (w : Wave) : Eff :=
  let v := waveView s k w
  let n := atomSize t
  let lanes := (accLanes v once).map (fun l => (l, accAddr v t 0 false l))
  match checkLanes s k w { size := n, align := n, read := true, write := true, split := false } lanes with
  | (_, .error e) => .trap e
  | (s, .ok ls) =>
    -- on scratchpad addresses a scope wider than cl acts as cl (R332)
    let scope := if ls.any (fun p => p.2.any Loc.isPhys) || ls.isEmpty then atomScope t else min 2 (atomScope t)
    if 2 ≤ atomOrd t && (fenceBusy w.pend 2 scope || portPending s k scope) then .hold s
    else
      let s := if 2 ≤ atomOrd t then releaseWork s (agWave k) scope else s
      -- with no lane there is nothing to perform, but the order
      if ls.isEmpty then .done (if atomOrd t % 2 = 1 then acquireAt s (agWave k) (coreOf k) (ctxOf s w) scope else s)
      else
        let f : Fmt := if sp.nib then .b32 else t.fmt
        let parts := ls.map (fun p => { lane := p.1, locs := p.2, data := BitVec.ofNat 64 (srcBits v t f t.c p.1) : Part })
        let cmps := if sp.cas then ls.map (fun p => (p.1, BitVec.ofNat 64 (srcBits v t t.fmt t.d p.1))) else []
        let s := if leavesBlock w.block parts then escape s w.block else s
        -- its own release is carried by its own stores
        issueRel s k ((waveAt s k).getD w) t (dst w) (.atomic { sp with scope := scope } d parts cmps []) (2 ≤ atomOrd t) scope

def specOf (t : TOp) (nib cas : Bool) : AtomSpec :=
  { aop := t.opmod.toNat % 16, fmt := t.fmt, nib := nib, cas := cas, scope := atomScope t, acq := atomOrd t % 2 == 1 }

def execAmo (t : TOp) (s : State) : Res :=
  opDo 0x280 t s (fun s k w => atomEff t (specOf t false false) t.d.isS (some (loadDst w (width64 t.fmt) t.d))
    (fun w => opndRegs w (width64 t.fmt) t.d) s k w)

def execCas (t : TOp) (s : State) : Res :=
  waveDo s (opGate 0x281 t true noSees) (fun s k w => atomEff t (specOf t false true) t.d.isS (some (loadDst w (width64 t.fmt) t.d))
    (fun w => opndRegs w (width64 t.fmt) t.d) s k w)

def execRed (t : TOp) (s : State) : Res :=
  opDo 0x282 t s (fun s k w => atomEff t (specOf t false false) (!t.a.isV && !t.b.isV && !t.c.isV) none (fun _ => []) s k w)

def execAmonib (t : TOp) (s : State) : Res :=
  opDo 0x283 t s (fun s k w => atomEff t (specOf t true false) t.d.isS (some (loadDst w 1 t.d)) (fun w => opndRegs w 1 t.d) s k w)

/-! ## Performance (R332, R334, R335) -/

/-- Whether a context's launch runs with fused L1s (12 R279). -/
def fusedL1 (s : State) (ctx : Nat) : Bool := s.launches.any (fun p => match p.2 with
  | some l => l.fuse && l.ctx == ctx && l.state == .posted
  | none => false)

/-- A byte where it lies, as it is now. -/
def locNow (s : State) : Loc → Byte
  | .phys a _ _ => homeByte s a
  | .spad b o => (spadByte s b o).1

/-- The bytes of an operation read in its unit as of a stamp, where `old` gives those of a copy. -/
def unitGot (s : State) (ag i t : Nat) (copy : Option Copy) (ls : List Loc) : State × Got :=
  let val := fun (p : Nat × Loc) => match p.2 with
    | .phys a g _ =>
      let n := physNorm s a
      let b := match copy with
        | some x => x.byte n
        | none => byteAsOf s n t
      if b = homeByte s a || isPeer s a then gradedByte s a g (i + p.1) else (b, false)
    | .spad b o => spadByte s b o
  let bs := ((List.range ls.length).zip ls).map val
  let as := ls.map (fun l => (locAddr s l, match l, copy with
    | .spad _ _, _ => s.clock
    | .phys a _ _, some x => let n := physNorm s a; stampOf s n (x.byte n) (x.stamp (n / 32))
    | .phys _ _ _, none => t))
  let tagT := as.foldl (fun m p => min m p.2) s.clock
  let tag := ls.foldl (fun x l => match l with
    | .phys a g _ => tagWorst x (tagInstall (rtagAt s a g tagT i))
    | .spad _ _ => x) tagE
  let tags := (ls.filterMap (fun l => match l with
    | .phys a g _ => if g = .x || isPeer s a then none else some (mdKey (physNorm s a / 64) 0, tagT)
    | .spad _ _ => none)).eraseDups
  (noteRead s ag (as ++ tags), ⟨bs.foldr (fun b x => b.1.toNat + 256 * x) 0, bs.any (·.2), tag⟩)

/-- The stamp as of which an atomic reads at the home: now, or before writes of atomics that are not mutually atomic with it, which may
fall between its read and its write (14 R327), a free choice. -/
def atomStamp (s : State) (me : Who) (scope : Nat) : List Write → Nat → Nat → Nat
  | w :: r, i, t => match w.atom with
    | some (u, n) => if !synced u n me scope && freeBit s (2950000 + i) then atomStamp s me scope r (i + 1) (w.at_ - 1) else t
    | none => t
  | [], _, t => t

/-- Whether a copy holds what every mutually atomic operation before has left of some bytes. -/
def Copy.holdsAtoms (x : Copy) (s : State) (me : Who) (scope : Nat) (as : List Nat) : Bool :=
  as.all (fun a => (s.hist.look [] a).all (fun w =>
    decide (w.at_ ≤ stampOf s a (x.byte a) (x.stamp (a / 32))) || !(w.atom.any (fun u => synced u.1 u.2 me scope))))

/-- The read of an atomic in the unit that performs it (R332): the L1 for block scope on a line it holds, and for a fused L1 at block and
cluster scope; otherwise the home slice, as for a replicated page at any scope. Answers the stamp read as of too. -/
def atomRead (s : State) (c ctx ag scope i : Nat) (ls : List Loc) : State × Nat × Got :=
  let as := ls.map (locAddr s)
  let home := fun (s : State) =>
    let a := as.headD 0
    let t := atomStamp s (whoOf s ag) scope (s.hist.look [] a) (40 * i) s.clock
    let t := if as.all (fun a => decide ((sightOf s ag).lowAt (a / 32) a ≤ t)) then t else s.clock
    match unitGot s ag i t none ls with
    | (s, g) => (as.head?.elim s (fun a => atHome s (a / 128)), t, g)
  match ls with
  | .spad _ _ :: _ => (match unitGot s ag i s.clock none ls with
    | (s, g) => (s, s.clock, g))
  | .phys pa _ [] :: _ =>
    let a := physNorm s pa
    let k := l1Of s c ctx a
    if (if fusedL1 s ctx then scope ≤ 2 else scope = 1) && !isPeer s pa then
      (match (s.core k).l1.look none (a / 128) with
        | some x =>
          if x.serves s (sightOf s ag) (a / 32) as (2900000 + i) && x.holdsAtoms s (whoOf s ag) scope as then
            (match unitGot s ag i 0 (some x) ls with
              | (s, g) => (s, stampOf s a (x.byte a) (x.stamp (a / 32)), g))
          else home (s.setCore k { s.core k with l1 := (s.core k).l1.put none (a / 128) none })
        | none => home s)
    else home s
  | _ => home s

/-- A `cas` that fails its comparison writes nothing, and counts as the write of its release (R338). -/
def noteCas (s : State) (rels : List Rel) (ls : List Loc) : State :=
  if rels.isEmpty then s else
  ((ls.map (locAddr s)).filter (fun a => !isPeer s a)).foldl (fun s a =>
    let l := match s.hist.look [] a with
      | [] => [({ at_ := 0, val := s.mem.look 0 a } : Write)]
      | l => l
    { s with hist := s.hist.put [] a (match l with
      | w :: r => { w with rels := w.rels ++ rels } :: r
      | [] => []) }) s

/-- Perform one lane's atomic: the state, and what the lane gets back. An uncorrected error leaves memory unchanged, as a `cas` does
whose comparison fails; of an `amonib` the other nibble of the byte keeps what it holds when it is written (R339). -/
def atomLane (s : State) (c ctx ag : Nat) (sp : AtomSpec) (err : Bool) (rels : List Rel) (cmps : List (Nat × DWord)) (p : Part) :
    State × Nat × Got :=
  match atomRead s c ctx ag sp.scope (20 * p.lane) p.locs with
  | (s, t, g) =>
    let cmp := ((cmps.find? (fun q => q.1 == p.lane)).map (·.2.toNat)).getD 0
    let r := atomResult sp g.val p.data.toNat cmp
    let f : Fmt := if sp.nib then .n32 else sp.fmt
    let got : Got := { g with val := extTo (fmtSigned f) (fmtBits f) 64 r.1, bad := g.bad || err }
    let at_ := if natBit p.data.toNat 4 then 4 else 0
    let new := if sp.nib then insertBits ((p.locs.head?.elim 0 (locNow s)).toNat) at_ 4 (r.2 / 2 ^ at_) else r.2
    let me := whoOf s ag
    if got.bad then (s, p.lane, got)
    else if sp.cas && g.val != cmp then (noteCas s rels p.locs, p.lane, got)
    else (storeParts s ag c ctx { rels := rels ++ carried s me sp.scope t p.locs, atom := some (me, sp.scope) }
      [{ p with data := BitVec.ofNat 64 new }], p.lane, got)

def atomLanes (s : State) (c ctx ag : Nat) (sp : AtomSpec) (err : Bool) (rels : List Rel) (cmps : List (Nat × DWord)) (parts : List Part) :
    State × List (Nat × Got) :=
  parts.foldl (fun acc p => match atomLane acc.1 c ctx ag sp err rels cmps p with
    | (s, l, g) => (s, acc.2 ++ [(l, g)])) (s, [])

/-! ## Atomic regions (R340, R341) -/

/-- Append an entry, or set the overflow bit at the ninth. -/
def collect (s : State) (k : Nat) (w : Wave) (e : RegionEntry) : Eff :=
  .done (setWave s k (if 8 ≤ w.region.length then { w with regionOvf := true } else { w with region := w.region ++ [e] }))

def regionEntry (v : View) (t : TOp) (store : Bool) : RegionEntry :=
  { store := store, size := fmtBits t.fmt / 8, exec := BitVec.ofNat 32 v.exec, dst := t.d
    addrs := Vector.ofFn (fun l => BitVec.ofNat 64 (accAddr v t 0 false l.val))
    data := Vector.ofFn (fun l => if store then BitVec.ofNat 64 (srcBits v t t.fmt t.c l.val) else 0) }

def execAregLd (t : TOp) (s : State) : Res :=
  opDo 0x284 t s (fun s k w => collect s k w (regionEntry (waveView s k w) { t with b := .k 0 } false))

def execAregSt (t : TOp) (s : State) : Res :=
  opDo 0x285 t s (fun s k w => collect s k w (regionEntry (waveView s k w) { t with b := .k 0, d := .v 0 } true))

def RegionEntry.addr (e : RegionEntry) (l : Nat) : Nat := ((e.addrs.toList[l]?).getD 0).toNat
def RegionEntry.val (e : RegionEntry) (l : Nat) : DWord := (e.data.toList[l]?).getD 0

/-- The 128-byte lines of memory that an entry's lane names: of its resolved address where it resolves. -/
def entryLines (s : State) (k : Nat) (w : Wave) (e : RegionEntry) (l : Nat) : List Nat :=
  let span := fun (a n : Nat) => [a / 128, (a + n - 1) / 128]
  match resolve s k w l (e.addr l) { size := e.size, align := e.size } with
  | .ok (.virt ps) => ps.flatMap (fun p => span p.1 p.2)
  | _ => span (e.addr l) e.size

/-- Lanes that name more than one line. -/
def splitLanes (s : State) (k : Nat) (w : Wave) : List Nat :=
  (List.range 32).filter (fun l =>
    1 < ((w.region.filter (fun e => bitOf e.exec l)).flatMap (fun e => entryLines s k w e l)).eraseDups.length)

/-- The checks of R284 for every entry in order: each entry's lanes with their bytes. -/
def regionChecks (k : Nat) (w : Wave) : State → List RegionEntry → State × Except Trapped (List (RegionEntry × List (Nat × List Loc)))
  | s, [] => (s, .ok [])
  | s, e :: r =>
    let lanes := (setBits 32 e.exec.toNat).map (fun l => (l, e.addr l))
    match checkLanes s k w { size := e.size, align := e.size, read := !e.store, write := e.store, scratch := some 0x087, area := some 0x087, split := false } lanes with
    | (s, .error x) => (s, .error x)
    | (s, .ok ls) => match regionChecks k w s r with
      | (s, .error x) => (s, .error x)
      | (s, .ok m) => (s, .ok ((e, ls) :: m))

/-- The lanes of a region in a free order (R342). -/
def laneOrder (s : State) : List Nat :=
  (List.range 32).foldl (fun l i => (l.take (freeNat s (300 + i) % (i + 1))) ++ [i] ++ l.drop (freeNat s (300 + i) % (i + 1))) []

/-- What a checked list does, lane by lane and in collection order within a lane. -/
def regionSteps (s : State) (w : Wave) (l : List (RegionEntry × List (Nat × List Loc))) : List RegionStep :=
  (laneOrder s).flatMap (fun i => ((List.range l.length).zip l).filterMap (fun p => (p.2.2.find? (fun q => q.1 == i)).map (fun q =>
    { ix := p.1, store := p.2.1.store, part := { lane := i, locs := q.2, data := p.2.1.val i }
      dst := if p.2.1.store then none else some (loadDst w (if p.2.1.size = 8 then 2 else 1) p.2.1.dst) })))

/-- Registers a list's loads write. -/
def regionRegs (w : Wave) : List RegRef :=
  (w.region.filter (fun e => !e.store)).flatMap (fun e => opndRegs w (if e.size = 8 then 2 else 1) e.dst)

def execAregGo (t : TOp) (s : State) : Res :=
  let ord := t.opmod.toNat % 4
  let scope := t.opmod.toNat / 4
  waveDo s (fun w => { writes := regionRegs w, att := attOf w t }) (fun s k w =>
    if w.regionOvf then .trap { cause := 0x08D, detail := 1 }
    else if !(splitLanes s k w).isEmpty then .trap { cause := 0x08D, detail := 2, lanes := (splitLanes s k w).foldl (fun m l => m + 2 ^ l) 0 }
    else match regionChecks k w s w.region with
      | (_, .error e) => .trap e
      | (s, .ok l) =>
        -- an empty list completes at once
        if 2 ≤ ord && (fenceBusy w.pend 2 scope || portPending s k scope) && !w.region.isEmpty then .hold s
        else
          let s := if 2 ≤ ord then releaseWork s (agWave k) scope else s
          let steps := regionSteps s w l
          let w' := { (waveAt s k).getD w with region := [], regionOvf := false }
          if steps.isEmpty then .done (setWave (if ord % 2 = 1 then acquireAt s (agWave k) (coreOf k) (ctxOf s w) scope else s) k w')
          else issueRel (if w.region.any (·.store) then escape s w.block else s) k w' t (regionRegs w) (.region steps scope (ord % 2 == 1) [])
            (2 ≤ ord) scope)

/-- Perform lanes' steps at the homes: loads see the earlier stores, and the stores of a lane are one (R341, R342). `last` is the lane
of the step before. Answers what the loads read, by entry. -/
def regionLane (c ctx ag scope : Nat) (err : Bool) (rels : List Rel) : Option Nat → State → List RegionStep →
    State × List (Nat × LoadDst × Nat × Got)
  | _, s, [] => (s, [])
  | last, s, x :: r =>
    let s := if last = some x.part.lane then s else s.tickStore
    let me := some x.part.lane
    if x.store then
      regionLane c ctx ag scope err rels me
        (storeBy putNow s ag c ctx { rels := rels, atom := some (whoOf s ag, scope) } [partBytes x.part]) r
    else match unitGot (locsHome s x.part.locs) ag (20 * x.part.lane) s.clock none x.part.locs, x.dst with
      | (s, _), none => regionLane c ctx ag scope err rels me s r
      | (s, g), some d => match regionLane c ctx ag scope err rels me s r with
        | (s, l) => (s, (x.ix, d, x.part.lane, { g with bad := g.bad || err }) :: l)

/-- The steps of the first `n` lanes of a list that runs lane by lane, and the others. -/
def splitSteps : Nat → List RegionStep → List RegionStep × List RegionStep
  | 0, l => ([], l)
  | n + 1, l => match l with
    | [] => ([], [])
    | x :: _ =>
      let mine := l.takeWhile (fun y => y.part.lane == x.part.lane)
      let rest := l.dropWhile (fun y => y.part.lane == x.part.lane)
      ((mine ++ (splitSteps n rest).1), (splitSteps n rest).2)

/-- Write what a region's loads read: each entry's register in its lanes at once (R341, 02 R35). -/
def deliverRegion (s : State) (k ctx : Nat) (homes : List (Option Nat)) (flag : Option Nat) (got : List (Nat × LoadDst × Nat × Got)) : State :=
  (List.range 8).foldl (fun s ix =>
    match got.filter (fun g => g.1 == ix) with
    | [] => s
    | g :: r =>
      let gs := (g :: r).map (fun x => x.2.2)
      let bad := gs.any (fun x => x.2.bad)
      let s := if bad then loadRecord s k ctx g.2.1 none else s
      deliverLoad s k homes flag g.2.1 gs bad 0x086) s

/-! ## ATOMIC_PERFORM -/

/-- Replace what is left of an outstanding operation. -/
def setWork (s : State) (k id : Nat) (work : Work) : State :=
  modWave s k (fun w => { w with pend := w.pend.map (fun q => if q.id = id then { q with work := work } else q) })

/-- Lanes of an outstanding atomic are performed in ascending order, `lanes` of them and at least one, so that atomics of other threads
may fall between two of them (R334); its destination is written with the last. -/
def atomPerform (s : State) (k : Nat) (w : Wave) (p : Pend) (sp : AtomSpec) (d : Option LoadDst) (parts : List Part) (cmps : List (Nat × DWord))
    (got : List (Nat × Got)) (err : Bool) (lanes : Nat) : State :=
  let c := coreOf k
  let ctx := ctxOf s w
  let now := parts.take (max 1 lanes)
  let rest := parts.drop (max 1 lanes)
  if portBlocked s k p.port now then s
  else match needSnoop s (partAddrs now) with
    | some s => s
    | none => match atomLanes (if err then poisonParts s now else s) c ctx (agWave k) sp err p.rels cmps now with
      | (s, new) =>
        let s := if new.any (fun g => g.2.bad) then coreRecord s c (match d with
          | some (.scal _) => 3
          | _ => if freeBit s 4999999 then 2 else 3) ctx errData (firstPhys now) else s
        let gs := got ++ new
        let s := notePorted s k p
        if !rest.isEmpty then setWork s k p.id (.atomic sp d rest cmps gs)
        else
          let bad := gs.any (fun g => g.2.bad)
          let s := if sp.acq then acquireAt s (agWave k) c ctx sp.scope else s
          let s := match d with
            | some d => deliverLoad s k p.homes p.flag d gs bad 0x086
            | none => s
          let peer := partsPeer s parts
          modWave s k (fun w => let w := w.endPend p.id
            if bad && d.isNone then { w with deferred := w.deferred ++
              [{ cause := 0x086, detail := 0, regs := [], flag := p.flag, cls := p.cls, atFence := peer }] } else w)

/-- The regions of `lanes` lanes are performed, at least one; a store that another package refuses raises 0x086 at its first observer
(13 R298). -/
def regionPerform (s : State) (k : Nat) (w : Wave) (p : Pend) (steps : List RegionStep) (scope : Nat) (acq : Bool)
    (got : List (Nat × LoadDst × Nat × Got)) (err : Bool) (lanes : Nat) : State :=
  let ctx := ctxOf s w
  let (now, rest) := splitSteps (max 1 lanes) steps
  let stores := (now.filter (·.store)).map (·.part)
  if portBlocked s k p.port (now.map (·.part)) then s
  else match needSnoop s (partAddrs stores) with
    | some s => s
    | none => match regionLane (coreOf k) ctx (agWave k) scope err p.rels none (if err then poisonParts s (now.map (·.part)) else s) now with
      | (s, new) =>
        let s := if partsPeer s stores && freeBit s 4999998 then modWave s k (fun w => { w with
          deferred := w.deferred ++ [refusedStore p.flag p.cls] }) else s
        let gs := got ++ new
        let s := notePorted s k p
        if !rest.isEmpty then setWork s k p.id (.region rest scope acq gs)
        else
          let s := if acq then acquireAt s (agWave k) (coreOf k) ctx scope else s
          modWave (deliverRegion s k ctx p.homes p.flag gs) k (fun w => w.endPend p.id)

/-- Lanes of an outstanding atomic or region are performed: earlier accesses of its wave to its bytes come first, and so does the host's
answer for the lines it may hold. -/
def execAtomicPerform (k id : Nat) (done : LanesDone) (s : State) : Res :=
  match waveAt s k with
  | none => .next s
  | some w => match w.pend.find? (fun p => p.id == id) with
    | none => .next s
    | some p =>
      if olderConflict s w.pend id (workParts p.work).1 then .next s
      else match p.work with
        | .atomic sp d parts cmps got => .next (atomPerform s k w p sp d parts cmps got done.err done.lanes)
        | .region steps scope acq got => .next (regionPerform s k w p steps scope acq got done.err done.lanes)
        | _ => .next s

end Sys2Proof.Machine
end

