-- ==== Sys2Proof/Machine/Turn.lean ====
section
/-! DEFINITION. What an agent whose turn it is does next: the word or event its state stands at, fetched and decoded. -/

namespace Sys2Proof.Machine

/-- What an agent whose turn it is does: an instruction word, the start of its next clause, a switch of paths, a poll. The
last three are the rows CLAUSE_START, PATH_SWITCH and WAITM_POLL of the opcode table. -/
inductive Pick where
  | word (i : Instr) | start (g : Agent) | switch (k : Nat) | poll (k : Nat)
  deriving DecidableEq, Repr

/-- PQUANT in words: 0 means 65,536 (02 R26). -/
def quantum (w : Wave) : Nat := if w.pquant = 0 then 65536 else w.pquant.toNat

/-- Whether a wave at a clause boundary is due to switch paths: its running path has spent its quantum and its innermost
divergence, or its group, has another live path (06 R129, R133). -/
def switchDue (s : State) (w : Wave) : Bool :=
  if w.pcPos != 0 || w.inj.head?.any (fun c => c.started) || w.count < quantum w then false
  else match innermost w with
    | some (_, n) => 1 < n
    | none => if w.trapInside then false else match w.comp, groupOf s w with
      | some c, some g => g.waves.any (fun x => x.taken != c.taken && !x.ended)
      | _, _ => false

/-- The instruction of a clause's word, as decoded. -/
def clauseInstr (c : Clause) : Option Pick :=
  match clauseWord c with
  | none => none
  | some x => match wordInstr x with
    | .ok i => some (.word i)
    | .error _ => none

/-- Whether a wave stands at a `dsel` whose load has failed: it takes its cause before a save (03 R62, 18 R417). -/
def failedDsel : Hold → Bool
  | .dictFailed _ => true
  | _ => false

/-- Whether a wave at a clause boundary may take its next clause: its context is not being saved, its block not halted, and no switch of
paths is due (06 R129, 18 R417). -/
def mayStart (s : State) (w : Wave) : Bool :=
  !(contextAt s (ctxOf s w)).any (fun c => c.saving) && !(blockAt s w.block).any (fun b => b.halted || b.rolling) && (w.clause.isSome || !switchDue s w)

/-- A wave's turn: its next word, or at a clause boundary the switch of paths or the next clause; a wave that has ended goes. -/
def waveTurn (s : State) (k : Nat) : State × Option Pick :=
  match waveAt s k with
  | none => (s, none)
  | some w =>
    if w.ended then (reap s k, none)
    else if (blockAt s w.block).any (fun b => b.rolling) then (rollStep s w.block, none)
    else if (contextAt s (ctxOf s w)).any (fun c => c.saving) && !failedDsel w.hold && !w.fencing then (s, none)
    else match w.hold with
      | .waitm => (s, some (.poll k))
      | .meeting => (s, if (blockAt s w.block).any (fun b => b.meeting.contains w.num) then w.clause.bind clauseInstr else none)
      | .dictWait _ | .dictFailed _ => (s, w.clause.bind clauseInstr)
      | .no =>
        (match w.clause with
          | some c =>
            if c.pos != 0 then (s, clauseInstr c)
            else if (blockAt s w.block).any (fun b => b.halted) then (s, none)
            else (s, some (.start (.wave k)))
          | none =>
            if (blockAt s w.block).any (fun b => b.halted) then (s, none)
            else if switchDue s w then (s, some (.switch k)) else (s, some (.start (.wave k))))
      | _ => (s, none)

/-- The level of a wave in its quadrant's choice: 2 in handler mode or past its age limit, else its launch's PRIO (19 R444). -/
def issueLevel (s : State) (w : Wave) : Nat :=
  if w.inHandler || w.aged then 2
  else (((contextAt s (ctxOf s w)).bind (fun c => launchAt s c.launch)).map (fun l => l.prio)).getD 0

/-- The longest fixed latency, in cycles (03 R72). -/
def fixedLatency : Nat := 48

/-- Whether a wave stands ready at a clause boundary: its next clause is fetched and that clause's WAIT flags are clear, nothing holds
the wave, and the results of every fixed latency of its last word are out (03 R72, 19 R444). -/
def readyAtStart (s : State) (w : Wave) : Bool :=
  !w.ended && w.hold == .no && mayStart s w && w.clause.any (fun c => c.pos == 0 && !(hdrWait c.hdr).any w.flagPending) &&
  decide (w.issuedAt + fixedLatency < s.time)

/-- Whether a quadrant passes over a wave's word: another of its waves stands ready at a higher level (19 R444; assumption 115). -/
def outranked (s : State) (k : Nat) (w : Wave) : Bool :=
  !w.ended && w.hold == .no && w.clause.any (fun c => c.pos != 0) &&
  (List.range 16).any (fun i => 16 * (k / 16) + i != k &&
    (waveAt s (16 * (k / 16) + i)).any (fun o => readyAtStart s o && decide (issueLevel s w < issueLevel s o)))

/-- A fault of a cox (04 R95): the registers of the trap in order, or in handler mode the stop of R96. -/
def coxTrapAt (s : State) (c cause detail : Nat) (val : DWord) : State :=
  let x := coxAt s c
  if x.hm then
    let s := setCox s c { x with stopped := true, wait := .no }
    -- the umpire cancels the context's launch with the in-band error "generator double fault", unless its work has ended (19 R436)
    match (x.ctx.bind (contextAt s)).bind (fun k => (launchAt s k.launch).map (fun l => (k.launch, l))) with
    | some (n, l) =>
      if l.state == .completed || launchOver s n l then s
      else cancelLaunch (inBand s n { cls := 6, unit := 1, unitIx := c, addr := x.pc, cause := cause }) n
    | none => s
  else setCox s c { x with
    xepc := BitVec.ofNat 64 (x.pc.toNat / 4 * 4)
    xcause := BitVec.ofNat 64 (cause + detail * 2 ^ 16)
    xval := val
    hm := true
    pc := x.xvec
    wait := .no }

/-- A cox's turn: the instruction at its PC. -/
def coxTurn (s : State) (c : Nat) : State × Option Pick :=
  let x := coxAt s c
  if x.stopped || (c < 256 && x.ctx.isNone) || (256 ≤ c && s.sys.anchorLost) || 258 ≤ c || (x.ctx.bind (contextAt s)).any (fun k => k.saving) then (s, none)
  else match x.wait with
    | .dict _ _ => (s, none)
    | _ => match coxFetch s c with
      | (s, none) => (coxTrapAt s c 0x181 0 x.pc, none)
      | (s, some w) => match decodeCox w with
        | .error _ => (coxTrapAt s c 0x180 0 (w.zeroExtend 64), none)
        | .ok i => (s, some (.word i))

/-- Whether a power request in progress asks a scarab's channel into self-refresh (17 R399, 20 R455): PWRREQ with STATUS 1, TARGET 2,
and the package, the stack or the channel. -/
def refreshAsked (s : State) (k : Nat) : Bool :=
  let v := s.sys.pwrreq
  fieldOf v 24 8 == 1 && fieldOf v 0 3 == 2 &&
  (fieldOf v 20 4 == 0 || (fieldOf v 12 8 == k / 16 && (fieldOf v 20 4 == 2 || fieldOf v 8 4 == k % 16)))

/-- Whether a scarab issues nothing at a clause boundary: its context is being saved, its channel is to enter self-refresh, or its stack
is lost (01 R23). -/
def scarabHeld (s : State) (k : Nat) : Bool :=
  (contextAt s (scarabAt s k).ctx).any (fun k => k.saving) || refreshAsked s k || s.sys.stacksLost.contains (k / 16)

/-- A scarab's turn: the next word of its wave, or its next clause. -/
def scarabTurn (s : State) (k : Nat) : State × Option Pick :=
  let x := scarabAt s k
  if x.state != .running || s.sys.stacksLost.contains (k / 16) then (s, none)
  else if scarabHeld s k && x.clause.all (fun c => c.pos = 0) then (s, none)
  else match x.clause with
    | some c => if c.pos = 0 then (s, some (.start (.scarab k))) else (s, clauseInstr c)
    | none => (s, some (.start (.scarab k)))

/-- What an agent's turn runs, if anything, and the state it runs in. -/
def takeTurn (s : State) (g : Agent) : State × Option Pick :=
  match g with
  | .wave k => if (waveAt s k).any (outranked s k) then (s, none) else waveTurn s k
  | .cox c => coxTurn s c
  | .scarab k => scarabTurn s k
  | .outside => (s, none)

/-- An error that no check corrects strikes: the parity of a register fails, or a word of scratchpad or a sector of memory is poisoned. -/
def upset (s : State) : Upset → State
  | .vector k p l => modWave s k (fun w => if p < w.bud && l < 32 then { w with parity := (.v p, l) :: w.parity } else w)
  | .scalar k i => modWave s k (fun w => if i < 64 then { w with parity := (.s i, 0) :: w.parity } else w)
  | .mask k i => modWave s k (fun w => if i < 8 then { w with parity := (.m i, 0) :: w.parity } else w)
  | .cox c i => if c < 258 && 0 < i && i < 32 then setCox s c { coxAt s c with parity := i :: (coxAt s c).parity } else s
  | .scratchpad b o => modBlock s b (fun x => if o < 2 ^ 20 then { x with poison := x.poison.put false (o / 4) true } else x)
  | .memory a =>
    let q := physNorm s a
    if isPeer s a || physKind s q == .nothing then s else { s with poison := s.poison.put false (q / 32) true }

/-- The state a step's turn runs in: the first listed turn, or the one the arbiter takes (assumption 4). -/
def beginStep (s : State) : State × Turn :=
  let turn := match s.agenda with
    | t :: _ => t
    | [] => Config.arbiter s.tick
  let g := match turn with
    | .agent g => g
    | .event _ | .upset _ => .outside
  ({ s with agenda := s.agenda.drop 1, tick := s.tick + 1, time := s.time + Config.elapsed s.tick, cur := g }, turn)

end Sys2Proof.Machine
end

