-- ==== Sys2Proof/Machine/CoxOps.lean ====
section
/-! DEFINITION. What the cox instructions share: registers, data addresses, the store buffer, retiring and faulting
(04 R75 to R77, R89 to R92, R95). -/

namespace Sys2Proof.Machine

/-! ## Registers (R76) -/

/-- g0 reads zero. -/
def Cox.g (x : Cox) (i : BitVec 5) : Nat := if i = 0 then 0 else (x.gregs.look 0 i.toNat).toNat

/-- A write of g0 is discarded; any other loses the register's parity error. -/
def Cox.setG (x : Cox) (i : BitVec 5) (v : Nat) : Cox :=
  if i = 0 then x else { x with gregs := x.gregs.put 0 i.toNat (BitVec.ofNat 64 v), parity := x.parity.filter (fun r => r != i.toNat) }

/-! ## Retiring and faulting (R75, R95) -/

/-- What an instruction comes to: it retires at the next PC or at another, faults, or stays for its next turn. -/
inductive CEff where
  | done (s : State)
  | jump (s : State) (pc : Nat)
  | trap (s : State) (cause detail : Nat) (val : DWord)
  | stay (s : State)

/-- Which processors have an instruction (R84). -/
inductive CoxKind where
  | any | core | umpire
  deriving DecidableEq, Repr

def coxRetire (s : State) (c : Nat) (pc : DWord) : State :=
  let x := coxAt s c
  setCox s c { x with pc := pc, retired := x.retired + 1, wait := .no }

def coxFinish (s : State) (c : Nat) : CEff → State
  | .done t => coxRetire t c ((coxAt s c).pc + 4)
  | .jump t p => coxRetire t c (BitVec.ofNat 64 p)
  | .trap t cause detail v => coxTrapAt t c cause detail v
  | .stay t => t

/-- Run an instruction of the current cox: it belongs to this kind of processor, and its sources pass parity. -/
def coxDo (kind : CoxKind) (i : Instr) (reads : List (BitVec 5)) (s : State) (body : State → Nat → Cox → CEff) : Res :=
  match s.cur with
  | .cox c =>
    let x := coxAt s c
    if (kind == .core && decide (256 ≤ c)) || (kind == .umpire && decide (c < 256)) then
      .next (coxTrapAt s c 0x180 0 ((coxWordOf i).zeroExtend 64))
    else if reads.any (fun r => x.parity.contains r.toNat) then .next (coxTrapAt s c 0x186 0 0)
    else .next (coxFinish s c (body s c x))
  | _ => .fault .noAgent

/-- The illegal-instruction fault of an instruction whose operands the decoder does not judge. -/
def coxIllegal (s : State) (i : Instr) : CEff := .trap s 0x180 0 ((coxWordOf i).zeroExtend 64)

/-- An instruction that writes gD from the registers. -/
def coxAlu (i : Instr) (d : BitVec 5) (reads : List (BitVec 5)) (s : State) (f : Cox → Nat) : Res :=
  coxDo .any i reads s (fun s c x => .done (setCox s c (x.setG d (f x))))

/-- A value of 64 bits as signed. -/
def sgn (x : Nat) : Int := toSigned 64 x

/-! ## Data addresses (R77) -/

/-- Where a data address leads: local memory, or the bytes of global memory. -/
inductive CoxLoc where
  | lm (off : Nat) | glob (ls : List Loc)

/-- The grade an umpire's physical access uses: the one the line was last written under. -/
def lineGrade (s : State) (a : Nat) : Grade :=
  match s.grades.look 0 (physNorm s a / 64) with
  | 2 => .s
  | 3 => .p
  | _ => .x

/-- The checks of a data address in their order: its bytes, or cause and address. An atomic both reads and writes (13 R301). -/
def coxAddr (s : State) (c : Nat) (x : Cox) (a n : Nat) (write : Bool) (read : Bool := !write) : State × Except (Nat × DWord) CoxLoc :=
  let fail := fun (s : State) (cause : Nat) => (s, Except.error (cause, BitVec.ofNat 64 a))
  if 2 ^ 56 ≤ a then fail s 0x183
  else if a % n != 0 then fail s 0x182
  else if a < 0x10000 then (if x.lmlim * 4096 < a + n then fail s 0x185 else (s, .ok (.lm a)))
  else if 256 ≤ c then
    (if physKind s a == .nothing then fail s 0x183
     else (s, .ok (.glob ((List.range n).map (fun i => .phys (a + i) (lineGrade s (a + i)) [])))))
  else match x.ctx with
    | none => fail s 0x183
    | some ctx => match translate s c ctx a 700 n with
      | (s, .error _) => fail s 0x183
      | (s, .ok t) =>
        if (contextAt s ctx).any (fun k => inWindow k a) || !peerReach s t.pa then fail s 0x183
        else if (write && (!t.w || inConst s ctx a n)) || (read && !t.r) || t.spill then fail s 0x184
        else
          let pa := if write then t.pa else t.nearest (c / 32)
          (s, .ok (.glob ((List.range n).map (fun i => .phys (pa + i) t.grade (if write then t.others.map (· + i) else [])))))

/-! ## Bytes -/

/-- Bytes of local memory from an offset. -/
def lmRead (x : Cox) (a : Nat) : Nat → Nat
  | 0 => 0
  | n + 1 => (x.lmem.look 0 a).toNat + 256 * lmRead x (a + 1) n

def lmWrite (x : Cox) (a n v : Nat) : Cox := { x with lmem := (bytesOf a n v).foldl (fun t p => t.put 0 p.1 p.2) x.lmem }

/-- The latest buffered store to a physical byte (R90). -/
def forwarded (s : State) (x : Cox) (a : Nat) : Option Byte :=
  x.sbuf.foldl (fun r p => match p.work with
    | .store parts _ false =>
      (parts.flatMap partBytes).foldl (fun r b => match b.1 with
        | .phys pa _ far => if (pa :: far).any (fun q => physNorm s q == physNorm s a) then some b.2 else r
        | .spad _ _ => r) r
    | _ => r) none

/-- The context that a cox's cached reads belong to. -/
def coxCtx (x : Cox) : Nat := x.ctx.getD 0xFFFF

/-- Read bytes for a cox: from its store buffer, else as a thread of its core, an umpire at the home. -/
def coxReadLocs (s : State) (c : Nat) (x : Cox) (hs : Bool) (ls : List Loc) : State × Got :=
  match readLocs s c (coxCtx x) (agCox c) { hs := hs || decide (256 ≤ c), inst := joinsInst s c } 0 ls with
  | (s, g) =>
    let fw := ls.map (fun l => match l with
      | .phys a _ _ => forwarded s x a
      | .spad _ _ => none)
    let v := ((List.range ls.length).zip fw).foldl (fun n p => match p.2 with
      | some b => n + b.toNat * 256 ^ p.1
      | none => n + g.val / 256 ^ p.1 % 256 * 256 ^ p.1) 0
    (s, { g with val := v, bad := g.bad && !fw.all (·.isSome) })

/-- The uncorrected-error record of a cox's or an umpire's read. -/
def coxDataRecord (s : State) (c : Nat) (x : Cox) : State :=
  if c < 256 then writeRecord s c (mkRecord s 3 1 c (coxCtx x) errData (c / 32) none)
  else writeRecord s 280 (mkRecord s 3 8 0 (coxCtx x) errData 16 none)

/-- Data that a cox cannot take: the record of an uncorrected error, or of a timeout of another package (16 R381, assumption 107). -/
def coxNoData (s : State) (c : Nat) (x : Cox) (ls : List Loc) : State :=
  match stepTimeout s c 4999997 [{ lane := 0, locs := ls, data := 0 }] with
  | [] => coxDataRecord s c x
  | l => timeoutReqs s l

/-- A value of `n` bytes at an address, or the fault of reading it. -/
def coxLoad (s : State) (c : Nat) (x : Cox) (a n : Nat) : State × Except (Nat × DWord) Nat :=
  match coxAddr s c x a n false with
  | (s, .error e) => (s, .error e)
  | (s, .ok (.lm o)) => (s, .ok (lmRead x o n))
  | (s, .ok (.glob ls)) => match coxReadLocs s c x false ls with
    | (s, g) =>
      if g.bad then (coxNoData s c x ls, .error (0x186, BitVec.ofNat 64 a))
      else (s, .ok g.val)

/-- Whether a load of a cox waits: for an entry for a miss in its core's memory port (12 R277), or behind a store that the port keeps
before it (14 R318). -/
def coxLoadWaits (s : State) (c : Nat) (x : Cox) (a n : Nat) : Bool :=
  match coxAddr s c x a n false with
  | (s, .ok (.glob ls)) =>
    let part : Part := { lane := 0, locs := ls, data := 0 }
    decide (c < 256) && (portBehind s c none 0 [part] || (takeMisses s c (missSectors s c (coxCtx x) false [part]) true).isNone)
  | _ => false

/-- A load instruction: gD gets the value extended. -/
def coxLd (i : Instr) (d a : BitVec 5) (imm : BitVec 16) (n : Nat) (signed : Bool) (s : State) : Res :=
  coxDo .any i [a] s (fun s c x =>
    if coxLoadWaits s c x (wrapTo 64 ((x.g a : Int) + imm.toInt)) n then .stay s else
    match coxLoad s c x (wrapTo 64 ((x.g a : Int) + imm.toInt)) n with
    | (s, .error (cause, v)) => .trap s cause 0 v
    | (s, .ok v) => .done (setCox s c ((coxAt s c).setG d (extTo signed (8 * n) 64 v))))

/-- A store instruction: local at once, global through the 16-entry store buffer, a full one stalls (R75, R90). -/
def coxSt (i : Instr) (b a : BitVec 5) (imm : BitVec 16) (n : Nat) (s : State) : Res :=
  coxDo .any i [a, b] s (fun s c x =>
    match coxAddr s c x (wrapTo 64 ((x.g a : Int) + imm.toInt)) n true with
    | (s, .error (cause, v)) => .trap s cause 0 v
    | (s, .ok (.lm o)) => .done (setCox s c (lmWrite (coxAt s c) o n (x.g b)))
    | (s, .ok (.glob ls)) =>
      if 16 ≤ x.sbuf.length then .stay s
      else
        let parts : List Part := [{ lane := 0, locs := ls, data := BitVec.ofNat 64 (x.g b) }]
        let p : Pend := { id := x.nextId, flag := none, cls := .mem, dst := [], rels := (sightOf s (agCox c)).marks, port := s.tick + 1
                          work := .store parts none false, reqs := sendReqs s c (farLines s parts) }
        let y := coxAt s c
        .done (setCox s c { y with sbuf := y.sbuf ++ [p], nextId := y.nextId + 1 }))

/-! ## Ordering (R92) -/

/-- Whether a release has nothing left to wait for: the store buffer is drained and acknowledged. -/
def coxDrained (x : Cox) : Bool := x.sbuf.isEmpty

/-- The cache effect of an acquire by a cox. -/
def coxAcquire (s : State) (c scope : Nat) : State :=
  if 256 ≤ c then syncSight s (agCox c) scope else acquireAt s (agCox c) c (coxCtx (coxAt s c)) scope

/-- A buffered store reaches its home. -/
def coxStoreApply (s : State) (c id : Nat) : State :=
  let x := coxAt s c
  match x.sbuf.find? (fun p => p.id == id) with
  | some p => (match p.work with
    | .store parts tag false =>
      if olderConflict s x.sbuf id parts || (decide (c < 256) && portBehind s c none p.port parts) then s
      else match needSnoop s (partAddrs parts) with
        | some s => s
        | none =>
          let s := storeParts s (agCox c) c (coxCtx x) { rels := p.rels } parts
          setCox s c { coxAt s c with sbuf := x.sbuf.map (fun q => if q.id = id then { q with work := .store parts tag true } else q) }
    | _ => s)
  | none => s

def coxStoreAck (s : State) (c id : Nat) : State :=
  let x := coxAt s c
  match x.sbuf.find? (fun p => p.id == id) with
  | some p => (match p.work with
    | .store _ _ true => setCox s c { x with sbuf := x.sbuf.filter (fun q => q.id != id) }
    | _ => s)
  | none => s

/-- Store bytes of global memory at once for a cox that waits for the acknowledgement; a host-held line is snooped first. -/
def coxStoreNow (s : State) (c : Nat) (x : Cox) (h : Hand) (parts : List Part) : Option State :=
  match needSnoop s (partAddrs parts) with
  | some _ => none
  | none => some (storeParts s (agCox c) c (coxCtx x) h parts)

/-- The snoops such a store sends. -/
def coxSnoop (s : State) (parts : List Part) : State := (needSnoop s (partAddrs parts)).getD s

end Sys2Proof.Machine
end

