-- ==== Sys2Proof/Machine/CoxBase.lean ====
section
/-! DEFINITION. The base instructions of the coxes and umpires (04 R85 to R94). -/

namespace Sys2Proof.Machine

/-! ## Arithmetic and logic (R85 to R88) -/

/-- Quotient and remainder of two registers; the edges raise nothing (R85). -/
def coxDivide (a b : Nat) : Nat × Nat :=
  if b = 0 then (2 ^ 64 - 1, a)
  else if a = 2 ^ 63 && b == 2 ^ 64 - 1 then (a, 0)
  else (wrapTo 64 (Int.tdiv (sgn a) (sgn b)), wrapTo 64 (Int.tmod (sgn a) (sgn b)))

def execCoxAdd (d a b : BitVec 5) (s : State) : Res := coxAlu (.coxAdd d a b) d [a, b] s (fun x => wrapTo 64 ((x.g a : Int) + x.g b))
def execCoxSub (d a b : BitVec 5) (s : State) : Res := coxAlu (.coxSub d a b) d [a, b] s (fun x => wrapTo 64 ((x.g a : Int) - x.g b))
def execCoxAnd (d a b : BitVec 5) (s : State) : Res := coxAlu (.coxAnd d a b) d [a, b] s (fun x => x.g a &&& x.g b)
def execCoxOr (d a b : BitVec 5) (s : State) : Res := coxAlu (.coxOr d a b) d [a, b] s (fun x => x.g a ||| x.g b)
def execCoxXor (d a b : BitVec 5) (s : State) : Res := coxAlu (.coxXor d a b) d [a, b] s (fun x => x.g a ^^^ x.g b)
def execSll (d a b : BitVec 5) (s : State) : Res := coxAlu (.sll d a b) d [a, b] s (fun x => x.g a * 2 ^ (x.g b % 64))
def execSrl (d a b : BitVec 5) (s : State) : Res := coxAlu (.srl d a b) d [a, b] s (fun x => x.g a / 2 ^ (x.g b % 64))
def execCoxSra (d a b : BitVec 5) (s : State) : Res := coxAlu (.coxSra d a b) d [a, b] s (fun x => wrapTo 64 (sgn (x.g a) / 2 ^ (x.g b % 64)))
def execSlt (d a b : BitVec 5) (s : State) : Res := coxAlu (.slt d a b) d [a, b] s (fun x => (decide (sgn (x.g a) < sgn (x.g b))).toNat)
def execSltn (d a b : BitVec 5) (s : State) : Res := coxAlu (.sltn d a b) d [a, b] s (fun x => (decide (x.g a < x.g b)).toNat)
def execCoxMul (d a b : BitVec 5) (s : State) : Res := coxAlu (.coxMul d a b) d [a, b] s (fun x => x.g a * x.g b)
def execCoxMulh (d a b : BitVec 5) (s : State) : Res := coxAlu (.coxMulh d a b) d [a, b] s (fun x => wrapTo 64 (sgn (x.g a) * sgn (x.g b) / 2 ^ 64))
def execCoxDiv (d a b : BitVec 5) (s : State) : Res := coxAlu (.coxDiv d a b) d [a, b] s (fun x => (coxDivide (x.g a) (x.g b)).1)
def execCoxRem (d a b : BitVec 5) (s : State) : Res := coxAlu (.coxRem d a b) d [a, b] s (fun x => (coxDivide (x.g a) (x.g b)).2)

def execAddi (d a : BitVec 5) (i : BitVec 16) (s : State) : Res := coxAlu (.addi d a i) d [a] s (fun x => wrapTo 64 ((x.g a : Int) + i.toInt))
def execAndi (d a : BitVec 5) (i : BitVec 16) (s : State) : Res := coxAlu (.andi d a i) d [a] s (fun x => x.g a &&& i.toNat)
def execOri (d a : BitVec 5) (i : BitVec 16) (s : State) : Res := coxAlu (.ori d a i) d [a] s (fun x => x.g a ||| i.toNat)
def execXori (d a : BitVec 5) (i : BitVec 16) (s : State) : Res := coxAlu (.xori d a i) d [a] s (fun x => x.g a ^^^ i.toNat)
def execSlli (d a : BitVec 5) (k : BitVec 6) (s : State) : Res := coxAlu (.slli d a k) d [a] s (fun x => x.g a * 2 ^ k.toNat)
def execSrli (d a : BitVec 5) (k : BitVec 6) (s : State) : Res := coxAlu (.srli d a k) d [a] s (fun x => x.g a / 2 ^ k.toNat)
def execSrai (d a : BitVec 5) (k : BitVec 6) (s : State) : Res := coxAlu (.srai d a k) d [a] s (fun x => wrapTo 64 (sgn (x.g a) / 2 ^ k.toNat))

/-- A bit field that leaves the register is illegal (R87). -/
def execExt (d a : BitVec 5) (p l : BitVec 6) (s : State) : Res :=
  coxDo .any (.ext d a p l) [a] s (fun s c x =>
    if 64 < p.toNat + l.toNat + 1 then coxIllegal s (.ext d a p l)
    else .done (setCox s c (x.setG d (x.g a / 2 ^ p.toNat % 2 ^ (l.toNat + 1)))))

def execIns (d a : BitVec 5) (p l : BitVec 6) (s : State) : Res :=
  coxDo .any (.ins d a p l) [a, d] s (fun s c x =>
    if 64 < p.toNat + l.toNat + 1 then coxIllegal s (.ins d a p l)
    else .done (setCox s c (x.setG d (insertBits (x.g d) p.toNat (l.toNat + 1) (x.g a)))))

def execLui (d : BitVec 5) (i : BitVec 21) (s : State) : Res :=
  coxAlu (.lui d i) d [] s (fun _ => wrapTo 64 (i.toInt * 2 ^ 16))

def execApc (d : BitVec 5) (i : BitVec 21) (s : State) : Res :=
  coxAlu (.apc d i) d [] s (fun x => wrapTo 64 ((x.pc.toNat : Int) + i.toInt * 2 ^ 16))

/-! ## Loads and stores (R89, R90) -/

def execLdB (d a : BitVec 5) (i : BitVec 16) (s : State) : Res := coxLd (.ldB d a i) d a i 1 true s
def execLdH (d a : BitVec 5) (i : BitVec 16) (s : State) : Res := coxLd (.ldH d a i) d a i 2 true s
def execLdW (d a : BitVec 5) (i : BitVec 16) (s : State) : Res := coxLd (.ldW d a i) d a i 4 true s
def execLdD (d a : BitVec 5) (i : BitVec 16) (s : State) : Res := coxLd (.ldD d a i) d a i 8 false s
def execLdBn (d a : BitVec 5) (i : BitVec 16) (s : State) : Res := coxLd (.ldBn d a i) d a i 1 false s
def execLdHn (d a : BitVec 5) (i : BitVec 16) (s : State) : Res := coxLd (.ldHn d a i) d a i 2 false s
def execLdWn (d a : BitVec 5) (i : BitVec 16) (s : State) : Res := coxLd (.ldWn d a i) d a i 4 false s
def execStB (b a : BitVec 5) (i : BitVec 16) (s : State) : Res := coxSt (.stB b a i) b a i 1 s
def execStH (b a : BitVec 5) (i : BitVec 16) (s : State) : Res := coxSt (.stH b a i) b a i 2 s
def execStW (b a : BitVec 5) (i : BitVec 16) (s : State) : Res := coxSt (.stW b a i) b a i 4 s
def execStD (b a : BitVec 5) (i : BitVec 16) (s : State) : Res := coxSt (.stD b a i) b a i 8 s

/-! ## Atomics and fences (R91, R92) -/

/-- The new value of an atomic on `n` bits. -/
def coxAtom (op n old v cmp : Nat) : Nat :=
  let lt := decide (toSigned n old < toSigned n v)
  match op with
  | 0 => (old + v) % 2 ^ n
  | 1 => old &&& v
  | 2 => old ||| v
  | 3 => old ^^^ v
  | 4 => v
  | 5 => if lt then old else v
  | 6 => if lt then v else old
  | 7 => min old v
  | 8 => max old v
  | _ => if old = cmp then v else old

/-- A global atomic waits for what its release orders before it and for the cox's own earlier stores to its bytes; a release at sy
writes back the lines the cox has written (R92, 14 R329). -/
def execCoxAmo (d a b : BitVec 5) (o : BitVec 4) (sc : BitVec 3) (z : BitVec 1) (r : BitVec 2) (s : State) : Res :=
  let i : Instr := .coxAmo d a b o sc z r
  coxDo .any i ([a, b] ++ (if o = 9 then [d] else [])) s (fun s c x =>
    let n := if z = 1 then 8 else 4
    let v := x.g b % 256 ^ n
    let new := fun old => coxAtom o.toNat (8 * n) old v (x.g d % 256 ^ n)
    if 9 < o.toNat || !coxScopeOk sc then coxIllegal s i
    else match coxAddr s c x (x.g a) n true true with
      | (s, .error (cause, val)) => .trap s cause 0 val
      | (s, .ok loc) =>
        if 2 ≤ r.toNat && !coxDrained x then .stay s
        else
        let me := whoOf s (agCox c)
        let own := if 2 ≤ r.toNat then [relNow s me sc.toNat] else []
        let s := if 2 ≤ r.toNat then releaseWork s (agCox c) sc.toNat else s
        match loc with
          | .lm off =>
            let old := lmRead x off n
            let s := setCox s c ((lmWrite (coxAt s c) off n (new old)).setG d (extTo true (8 * n) 64 old))
            .done (if r.toNat % 2 = 1 then coxAcquire s c sc.toNat else s)
          | .glob ls =>
            let parts : List Part := [{ lane := 0, locs := ls, data := 0 }]
            if olderConflict s x.sbuf x.nextId parts || (decide (c < 256) && portBehind s c none 0 parts) then .stay s
            else match atomRead s c (coxCtx x) (agCox c) sc.toNat 0 ls with
              | (s, t, g) =>
                if g.bad then .trap (coxNoData s c x ls) 0x186 0 (BitVec.ofNat 64 (x.g a))
                else
                  let h : Hand := { rels := (sightOf s (agCox c)).marks ++ own ++ carried s me sc.toNat t ls, atom := some (me, sc.toNat) }
                  match coxStoreNow s c x h [{ lane := 0, locs := ls, data := BitVec.ofNat 64 (new g.val) }] with
                  | none => .stay (coxSnoop s parts)
                  | some s =>
                    let s := setCox s c ((coxAt s c).setG d (extTo true (8 * n) 64 g.val))
                    .done (if r.toNat % 2 = 1 then coxAcquire s c sc.toNat else s))

/-- A release waits until the store buffer has drained; at sy the lines written are written back; an acquire drops the core's copies. -/
def execCoxFence (sc : BitVec 3) (r : BitVec 2) (s : State) : Res :=
  coxDo .any (.coxFence sc r) [] s (fun s c x =>
    if r = 0 || !coxScopeOk sc then coxIllegal s (.coxFence sc r)
    else if 2 ≤ r.toNat && !coxDrained x then .stay s
    else
      let s := if 2 ≤ r.toNat then releaseAt s (agCox c) sc.toNat else s
      .done (if r.toNat % 2 = 1 then coxAcquire s c sc.toNat else s))

/-! ## Branches and jumps (R93) -/

/-- A branch on a comparison of two registers. -/
def coxBranch (i : Instr) (a b : BitVec 5) (imm : BitVec 16) (s : State) (p : Nat → Nat → Bool) : Res :=
  coxDo .any i [a, b] s (fun s _ x =>
    if p (x.g a) (x.g b) then .jump s (wrapTo 64 ((x.pc.toNat : Int) + 4 * imm.toInt)) else .done s)

def execBeq (a b : BitVec 5) (i : BitVec 16) (s : State) : Res := coxBranch (.beq a b i) a b i s (fun a b => a == b)
def execBne (a b : BitVec 5) (i : BitVec 16) (s : State) : Res := coxBranch (.bne a b i) a b i s (fun a b => a != b)
def execBlt (a b : BitVec 5) (i : BitVec 16) (s : State) : Res := coxBranch (.blt a b i) a b i s (fun a b => decide (sgn a < sgn b))
def execBge (a b : BitVec 5) (i : BitVec 16) (s : State) : Res := coxBranch (.bge a b i) a b i s (fun a b => decide (sgn b ≤ sgn a))
def execBltn (a b : BitVec 5) (i : BitVec 16) (s : State) : Res := coxBranch (.bltn a b i) a b i s (fun a b => decide (a < b))
def execBgen (a b : BitVec 5) (i : BitVec 16) (s : State) : Res := coxBranch (.bgen a b i) a b i s (fun a b => decide (b ≤ a))

def execJal (d : BitVec 5) (i : BitVec 21) (s : State) : Res :=
  coxDo .any (.jal d i) [] s (fun s c x =>
    .jump (setCox s c (x.setG d (wrapTo 64 ((x.pc.toNat : Int) + 4)))) (wrapTo 64 ((x.pc.toNat : Int) + 4 * i.toInt)))

def execJalr (d a : BitVec 5) (i : BitVec 16) (s : State) : Res :=
  coxDo .any (.jalr d a i) [a] s (fun s c x =>
    .jump (setCox s c (x.setG d (wrapTo 64 ((x.pc.toNat : Int) + 4)))) (wrapTo 64 ((x.g a : Int) + i.toInt) / 4 * 4))

/-! ## Control and status registers (R80, R94, 19 R439) -/

/-- EVQ: entries queued, type 2 entries queued, HELD. -/
def evqWord (x : Cox) : Nat :=
  x.events.length + (x.events.filter (fun e => evType e == 2)).length * 2 ^ 16 + x.held.toNat * 2 ^ 32

/-- A CSR's value; of an umpire's CSRs that belong to a context, a free value. -/
def csrValue (s : State) (c : Nat) (x : Cox) (n : Nat) : Option Nat :=
  let ofCtx := fun (f : Context → Nat) (w : Nat) => match x.ctx.bind (contextAt s) with
    | some k => some (f k)
    | none => some (freeNat s 7 % 2 ^ w)
  match n with
  | 0x001 => some (x.hm.toNat + (decide (256 ≤ c)).toNat * 2)
  | 0x002 => some x.xvec.toNat
  | 0x003 => some x.xepc.toNat
  | 0x004 => some x.xcause.toNat
  | 0x005 => some x.xval.toNat
  | 0x006 => some x.xscr.toNat
  | 0x010 => some (s.time % 2 ^ 64)
  | 0x011 => some x.retired.toNat
  | 0x020 => some (x.ctx.getD (freeNat s 7 % 2 ^ 16))
  | 0x021 => some (if c < 256 then c else freeNat s 7 % 2 ^ 8)
  | 0x022 => ofCtx (fun k => k.arena.toNat) 64
  | 0x023 => ofCtx (fun k => k.arenaSize.toNat) 64
  | 0x024 => some x.lmlim
  | 0x025 => ofCtx (fun k => k.kbase.toNat) 64
  | 0x026 => ofCtx (fun k => k.args.toNat) 64
  | 0x030 => some (evqWord x)
  | 0x040 => some x.eseq.toNat
  | _ =>
    match s.umps.look none (c - 256) with
    | none => none
    | some u =>
      if c < 256 then none else match n with
      | 0x800 => some u.active.toNat
      | 0x801 => some u.qtab.toNat
      | 0x802 => some u.jbase.toNat
      | 0x803 => some u.jsize.toNat
      | 0x804 => some u.jseq.toNat
      | 0x805 => some u.quant.toNat
      | 0x806 => some u.lwindef.toNat
      | 0x807 => some u.pwindef.toNat
      | 0x808 => some u.kept.length
      | _ => none

/-- Write a CSR under its access code (00 R4): a read-only one keeps its value. -/
def csrWrite (s : State) (c : Nat) (x : Cox) (n v : Nat) : State :=
  let b : DWord := BitVec.ofNat 64 v
  let ump := fun (f : Umpire → Umpire) => match s.umps.look none (c - 256) with
    | some u => { s with umps := s.umps.put none (c - 256) (some (f u)) }
    | none => s
  match n with
  | 0x002 => setCox s c { x with xvec := BitVec.ofNat 64 (v / 4 * 4) }
  | 0x003 => setCox s c { x with xepc := BitVec.ofNat 64 (v / 4 * 4) }
  | 0x006 => setCox s c { x with xscr := b }
  | 0x030 => setCox s c { x with held := x.held && !natBit v 32 }
  | 0x801 => ump (fun u => { u with qtab := b })
  | 0x802 => ump (fun u => { u with jbase := b })
  | 0x803 => ump (fun u => { u with jsize := BitVec.ofNat 32 v })
  | 0x805 => ump (fun u => { u with quant := BitVec.ofNat 32 v })
  | 0x806 => ump (fun u => { u with lwindef := b })
  | 0x807 => ump (fun u => { u with pwindef := b })
  | _ => s

def execCsrr (d : BitVec 5) (n : BitVec 12) (s : State) : Res :=
  coxDo .any (.csrr d n) [] s (fun s c x => match csrValue s c x n.toNat with
    | none => coxIllegal s (.csrr d n)
    | some v => .done (setCox s c (x.setG d v)))

def execCsrw (a : BitVec 5) (n : BitVec 12) (s : State) : Res :=
  coxDo .any (.csrw a n) [a] s (fun s c x => match csrValue s c x n.toNat with
    | none => coxIllegal s (.csrw a n)
    | some _ => .done (csrWrite s c x n.toNat (x.g a)))

/-! ## System instructions (R94) -/

def execCoxTrap (i : BitVec 16) (s : State) : Res := coxDo .any (.coxTrap i) [] s (fun s _ _ => .trap s 0x187 i.toNat 0)

def execCoxEret (s : State) : Res :=
  coxDo .any .coxEret [] s (fun s c x =>
    if x.hm then .jump (setCox s c { x with hm := false }) x.xepc.toNat else coxIllegal s .coxEret)

/-- Waits for an event or its limit; the end of the limit is an event of the table. -/
def execWfe (a : BitVec 5) (s : State) : Res :=
  coxDo .any (.wfe a) [a] s (fun s c x =>
    if x.events.isEmpty then .stay (setCox s c { x with wait := .wfe (BitVec.ofNat 64 (x.g a)) }) else .done s)

/-- A `wfe` with a limit ends. -/
def execWfeTimeout (c : Nat) (s : State) : Res :=
  let x := coxAt s c
  match x.wait with
  | .wfe limit => .next (if limit = 0 then s else coxRetire s c (x.pc + 4))
  | _ => .next s

/-- The scope of the acquire that popping an event is: dv for a placement (19 R441), di for what a wave or the copy engine
forked (14 R328). -/
def evScope (e : DWord × DWord) : Nat := if evType e = 1 then 4 else if evType e = 3 || evType e == 4 then 3 else 0

def execEvq (d : BitVec 4) (s : State) : Res :=
  let lo : BitVec 5 := BitVec.ofNat 5 (2 * d.toNat)
  let hi : BitVec 5 := BitVec.ofNat 5 (2 * d.toNat + 1)
  coxDo .any (.evq d) [] s (fun s c x => match x.events with
    | [] => .done (setCox s c ((x.setG lo 0).setG hi 0))
    | e :: r =>
      let s := setCox s c (({ x with events := r }.setG lo e.1.toNat).setG hi e.2.toNat)
      .done (releaseHeld (if evScope e = 0 then s else coxAcquire (joinAll s (agCox c)) c (evScope e)) c))

end Sys2Proof.Machine
end

