-- ==== Sys2Proof/Machine/Ctrl.lean ====
section
/-! DEFINITION. The fixed wave words: branches, divergence, calls, compaction, exit (06). -/

namespace Sys2Proof.Machine

/-- Address of the header of the clause that holds the present word. -/
def Wave.hdrAddr (w : Wave) : DWord := match w.clause with
  | some c => c.addr
  | none => w.pcHdr

/-- H + 4 * offset (03 R68). -/
def target {n : Nat} (h : DWord) (off : BitVec n) : DWord := h + off.signExtend 64 * 4

/-- The next clause header, a ctrl clause holding one word. -/
def afterCtrl (h : DWord) : DWord := h + 8

/-- A uniform branch (R136): the end of the clause, then the target if taken. -/
def branchIf (k : Nat) (taken : Bool) (tgt : DWord) (s : State) : Eff :=
  if taken then .after s (fun s => .ok (modWave s k (fun w => w.goto tgt))) else .done s

/-- The same for a scarab (17 R384). -/
def scBranchIf (k : Nat) (taken : Bool) (tgt : DWord) (s : State) : Eff :=
  if taken then .after s (fun s => .ok (setScarab s k { scarabAt s k with pcHdr := tgt, pcPos := 0, clause := none })) else .done s

def execNop (s : State) : Res := eitherDo s (fun _ => {}) [] (fun s _ _ => .done s) (fun s _ _ => .done s)

def execBra (i : BitVec 24) (s : State) : Res :=
  eitherDo s (fun _ => {}) [] (fun s k w => branchIf k true (target w.hdrAddr i) s)
    (fun s k x => scBranchIf k true (target x.pcHdr i) s)

def scaGate (a : BitVec 6) (_ : Wave) : Gate := { reads := [.s a.toNat] }
def maskGate (m : BitVec 3) (_ : Wave) : Gate := { reads := [.m m.toNat] }

def execBrsZ (i : BitVec 18) (a : BitVec 6) (s : State) : Res :=
  eitherDo s (scaGate a) [.s a.toNat] (fun s k w => branchIf k ((waveView s k w).sca a.toNat == 0) (target w.hdrAddr i) s)
    (fun s k x => scBranchIf k (x.sregs.look 0 a.toNat == 0) (target x.pcHdr i) s)

def execBrsNz (i : BitVec 18) (a : BitVec 6) (s : State) : Res :=
  eitherDo s (scaGate a) [.s a.toNat] (fun s k w => branchIf k ((waveView s k w).sca a.toNat != 0) (target w.hdrAddr i) s)
    (fun s k x => scBranchIf k (x.sregs.look 0 a.toNat != 0) (target x.pcHdr i) s)

/-- mN AND EXEC as the wave sees it. -/
def maskExec (s : State) (k : Nat) (w : Wave) (m : BitVec 3) : Word :=
  BitVec.ofNat 32 ((waveView s k w).msk m.toNat) &&& w.exec

def execBrmAny (i : BitVec 21) (m : BitVec 3) (s : State) : Res :=
  waveDo s (maskGate m) (fun s k w => branchIf k (maskExec s k w m != 0) (target w.hdrAddr i) s)

def execBrmAll (i : BitVec 21) (m : BitVec 3) (s : State) : Res :=
  waveDo s (maskGate m) (fun s k w => branchIf k (maskExec s k w m == w.exec) (target w.hdrAddr i) s)

def execBrmNone (i : BitVec 21) (m : BitVec 3) (s : State) : Res :=
  waveDo s (maskGate m) (fun s k w => branchIf k (maskExec s k w m == 0) (target w.hdrAddr i) s)

/-! ## Divergence (R128, R137 to R139) -/

/-- The active lanes with the target each takes. -/
def laneTargets (w : Wave) (f : Nat → Nat) : List (Nat × Nat) := (setBits 32 w.exec.toNat).map (fun l => (f l, l))

/-- Send the active lanes to their targets after the clause's end; with no active lane the wave goes on. -/
def divergeTo (s : State) (k : Nat) (w : Wave) (f : Nat → Nat) : Eff :=
  .after s (fun s => diverge s k (targetsOf (laneTargets w f)))

/-- `brd`: lanes of mN to the target, the others past the clause (R137). -/
def brdEff (s : State) (k : Nat) (w : Wave) (i : BitVec 21) (m : BitVec 3) : Eff :=
  divergeTo s k w (fun l => if bitOf (maskExec s k w m) l then (target w.hdrAddr i).toNat else (afterCtrl w.hdrAddr).toNat)

def execBrd (i : BitVec 21) (m : BitVec 3) (s : State) : Res :=
  waveDo s (maskGate m) (fun s k w => brdEff s k w i m)

/-! ## Compaction (R132, R133) -/

/-- Scope of a barrier level's release and acquire: bk, cl or dv (15 R347). -/
def barScope (n : Nat) : Nat := if n < 96 then 1 else if n < 120 then 2 else 4

/-- Whether what a word of latency class W waits for keeps the wave there (03 R73, 14 R318, R319, 15 R346, R351, 16 R379). -/
def wHeld (s : State) (k : Nat) (w : Wave) (x : CWord) : Bool :=
  let m := (x.entry.elim 0 (fun e => fieldOf (workTemplate e x.raw) 16 9))
  match wordOp x with
  | 0x22E => fenceBusy w.pend (m % 4) (m / 4) || (2 ≤ m % 4 && portPending s k (m / 4))
  | 0x22F => w.pend.any (fun p => joinHas m p.cls)
  | 0x2C1 => w.barWait.isSome && !w.barOpen
  | 0x2C2 => (w.barWait.isSome && !w.barOpen) || (w.barArrived.isNone && (fenceBusy w.pend 2 (barScope (m % 128)) || portPending s k (barScope (m % 128))))
  | 0x2C4 => w.polled.isSome
  | 0x2C5 => w.flagPending (m % 16)
  | 0x2E8 => w.pend.any (fun p => p.cls == .rst)
  | _ => false

/-- Whether a wave does not keep a meeting open: at a `brd.cmp`, held by a W-class word, parked, in handler mode, exited. -/
def meetingDone (s : State) (b : Block) (k : Nat) (w : Wave) : Bool :=
  b.meeting.contains w.num || w.inHandler || w.ended ||
  (match w.hold with
    | .waitm | .parked | .nap _ => true
    | _ => false) ||
  (w.clause.bind clauseWord).any (wHeld s k w)

/-- The threads of lane `l` on a path, in home-wave order: homes (wave keys) whose lane takes it. -/
def laneThreads (path : List (Nat × Word)) (l : Nat) : List Nat :=
  path.filterMap (fun p => if bitOf p.2 l then some p.1 else none)

/-- The compacted waves of a path (R133): `homes` the group's wave keys in order. -/
def compactPath (homes : List Nat) (path : List (Nat × Word)) (taken : Bool) (tgt : DWord) : List CWave :=
  let n := (List.range 32).foldl (fun m l => max m (laneThreads path l).length) 0
  (List.range n).map (fun i =>
    let hs : Vector (Option Nat) 32 := Vector.ofFn (fun l => (laneThreads path l.val)[i]?)
    { taken := taken, kidx := i, carrier := homes.getD i 0, addr := tgt, pos := 0
      mask := BitVec.ofNat 32 (ofBits (fun l => ((hs.toList[l]?).join).isSome) 32), count := 0, ended := false, homes := hs })

/-- Mask index and offset in a `brd.cmp` word. -/
def brdFields (x : CWord) : BitVec 3 × BitVec 21 := (BitVec.ofNat 3 x.raw.toNat, BitVec.ofNat 21 (x.raw.toNat / 8))

/-- Form a compaction group of waves at one `brd.cmp`: their words retire, a RECONV is pushed for each and a CPATH for each
compacted wave, and the path of the lower target starts. -/
def formGroup (s : State) (b : Nat) (homes : List (Nat × Wave)) (i : BitVec 21) (m : BitVec 3) : Except (Nat × Trapped) State :=
  let masks := homes.map (fun p => (p.1, maskExec s p.1 p.2 m))
  let keys := homes.map (·.1)
  let h := match homes with
    | p :: _ => p.2.hdrAddr
    | [] => 0
  let same := target h i == afterCtrl h
  let fall := (homes.zip masks).map (fun q => (q.1.1, if same then q.1.2.exec else q.1.2.exec &&& ~~~ q.2.2))
  let take := masks.map (fun q => (q.1, if same then 0 else q.2))
  let lower : Bool := !same && decide ((target h i).toNat < (afterCtrl h).toNat)
  let wf := compactPath keys fall false (afterCtrl h)
  let wt := compactPath keys take true (target h i)
  let first := if lower then wt else wf
  let ws := if lower then wt ++ wf else wf ++ wt
  let cur := if first.isEmpty then !lower else lower
  let gid := match blockAt s b with
    | some x => x.nextGroup
    | none => 0
  let push := fun (s : State) (k : Nat) (e : Entry) => match pushEntry s k e with
    | .ok s => .ok s
    | .error x => Except.error (k, x)
  let s := keys.foldl (fun s k => modWave (retireWord s k) k (fun w => { w with hold := .no })) s
  match each (fun s p => push s p.1 (.reconv none (((masks.find? (fun q => q.1 == p.1)).map (·.2)).getD 0) p.2.exec)) s homes with
  | .error x => .error x
  | .ok s => match each (fun s (c : CWave) => push s c.carrier (.cpath c.addr 0 c.kidx c.taken c.mask)) s ws with
    | .error x => .error x
    | .ok s =>
      let g : Group := { gid := gid, homes := keys, waves := ws, cur := cur }
      let s := modBlock s b (fun x => { x with nextGroup := gid + 1, groups := x.groups ++ [g] })
      let s := keys.foldl (fun s k => modWave s k (fun w => { w with hold := .meeting, exec := 0 })) (shareSights s keys)
      .ok (startGroupPath s gid (ws.filter (fun c => c.taken == cur)))

/-- Waves that may share a group: quadrant, address, budget and window (R132). -/
def sameGroup (a b : Wave) : Bool :=
  a.num % 4 == b.num % 4 && a.hdrAddr == b.hdrAddr && a.bud == b.bud && a.base == b.base

/-- Close a block's meeting: waves in groups of more than one compact, a lone one branches as `brd`. A wave whose stack cannot take its
group's entries takes the cause alone. -/
def closeMeetingFrom (b : Nat) : Nat → State → State
  | 0, s => s
  | fuel + 1, s =>
    match blockAt s b with
    | none => s
    | some x =>
      let waiting := (wavesOf s b).filter (fun p => x.meeting.contains p.2.num)
      let sorted := ((List.range 32).filterMap (fun n => waiting.find? (fun p => p.2.num == n)))
      match sorted with
      | [] => s
      | p :: r =>
        let grp := p :: r.filter (fun q => sameGroup p.2 q.2)
        let s' := setBlock s b { x with meeting := x.meeting.filter (fun n => !grp.any (fun q => q.2.num == n)) }
        match p.2.clause.bind clauseWord with
        | none => closeMeetingFrom b fuel s'
        | some cw =>
          let (m, i) := brdFields cw
          let alone := fun (s : State) (q : Nat × Wave) =>
            let s := setWave s q.1 { q.2 with hold := .no }
            finish s q.1 (brdEff s q.1 { q.2 with hold := .no } i m)
          -- waves of a group without a thread have no path to compact (assumption 26)
          if grp.length = 1 || grp.all (fun q => q.2.exec == 0) then closeMeetingFrom b fuel (grp.foldl alone s')
          else match formGroup s' b grp i m with
            | .ok t => closeMeetingFrom b fuel t
            | .error (k, e) =>
              -- the wave whose stack cannot take its entries takes the cause alone
              let s := setBlock s b { x with meeting := x.meeting.filter (fun n => ((waveAt s k).map (·.num)) != some n) }
              closeMeetingFrom b fuel (raiseWord (modWave s k (fun w => { w with hold := .no })) k e)

/-- The live waves that took no part in a meeting that closes have missed it at its addresses (R132, assumption 26). -/
def noteMissed (s : State) (b : Nat) : State :=
  match blockAt s b with
  | none => s
  | some x =>
    let live := (wavesOf s b).map (·.2) |>.filter (fun w => !w.ended)
    let at_ := ((live.filter (fun w => x.meeting.contains w.num)).map Wave.hdrAddr).eraseDups
    let late := (live.filter (fun w => !x.meeting.contains w.num)).flatMap (fun w => at_.map (fun a => (w.num, a)))
    setBlock s b { x with missed := x.missed ++ late.filter (fun p => !x.missed.contains p) }

def closeMeeting (s : State) (b : Nat) : State :=
  if (blockAt s b).any (·.shut) then closeMeetingFrom b 64 (modBlock s b (fun x => { x with shut := false }))
  else closeMeetingFrom b 64 (noteMissed s b)

/-- Whether the waves at a block's meeting have no access outstanding: then their threads may go on in one another's slots with what
each of them has seen (R133, 14 R315, assumption 106). -/
def meetingQuiet (s : State) (b : Nat) (x : Block) : Bool := (wavesOf s b).all (fun p => !x.meeting.contains p.2.num || p.2.quiet)

/-- Whether every other live wave of the block lets the meeting close, or it has closed. -/
def meetingReady (s : State) (b : Nat) : Bool :=
  match blockAt s b with
  | none => false
  | some x => x.shut || (wavesOf s b).all (fun p => meetingDone s x p.1 p.2)

/-- A meeting closes: later waves have missed it, and its groups form once its waves are quiet. -/
def shutMeeting (s : State) (b : Nat) : State :=
  match blockAt s b with
  | none => s
  | some x =>
    if meetingQuiet s b x then closeMeeting s b
    else if x.shut then s
    else modBlock (noteMissed s b) b (fun x => { x with shut := true })

/-- The meeting of a block closes if it may. -/
def tryMeeting (s : State) (b : Nat) : State := if meetingReady s b then shutMeeting s b else s

/-- `brd.cmp` (R132): a wave joins its block's meeting and waits; a compacted wave, or one that arrives after its meeting at this
address has closed, branches as `brd`. -/
def execBrdCmp (i : BitVec 21) (m : BitVec 3) (s : State) : Res :=
  waveDo s (maskGate m) (fun s k w =>
    match blockAt s w.block with
    | none => brdEff s k w i m
    | some b =>
      if b.meeting.contains w.num then .hold (tryMeeting s w.block)
      else if w.comp.isSome then brdEff s k w i m
      else if b.missed.contains (w.num, w.hdrAddr) then
        brdEff (setBlock s w.block { b with missed := b.missed.filter (fun p => p != (w.num, w.hdrAddr)) }) k w i m
      else if b.shut then .hold s
      else .hold (tryMeeting (setBlock (setWave s k { w with hold := .meeting }) w.block { b with meeting := b.meeting ++ [w.num] }) w.block))

/-! ## Table and indirect jumps -/

/-- Lanes of a list as a mask. -/
def lanesMask (l : List Nat) : Nat := l.foldl (fun m x => m + 2 ^ x) 0

/-- Read a 32-bit word for each lane through the checks of a global load (R138); `none` while an earlier access of the wave
comes first or it finds no miss entry. -/
def readTable (s : State) (k : Nat) (w : Wave) (lanes : List (Nat × Nat)) : State × Except Trapped (Option (List (Nat × Nat))) :=
  match checkLanes s k w { space := 1, size := 4, align := 4, read := true } lanes with
  | (s, .error e) => (s, .error e)
  | (s, .ok locs) =>
    let parts : List Part := locs.map (fun p => { lane := p.1, locs := p.2, data := 0 })
    if olderConflict s w.pend w.nextId parts || portBlocked s k 0 parts ||
        (takeMisses s (coreOf k) (missSectors s (coreOf k) (ctxOf s w) false parts) true).isNone then (s, .ok none) else
    let (s, gs) := readParts s k (ctxOf s w) 0 (joinsInst s (coreOf k)) parts
    let bad := gs.filter (fun p => p.2.bad)
    if bad.isEmpty then (s, .ok (some (gs.map (fun p => (p.1, p.2.val)))))
    else (coreRecord s (coreOf k) 3 (ctxOf s w) errData (firstPhys parts), .error { cause := 0x086 })

def execJmpt (c b : BitVec 6) (a : BitVec 8) (s : State) : Res :=
  waveDo s (fun w => { reads := [.v (w.phys a.toNat), .s b.toNat, .s c.toNat], tags := [(a.toNat, false)] }) (fun s k w =>
    let v := waveView s k w
    let ix := fun l => v.vec a.toNat l
    let past := v.active.filter (fun l => v.sca c.toNat ≤ ix l)
    match past with
    | l :: _ => .trap { cause := 0x042, detail := l, addr := ix l, lanes := lanesMask past }
    | [] =>
      if v.sca b.toNat % 4 != 0 then .trap { cause := 0x045 }
      else
        let lanes := v.active.map (fun l => (l, wrapTo 64 ((v.sca b.toNat : Int) + 4 * ix l)))
        match readTable s k w lanes with
        -- the record of an uncorrected error stands
        | (s, .error e) => if e.cause = 0x086 then .hold (raiseWord s k e) else .trap e
        | (s, .ok none) => .hold s
        | (s, .ok (some offs)) =>
          let h := w.hdrAddr.toNat
          divergeTo s k w (fun l =>
            wrapTo 64 ((h : Int) + 4 * toSigned 32 (((offs.find? (fun p => p.1 == l)).map (·.2)).getD 0))))

/-- Whether a jump target has bits [1:0] or [63:56] nonzero. -/
def badTarget (x : Nat) : Bool := x % 4 != 0 || decide (2 ^ 56 ≤ x)

def execJmpi (b : BitVec 6) (a : BitVec 8) (s : State) : Res :=
  waveDo s (fun w => { reads := [.v (w.phys a.toNat), .s b.toNat], tags := [(a.toNat, false)] }) (fun s k w =>
    let v := waveView s k w
    let tgt := fun l => wrapTo 64 ((v.sca b.toNat : Int) + toSigned 32 (v.vec a.toNat l))
    match v.active.filter (fun l => badTarget (tgt l)) with
    | [] => divergeTo s k w tgt
    | bad => .trap { cause := 0x045, lanes := lanesMask bad })

/-! ## Calls and returns (R140, R141) -/

/-- Write lanes of LK. -/
def Wave.writeLk (w : Wave) (lanes : Word) (f : Nat → DWord) : Wave :=
  { w with lk := Vector.ofFn (fun i => if bitOf lanes i.val then f i.val else w.lk[i]) }

/-- Whether a slide by `n` touches a register that an outstanding operation will write (02 R32). -/
def slideBusy (w : Wave) (n : Nat) : Bool :=
  let moved := (List.range n).map (fun i => RegRef.v (w.phys i))
  let back := (List.range n).map (fun i => RegRef.v (if w.bud = 0 then 0 else (w.base + w.bud - n % w.bud + i) % w.bud))
  w.pend.any (fun p => p.dst.any (fun r => moved.contains r || back.contains r))

def callEff (s : State) (k : Nat) (w : Wave) (slide : Nat) (tgt : DWord) (indirect : Bool) : Eff :=
  if w.comp.isSome then .trap { cause := 0x048 }
  else if indirect && badTarget tgt.toNat then .trap { cause := 0x045 }
  else if 128 ≤ w.stack.length then .trap { cause := 0x044 }
  else if slideBusy w (8 * slide) then .hold s
  else .after s (fun s =>
    match pushEntry s k (.frame slide w.exec) with
    | .error e => .error e
    | .ok s => match slideUp s k (8 * slide) with
      | .error e => .error e
      | .ok s => .ok (modWave s k (fun x => (x.writeLk w.exec (fun _ => afterCtrl w.hdrAddr)).goto tgt)))

def execCall (n : BitVec 5) (i : BitVec 19) (s : State) : Res :=
  waveDo s (fun _ => {}) (fun s k w => callEff s k w n.toNat (target w.hdrAddr i) false)

def execCalli (n : BitVec 5) (a : BitVec 6) (s : State) : Res :=
  waveDo s (scaGate a) (fun s k w => callEff s k w n.toNat (BitVec.ofNat 64 ((waveView s k w).sca a.toNat)) true)

/-- Link of a lane. -/
def Wave.link (w : Wave) (l : Nat) : Nat := ((w.lk.toList[l]?).getD 0).toNat

def execRet (s : State) : Res :=
  waveDo s (fun _ => {}) (fun s k w =>
    if w.comp.isSome then .trap { cause := 0x048 }
    else match needTop s k with
      | .error e => .trap e
      | .ok s' => match w.stack with
        | .frame n m :: _ =>
          let bad := (setBits 32 w.exec.toNat).filter (fun l => badTarget (w.link l))
          if bad != [] then .trap { cause := 0x045, lanes := lanesMask bad }
          else if slideBusy w (8 * n) then .hold s
          else .after s' (fun s =>
            match slideDown s k (8 * n) with
            | .error e => .error e
            | .ok s => match popEntry s k with
              | .error e => .error e
              | .ok s =>
                let s := modWave s k (fun x => { x with exec := m })
                let g := targetsOf ((setBits 32 m.toNat).map (fun l => (w.link l, l)))
                diverge s k g)
        | st => .trap { cause := 0x043, detail := if st.any (fun e => match e with
            | .frame _ _ => true
            | _ => false) then 1 else 0 })

/-! ## join, exit (R142, R143) -/

/-- Record a `join`'s address in every RECONV entry of a compaction group. -/
def joinGroup (s : State) (g : Group) (a : DWord) : State :=
  g.homes.foldl (fun s h => modWave s h (fun w =>
    let own := ownSuffix w.stack
    { w with stack := w.stack.take (w.stack.length - own.length) ++ setJaddr a own })) s

/-- JADDR of the first RECONV entry of a list. -/
def jaddrOf : List Entry → Option DWord
  | .reconv j _ _ :: _ => j
  | _ :: r => jaddrOf r
  | [] => none

def execJoin (s : State) : Res :=
  waveDo s (fun _ => {}) (fun s k w =>
    let a := afterCtrl w.hdrAddr
    match innermost w with
    | some (_, n) =>
      (match jaddrOf w.stack with
        | some j => if j != a then .trap { cause := 0x047 } else .after s (fun s => finishJoin s k a n)
        | none => .after s (fun s => finishJoin s k a n))
    | none =>
      match w.stack, w.comp, groupOf s w with
      | .cpath _ _ _ _ _ :: _, some _, some g =>
        let j := (g.homes.head?.bind (waveAt s)).bind (fun h => jaddrOf (ownSuffix h.stack))
        if j.any (fun x => x != a) then .trap { cause := 0x047 }
        else if !w.quiet then .hold s
        else .after s (fun s => cwaveEnded (endPath 300) (joinGroup s g a) k)
      | _, _, _ => .done s)
where
  /-- The running path leaves the divergence on top, which merges when it was the last (R130). -/
  finishJoin (s : State) (k : Nat) (a : DWord) (_n : Nat) : Except Trapped State :=
    match needTop s k with
    | .error e => .error e
    | .ok s => match waveAt s k with
      | none => .ok s
      | some w =>
        let w := { w with stack := setJaddr a w.stack }
        match dropRunning w with
        | none => .ok (setWave s k w)
        | some w' => if w'.stack.head?.any isPathEntry then .ok (setWave s k w') else endPath 300 (setWave s k w') k

def execExit (s : State) : Res :=
  eitherDo s (fun _ => {}) []
    (fun s k _ => .after s (fun s => match exitWave s k with
      | .error e => .error e
      | .ok s => .ok (reap s k)))
    -- a scarab's wave exits once its operations are done (17 R384)
    (fun s k x => if x.pend.isEmpty then .after s (fun s => .ok (endScarab s k)) else .hold s)

/-! ## dsel, ifence, yield, trap (R144, R145) -/

/-- Select a dictionary slot (03 R62). -/
def execDsel (n : BitVec 3) (s : State) : Res :=
  waveDo s (fun _ => {}) (fun s k w =>
    let c := coreOf k
    let core := s.core c
    let slot := core.slots.look {} n.toNat
    if w.comp.isSome then .trap { cause := 0x048 }
    else if w.hold == .dictFailed n.toNat || slot.owner != ctxOf s w || slot.state == .empty then .trap { cause := 0x041 }
    else if slot.state == .loading then .hold (setWave s k { w with hold := .dictWait n.toNat })
    else .done (selectSlot s k n.toNat))

/-- The core's instruction cache loses every line, and the wave's later fetches read through to memory (R144). -/
def execIfence (s : State) : Res :=
  waveDo s (fun _ => {}) (fun s k w =>
    .done (setWave (s.setCore (coreOf k) { s.core (coreOf k) with icache := [] }) k { w with fenced := some [], oldWords := [] }))

def execYield (s : State) : Res :=
  eitherDo s (fun _ => {}) [] (fun s k _ => .after s (fun s => .ok (modWave s k (fun w => { w with yielded := true }))))
    (fun s _ _ => .done s)

def execTrap (i : BitVec 16) (s : State) : Res :=
  waveDo s (fun _ => {}) (fun _ _ _ => .trap { cause := 0x046, detail := i.toNat, next := true })

end Sys2Proof.Machine
end

