-- ==== Sys2Proof/Machine/Fabric.lean ====
section
/-! DEFINITION. Remote stores, ports, peers, the host's accesses, translation events, pinned windows and extents (16 R371 to
R381, 20 R448, 13 R298, R302, R310 to R313). -/

namespace Sys2Proof.Machine

/-! ## rst and rstf (R376, R377) -/

/-- The package a physical byte lies in, if another. -/
def peerOf (s : State) : Loc → Option Nat
  | .phys a _ _ => (match physKind s a with
    | .peer p _ => some p
    | _ => none)
  | .spad _ _ => none

/-- Packages the lanes' bytes lie in. -/
def partPeers (s : State) (ps : List Part) : List Nat := (ps.flatMap (fun p => p.locs.filterMap (peerOf s))).eraseDups

/-- A packet's line with its byte mask and data, under construction. -/
structure LinePack where
  line : Nat
  bytes : Tab (Option Byte)
  deriving DecidableEq, Repr

/-- The bytes of lanes gathered by line, in rising order of address, which is by package and then line; of two lanes the
higher stands. -/
def gatherLines (s : State) (parts : List Part) : List LinePack :=
  let bytes := parts.flatMap (fun p => (partBytes p).filterMap (fun b => match b.1 with
    | .phys a _ _ => some (physNorm s a, b.2)
    | .spad _ _ => none))
  let lines := bytes.foldl (fun (t : Tab (Tab (Option Byte))) b => Tab.ins t (b.1 / 128) (Tab.ins (Tab.look [] t (b.1 / 128)) (b.1 % 128) (some b.2))) []
  lines.map (fun p => { line := p.1, bytes := p.2 })

def LinePack.mask (l : LinePack) : BitVec 128 := BitVec.ofNat 128 (l.bytes.foldl (fun m p => m + 2 ^ p.1) 0)
def LinePack.data (l : LinePack) : BitVec 1024 := BitVec.ofNat 1024 (l.bytes.foldl (fun m p => m + (p.2.getD 0).toNat * 256 ^ p.1) 0)
def LinePack.pkg (l : LinePack) : Nat := l.line / 2 ^ 33 % 256

/-- The wave's destination entry of a package. -/
def dstEntry (w : Wave) (pkg : Nat) : RemoteDst :=
  (w.rdst.find? (fun d => d.pkg == pkg)).getD { pkg := pkg, cnt := 0, epoch := false, flagOut := false, perPath := [0, 0, 0, 0] }

def setEntry (w : Wave) (d : RemoteDst) : Wave :=
  { w with rdst := if w.rdst.any (fun x => x.pkg == d.pkg) then w.rdst.map (fun x => if x.pkg == d.pkg then d else x) else w.rdst ++ [d] }

/-- Packets awaiting acknowledgement on a path change by one. -/
def RemoteDst.onPath (d : RemoteDst) (i : Nat) (f : Nat → Nat) : RemoteDst :=
  { d with perPath := (List.range 4).map (fun j => let n := (d.perPath[j]?).getD 0; if j = i then f n else n) }

/-- The checks `rst` and `rstf` share: those of R284, then that every lane names another package, one with a usable path. -/
def remoteCheck (t : TOp) (s : State) (k : Nat) (w : Wave) (lanes : List (Nat × Nat)) : State × Except Trapped (List Part) :=
  let v := waveView s k w
  let n := fmtBits t.fmt / 8
  match checkLanes s k w { size := n, align := n, write := true, path := false } lanes with
  | (s, .error e) => (s, .error e)
  | (s, .ok ls) =>
    let parts := storeOf v t ls
    let mask := fun (l : List Part) => l.foldl (fun m p => m + 2 ^ p.lane) 0
    let here := parts.filter (fun p => p.locs.any (fun x => (peerOf s x).isNone))
    let cut := parts.filter (fun p => (partPeers s [p]).any (fun g => (peerPaths s g).isEmpty))
    match here, cut with
    | _ :: _, _ => (s, .error { cause := 0x154, lanes := mask here })
    | [], _ :: _ => (s, .error { cause := 0x150, lanes := mask cut })
    | [], [] => (s, .ok parts)

/-- Whether a wave's destination entries cannot take `n` more packets for each of some packages. -/
def remoteFull (w : Wave) (l : List (Nat × Nat)) : Bool :=
  decide (8 < w.rdst.length + (l.filter (fun p => !w.rdst.any (fun d => d.pkg == p.1))).length) ||
  l.any (fun p => 65535 < (dstEntry w p.1).cnt + p.2)

/-- Packets of a core that are not acknowledged. -/
def corePackets (s : State) (c : Nat) : List Packet := s.packets.filter (fun q => coreOf q.wave == c)

/-- Send one data packet for a line. -/
def sendLine (k pend : Nat) (s : State) (l : LinePack) : State :=
  match waveAt s k with
  | none => s
  | some w =>
    let (path, port) := choosePath s (coreOf k) l.pkg []
    let d := dstEntry w l.pkg
    let q : Packet := { id := s.nextId, wave := k, pend := some pend, pkg := l.pkg, path := path, port := port, isFlag := false, epoch := d.epoch
                        line := l.line, mask := l.mask, data := l.data }
    { setWave s k (setEntry w { d.onPath path (· + 1) with cnt := d.cnt + 1 }) with packets := s.packets ++ [q], nextId := s.nextId + 1 }

def execRst (t : TOp) (s : State) : Res :=
  opDo 0x2E6 t s (fun s k w =>
    match remoteCheck t s k w (wordLanes (waveView s k w) t false) with
    | (_, .error e) => .trap e
    | (s, .ok []) => .done s
    | (s, .ok parts) =>
      let ls := gatherLines s parts
      let pkgs := (ls.map LinePack.pkg).eraseDups
      if remoteFull w (pkgs.map (fun p => (p, (ls.filter (fun l => l.pkg == p)).length))) then .trap { cause := 0x156 }
      else if 2048 < (corePackets s (coreOf k)).length + ls.length || !flagRoom w (attOf w t) then .hold s
      else
        let ids := (List.range ls.length).map (fun i => s.nextId + i)
        let s := setWave s k (w.addPend { id := w.nextId, flag := attOf w t, cls := .rst, dst := [], work := .packets ids, homes := pendHomes w })
        .done (escape (ls.foldl (sendLine k w.nextId) s) w.block))

def execRstf (t : TOp) (s : State) : Res :=
  opDo 0x2E7 t s (fun s k w =>
    let v := waveView s k w
    match v.active with
    | [] => .done s
    | lane :: _ => match remoteCheck t s k w [(lane, accAddr v t (t.opmod.toNat / 32 % 4) (bitOf t.opmod 7) lane)] with
      | (_, .error e) => .trap e
      | (s, .ok parts) => match gatherLines s parts with
        | [] => .done s
        | l :: _ =>
          let d := dstEntry w l.pkg
          if remoteFull w [(l.pkg, 0)] then .trap { cause := 0x156 }
          else if d.flagOut || 2048 ≤ (corePackets s (coreOf k)).length || !flagRoom w (attOf w t) then .hold s
          else
            let (path, port) := choosePath s (coreOf k) l.pkg []
            let q : Packet := { id := s.nextId, wave := k, pend := some w.nextId, pkg := l.pkg, path := path, port := port, isFlag := true
                                epoch := d.epoch, count := d.cnt, line := l.line, mask := l.mask, data := l.data }
            let w := setEntry w { d.onPath path (· + 1) with cnt := 0, epoch := !d.epoch, flagOut := true }
            let s := setWave s k (w.addPend { id := w.nextId, flag := attOf w t, cls := .rst, dst := [], work := .packets [q.id], homes := pendHomes w })
            .done (escape { s with packets := s.packets ++ [q], nextId := s.nextId + 1 } w.block))

/-- `rfence` waits for every packet of the wave, then raises what they came to (R379). -/
def execRfence (_t : TOp) (s : State) : Res :=
  let busy := fun (w : Wave) => w.pend.any (fun p => p.cls == .rst)
  waveDo s (fun w => { sees := fun d => d.atRfence && !busy w }) (fun s k w => if busy w then .hold (setWave s k { w with fencing := true }) else .done s)

/-- A packet is done with, with a cause held for what waits on its word. -/
def endPacket (s : State) (q : Packet) (cause : Option (Nat × Nat)) : State :=
  let s := { s with packets := s.packets.filter (fun x => x.id != q.id) }
  match q.pend with
  | none => s
  | some id => modWave s q.wave (fun w =>
      let d := (dstEntry w q.pkg).onPath q.path (· - 1)
      let w := setEntry w (if q.isFlag then { d with flagOut := false } else d)
      match w.pend.find? (fun p => p.id == id) with
      | none => w
      | some p =>
        let w := match cause with
          | some (c, x) => { w with deferred := w.deferred ++ [{ cause := c, detail := x, regs := [], flag := p.flag, cls := .rst
                                                                 atFence := true, atRfence := true, pathIx := q.path }] }
          | none => w
        match p.work with
        | .packets l =>
          let l := l.filter (fun i => i != q.id)
          if l.isEmpty then w.endPend id
          else { w with pend := w.pend.map (fun x => if x.id = id then { x with work := .packets l } else x) }
        | _ => w)

/-- A flag or clear times out: counted and recorded at its port; the wave's entry starts again (R378, R381). -/
def flagTimeout (s : State) (q : Packet) : State :=
  modWave (endPacket (portTimeout s q.port) q (some (0x151, q.path))) q.wave (fun w =>
    if q.pend.isSome then setEntry w { dstEntry w q.pkg with cnt := 0 } else w)

/-- The acknowledgement of a packet. A negative one says that the destination refused the access (13 R298), or of a flag or a clear that
its keeper abandoned it, a timeout (R378). -/
def execRemoteAck (k id : Nat) (neg : Bool) (s : State) : Res :=
  match s.packets.find? (fun q => q.id == id && q.wave == k) with
  | none => .next s
  | some q =>
    if !neg then .next (endPacket s q none)
    else if q.isFlag && (q.pend.isNone || freeBit s 13) then .next (flagTimeout s q)
    else .next (endPacket s q (some (0x086, 0)))

/-! ## The keeper (R376, R378) -/

/-- The stack whose base die keeps a source wave's counters, and its key in the table of entries. -/
def keeperStack (src : Nat) : Nat := src / 64 % 256 % 16
def keeperKey (src : Nat) : Nat := keeperStack src * 2 ^ 22 + src
def keeperOf (s : State) (src : Nat) : Keeper := s.keepers.look {} (keeperKey src)
def setKeeper (s : State) (src : Nat) (x : Keeper) : State := { s with keepers := s.keepers.put {} (keeperKey src) x }
def Keeper.applied (x : Keeper) (e : Bool) : Nat := if e then x.applied1 else x.applied0
def Keeper.setApplied (x : Keeper) (e : Bool) (n : Nat) : Keeper := if e then { x with applied1 := n } else { x with applied0 := n }

/-- Whether an address from outside the package names memory it may reach. -/
def outsideHas (s : State) (host : Bool) (a : Nat) : Bool := match physKind s a with
  | .inter => true
  | .stackLocal _ _ => host
  | _ => false

/-- Bytes stored by another package or the host under a grade: refused with a record where its ranges hold no such byte, held back while
the host is asked for a line, else applied. `none` says that it is held back. Another package reaches the interleaved memory, the host
also the stack-local memory (13 R298, 20 R448, assumption 108). -/
def outsideStore (s : State) (bytes : List (Nat × Byte)) (host : Bool) (g : Grade) (rels : List Rel := []) : Bool × State :=
  let as := bytes.map (·.1)
  if as.any (fun a => !outsideHas s host a) then
    (true, stackRecord s (homeStack (as.headD 0)) (1 + freeNat s 9 % 3) 3
      (homeStack (as.headD 0) * 16 + homeSlice (as.headD 0)) errRefused (as.head?))
  else match (if host then none else needSnoop s as) with
    | some s => (false, s)
    | none => (true, { applyStore { s with hand := { rels := rels } } bytes g with hand := {} })

def execRemoteStorePacket (src : Nat) (epoch : Bool) (line : OutAddr) (mask : BitVec 128) (data : BitVec 1024) (s : State) : Res :=
  let bytes := ((List.range 128).filter (fun i => natBit mask.toNat i)).map (fun i => (line.addr * 128 + i, BitVec.ofNat 8 (data.toNat / 256 ^ i)))
  match outsideStore s bytes false line.grade with
  | (false, s) => .next s
  | (true, s') => .next (if bytes.any (fun b => !outsideHas s false b.1) then s' else { s' with notices := s'.notices ++ [(src, epoch)] })

/-- A notice counts its packet; one that finds no free entry waits; a failed entry counts nothing. -/
def execKeeperNotice (src : Nat) (epoch : Bool) (s : State) : Res :=
  if !s.notices.contains (src, epoch) then .next s
  else if s.sys.stacksLost.contains (keeperStack src) then .next { s with notices := s.notices.erase (src, epoch) }
  else
    let x := keeperOf s src
    let used := (s.keepers.filter (fun p => p.1 / 2 ^ 22 == keeperStack src)).length
    let gone := { s with notices := s.notices.erase (src, epoch) }
    if x.failed then .next gone
    else if x = {} && 8192 ≤ used then .next s
    else .next (setKeeper gone src (x.setApplied epoch (x.applied epoch + 1)))

/-- A flag or clear at its keeper: held until enough packets are counted; a failed entry abandons it. A flag's store is a release at
dm (14 R330). -/
def keeperTake (s : State) (f : HeldFlag) : State :=
  let x := keeperOf s f.src
  let gone := { s with keeperHeld := s.keeperHeld.erase f }
  -- a keeper on a lost stack answers nothing (01 R23)
  if s.sys.stacksLost.contains (keeperStack f.src) then gone
  else if x.failed then linkTimeout gone (keeperStack f.src) (2 * keeperStack f.src + freeNat s 15 % 2)
  else if x.applied f.epoch < f.count then (if s.keeperHeld.contains f then s else { s with keeperHeld := s.keeperHeld ++ [f] })
  else
    let counted := setKeeper gone f.src (x.setApplied f.epoch 0)
    match f.store with
    | none => counted
    | some (a, n, v) => match outsideStore counted (bytesOf a.addr n v.toNat) false a.grade [relNow s { kind := .peer, id := f.src } 5] with
      | (true, s) => s
      | (false, t) => { s with snoops := t.snoops, keeperHeld := if s.keeperHeld.contains f then s.keeperHeld else s.keeperHeld ++ [f] }

def execKeeperFlag (src : Nat) (epoch : Bool) (count : Nat) (addr : OutAddr) (size : Nat) (data : DWord) (s : State) : Res :=
  .next (keeperTake s { src := src, epoch := epoch, count := count, store := some (addr, min size 8, data) })

def execKeeperClear (src : Nat) (epoch : Bool) (count : Nat) (s : State) : Res :=
  .next (keeperTake s { src := src, epoch := epoch, count := count, store := none })

/-- A held flag or clear whose count is not reached is abandoned, and the wave's entry marked failed. -/
def execKeeperTimeout (src : Nat) (epoch : Bool) (s : State) : Res :=
  let x := keeperOf s src
  match s.keeperHeld.find? (fun f => f.src == src && f.epoch == epoch && decide (x.applied epoch < f.count)) with
  | none => .next s
  | some f =>
    .next (setKeeper (linkTimeout { s with keeperHeld := s.keeperHeld.erase f } (keeperStack src) (2 * keeperStack src + freeNat s 15 % 2))
      src { x with failed := true })

def execKeeperEntryFree (src : Nat) (s : State) : Res :=
  .next (if (keeperOf s src).failed then setKeeper s src {} else s)

/-- Keepers discard the entries of a lost package's waves and the flags held from it (R381). -/
def execPeerPackageLost (p : Nat) (s : State) : Res :=
  .next { s with keepers := s.keepers.filter (fun x => x.1 % 2 ^ 22 / 16384 != p)
                 keeperHeld := s.keeperHeld.filter (fun f => f.src / 16384 != p) }

/-! ## Timeouts of peers (R381) -/

/-- A cause held for the words that wait on an operation that returns nothing. -/
def deferPend (w : Wave) (p : Pend) (cause path : Nat) (regs : List RegRef) : Wave :=
  { w with deferred := w.deferred ++ [{ cause := cause, detail := path, regs := regs, flag := p.flag, cls := p.cls
                                        atFence := regs.isEmpty, atRfence := p.cls == .rst, pathIx := path }] }

/-- The path to another package whose port is `n`. -/
def pathIx (s : State) (pkg n : Nat) : Nat :=
  ((List.range 4).find? (fun i => bitOf (s.peerrt.look 0 pkg) (8 * i + 7) && fieldOf (s.peerrt.look 0 pkg) (8 * i) 5 == n)).getD (freeNat s 16 % 4)

/-- The other packages that a copy's moves reach. -/
def movePkgs (s : State) (ctx : Nat) (rs : Nat → Nat → Option CopyLoc) (moves : List (Nat × Nat × Nat)) : List Nat :=
  moves.flatMap (fun m => [m.1, m.2.1].filterMap (fun a => match rs a m.2.2 with
    | some (.virt va) => (match walk s ctx va with
      | .ok y => (match physKind s y.pa with
        | .peer p _ => some p
        | _ => none)
      | .error _ => none)
    | _ => none))

/-- The outstanding operation of a wave that reaches another package completes as a timeout. -/
def waveTimeout (s : State) (k : Nat) (w : Wave) (p : Pend) (n : Nat) : State :=
  let late := p.reqs.filter (fun r => r.port == n)
  let path := (late.head?.map (·.path)).getD 0
  let t := timeoutReqs s late
  match p.work with
  | .load d parts cp =>
    if late.isEmpty then s else
    let qs := missSectors s (coreOf k) (ctxOf s w) (cp == 2) parts
    (match readParts t k (ctxOf s w) cp (installs s (coreOf k)) parts with
      | (t, gs) =>
        modWave (deliverLoad (endMisses t (coreOf k) qs) k p.homes p.flag d gs true 0x151 path) k (fun w => w.endPend p.id))
  | .store _ _ true => if late.isEmpty then s else modWave t k (fun w => deferPend (w.endPend p.id) p 0x151 path [])
  | .atomic _ d _ _ _ => if late.isEmpty then s else
      modWave t k (fun w => deferPend (w.endPend p.id) p 0x151 path (if d.isSome then p.dst else []))
  | .region _ _ _ _ => if late.isEmpty then s else modWave t k (fun w => deferPend (w.endPend p.id) p 0x151 path p.dst)
  | .packets l => (s.packets.filter (fun q => l.contains q.id && q.port == n)).foldl (fun s q =>
      if q.isFlag then flagTimeout s q else endPacket (portTimeout s n) q (some (0x151, q.path))) s
  | .engine r => match (s.core (coreOf k)).copies.find? (fun x => x.id == r) with
    | none => s
    | some x =>
      let c := coreOf k
      let rs := copyResolve s x.ctx x.blk
      if x.written || !copyStarted s c x.id 0 || !movesFar s x.ctx rs x.work.moves || !forkReady s k p.id then s
      else match needSnoop s (copyAddrs s c x.ctx rs x.work.moves) with
        | some s => s
        | none =>
          let t := portTimeout s n
          let t := if copyLeaves rs x.blk x.work.moves then escape t x.blk else t
          match runCopy t c (copyJob s x) false (some 6) with
          | (t, e, crc) => finishCopy t c x crc e (pathIx s ((movePkgs s x.ctx rs x.work.moves).headD 0) n)
  | _ => s

/-- A record of a chain whose access to another package times out ends with ERR 6 (R358, R363). -/
def chainTimeout (s : State) (c hdr seq n : Nat) : State :=
  match (s.core c).chains.find? (fun x => x.hdr.toNat == hdr) with
  | none => s
  | some ch => match chainRec s c ch seq with
    | (s, .error _) => s
    | (s, .ok (a, r)) =>
      let far := match recOp r with
        | 1 | 2 => movesFar s ch.ctx (fun a _ => some (.virt a)) (chainCopy r).moves
        | 3 | 4 => vaFar s ch.ctx (natAt r 8 8)
        | _ => false
      if recBad s ch.ctx r || !far || !recRuns s c ch seq r || ch.moved.any (fun m => m.1 == seq) then s
      else if recOp r < 3 then
        match chainMove c seq (some 6) (portTimeout s n) ch r with
        | (s, none) => s
        | (s, some (err, crc)) => endRecord s c ch seq (some a) crc err
      else endRecord (portTimeout s n) c ch seq (some a) 0 6

/-- A clear that nothing answers times out: its wave has gone (R378). -/
def clearTimeout (s : State) (k id n : Nat) : State :=
  match s.packets.find? (fun q => q.id == id && q.wave == k && q.pend.isNone && q.port == n) with
  | some q => flagTimeout s q
  | none => s

/-- A timeout through port `n`: of operation `id` of a wave (of a clear, its packet's number plus 2^64), of a buffered store of a cox, or outside them of a chain's record, named by its
core, number and header address in `id` from bit 0, 8 and 72. -/
def execPeerTimeout (g : Agent) (id n : Nat) (s : State) : Res :=
  if 32 ≤ n || (s.ports.look {} n).pool then .next s
  else match g with
  | .wave k => if 2 ^ 64 ≤ id then .next (clearTimeout s k (id - 2 ^ 64) n) else (match waveAt s k with
    | none => .next s
    | some w => match w.pend.find? (fun p => p.id == id) with
      | some p => .next (waveTimeout s k w p n)
      | none => .next s)
  | .cox c =>
    let x := coxAt s c
    (match x.sbuf.find? (fun p => p.id == id) with
      | some p => match p.work with
        | .store _ _ true =>
          let late := p.reqs.filter (fun r => r.port == n)
          .next (if late.isEmpty then s else timeoutReqs (setCox s c { x with sbuf := x.sbuf.filter (fun q => q.id != id) }) late)
        | _ => .next s
      | none => .next s)
  | .outside => .next (chainTimeout s (id % 256) (id / 2 ^ 72) (id / 256 % 2 ^ 64) n)
  | .scarab _ => .next s

/-! ## Links and ports (R372 to R374, R380) -/

/-- A replay on a link: 0 to 31 the ports, 32 to 79 the links between stacks, 80 to 111 the links between dies; a corrected record
(20 R456), and for a port the flits replayed, the discarded one and every later one of its 128 (R372). -/
def execFlitReplay (r : LinkReplay) (s : State) : Res :=
  let link := r.link
  if link < 32 then
    let p := s.ports.look {} link
    .next (stackRecord { s with ports := s.ports.put {} link { p with retries := min 65535 (p.retries + max 1 (min r.flits 128)) } } (link / 2) 1 6 link errLink none)
  else if link < 80 then .next (stackRecord s (freeNat s 17 % 16) 1 5 (link - 32) errLink none)
  else if link < 112 then .next (stackRecord s (freeNat s 17 % 16) 1 9 (link - 80) errLink none)
  else .next s

/-- The first failing lane gets the spare; a second failure takes the port down. -/
def execPortLaneFail (n : Nat) (lane : BitVec 4) (s : State) : Res :=
  let p := s.ports.look {} n
  if 32 ≤ n || 8 ≤ lane.toNat || p.state == .down then .next s
  else .next { s with ports := s.ports.put {} n (if p.spare then { p with state := .down } else { p with failLane := lane, spare := true }) }

def drainPort (s : State) (n : Nat) : State :=
  let p := s.ports.look {} n
  if 32 ≤ n || s.sys.stacksLost.contains (n / 2) then s
  else { s with ports := s.ports.put {} n { p with drain := true, state := if p.state == .drained then .drained else .draining } }

def retrainPort (s : State) (n : Nat) : State :=
  let p := s.ports.look {} n
  if 32 ≤ n || s.sys.stacksLost.contains (n / 2) then s
  else { s with ports := s.ports.put {} n { p with drain := false, state := if p.state == .drained then .training else p.state } }

/-- The driver's writes of PORTCTL, through the management function, which the anchor die's loss takes away (01 R22). -/
def execPortDrain (n : Nat) (s : State) : Res := .next (if s.sys.anchorLost then s else drainPort s n)
def execPortRetrain (n : Nat) (s : State) : Res := .next (if s.sys.anchorLost then s else retrainPort s n)

/-- Whether a message sent through a port awaits its answer. -/
def portBusy (s : State) (n : Nat) : Bool :=
  let far := fun (l : List Pend) => l.any (fun p => p.reqs.any (fun r => r.port == n))
  s.packets.any (fun q => q.port == n) || s.waves.any (fun q => q.2.any (fun w => far w.pend)) || s.coxes.any (fun q => far q.2.sbuf)

def execPortDrained (n : Nat) (s : State) : Res :=
  let p := s.ports.look {} n
  if 32 ≤ n || p.state != .draining || portBusy s n then .next s
  else .next { s with ports := s.ports.put {} n { p with state := if p.drain then .drained else .training } }

def execPortTrainingComplete (n : Nat) (s : State) : Res :=
  let p := s.ports.look {} n
  if 32 ≤ n || p.state != .training || s.sys.stacksLost.contains (n / 2) then .next s
  else .next { s with ports := s.ports.put {} n { p with state := .up } }

/-! ## The host and other packages (20 R448, 13 R298) -/

/-- The host may hold the lines of some bytes. -/
def hostHolds (s : State) (as : List Nat) : State :=
  { s with hostLines := s.hostLines ++ (linesOf s as).filter (fun l => !s.hostLines.contains l) }

/-- A host access to device memory: a write is applied at the home, and the host may hold the line afterwards. -/
def execHostAccess (write : Bool) (addr : OutAddr) (data : List Byte) (s : State) : Res :=
  let bytes := (List.range data.length).zip data |>.map (fun p => (addr.addr + p.1, p.2))
  let as := bytes.map (·.1)
  if s.sys.anchorLost || s.sys.bootFailed || as.any (fun a => !outsideHas s true a) then .next s
  else if write then .next (hostHolds (outsideStore s bytes true addr.grade).2 as)
  else .next (hostHolds s as)

/-- An access of another package, served at its home or refused with an error record. -/
def execPeerAccess (write : Bool) (addr : OutAddr) (data : List Byte) (s : State) : Res :=
  let bytes := (List.range data.length).zip data |>.map (fun p => (addr.addr + p.1, p.2))
  if write || bytes.any (fun b => !outsideHas s false b.1) then .next (outsideStore s bytes false addr.grade).2 else .next s

/-- The host gives a line up: stores that wait for it go on. -/
def execBackInvalidationResponse (line : Nat) (s : State) : Res :=
  if s.snoops.contains line then
    .next { s with snoops := s.snoops.filter (fun l => l != line), hostLines := s.hostLines.filter (fun l => l != line) }
  else .next s

/-! ## Translation, windows, extents (13) -/

/-- A walk for the context of a core installs its result; one that faults installs nothing. -/
def execTlbWalk (c : Nat) (va : DWord) (s : State) : Res :=
  match (s.core c).ctx with
  | none => .next s
  | some ctx => match walk s ctx (va.toNat % 2 ^ 56) with
    | .ok x => .next (if (extentDetail s x.pa).isSome then s else tlbInstall s c ctx (va.toNat % 2 ^ 56) x true)
    | .error _ => .next s

/-- An epoch ends: the filters clear, enabled windows age, and one whose IDLE reaches its FADE is released (R310, R311). -/
def execEpochBoundary (s : State) : Res :=
  .next { s with bloom := [], mscw := s.mscw.map (fun p =>
    if !p.2.en then p
    else
      let idle := min 65535 (p.2.idle + 1)
      (p.1, { p.2 with idle := idle, en := !(p.2.fade != 0 && p.2.fade ≤ idle) })) }

/-- Whether window `n` may be enabled with a base and size. -/
def windowFits (s : State) (n base size : Nat) : Bool :=
  let on := s.mscw.filter (fun p => p.2.en && p.1 != n)
  let total := on.foldl (fun x p => x + p.2.size) size
  size != 0 && decide (total * 2 ^ 21 * 4 ≤ 3 * 16 * s.mcGiB * gib) &&
  on.all (fun p => base + size * 2 ^ 21 ≤ p.2.base.toNat || p.2.base.toNat + p.2.size * 2 ^ 21 ≤ base) &&
  s.extents.any (fun p => p.2.state == .granted && p.2.base ≤ base && base + size * 2 ^ 21 ≤ p.2.base + p.2.size)

/-- A write to MSCWCTL of a window through the management function. -/
def execMscwEnable (n : Nat) (v : DWord) (s : State) : Res :=
  if 64 ≤ n || s.sys.anchorLost then .next s
  else
    let old : Window := s.mscw.look {} n
    let size := fieldOf v 0 16
    let w := { old with refused := old.refused && !bitOf v 62, fade := fieldOf v 32 16, size := size }
    let w := if !bitOf v 63 then { w with en := false }
      else if windowFits s n w.base.toNat size then { w with en := true, idle := if old.en then w.idle else 0 }
      else { w with en := false, refused := true }
    .next { s with mscw := s.mscw.put {} n w }

def inExtent (e : Extent) (a : Nat) : Bool := e.base ≤ a && a < e.base + e.size

/-- The fabric manager grants an extent of pool memory that overlaps no other, over the management channel (01 R22). -/
def execExtentGrant (n base size : Nat) (s : State) : Res :=
  let e := s.extents.look {} n
  let clash := s.extents.any (fun p => p.1 != n && p.2.state != .absent && p.2.base < base + size && base < p.2.base + p.2.size)
  if 512 ≤ n || s.sys.anchorLost || base < 2 ^ 51 || 2 ^ 52 < base + size || clash || e.state == .granted || e.state == .releasing then .next s
  else .next { s with extents := s.extents.put {} n { base := base, size := size, state := .granted, dropped := 0 } }

/-- Translations that map an extent leave every TLB. -/
def dropExtentTlb (s : State) (e : Extent) : State :=
  let keep := fun (x : TlbEntry) =>
    let pa := fieldOf x.pte 16 36 * 65536
    !(decide (pa < e.base + e.size) && decide (e.base < pa + x.pages * 65536))
  { s with cores := s.cores.map (fun p => (p.1, { p.2 with tlb := p.2.tlb.filter keep }))
           dies := s.dies.map (fun p => (p.1, { p.2 with tlb := p.2.tlb.filter keep })) }

/-- Whether an access already translated to an extent is outstanding. -/
def extentBusy (s : State) (e : Extent) : Bool :=
  let hit := fun (p : Pend) => ((workParts p.work).1.any (fun q => q.locs.any (fun x => match x with
    | .phys a _ _ => inExtent e a
    | .spad _ _ => false)))
  s.waves.any (fun p => p.2.any (fun w => w.pend.any hit)) || s.coxes.any (fun p => p.2.sbuf.any hit)

/-- Windows of an extent are released, and its lines leave the memory-side cache and the home slices. -/
def releaseWindows (s : State) (e : Extent) : State :=
  { s with mscw := s.mscw.map (fun p => if inExtent e p.2.base.toNat then (p.1, { p.2 with en := false }) else p)
           msc := s.msc.filter (fun p => !inExtent e (p.1 * 128))
           slice := s.slice.filter (fun l => !inExtent e (l * 128)) }

/-- A release: the extent stops being translated, and once accesses in flight have ended its dirty lines are in the pool (R313). -/
def execExtentRelease (n : Nat) (s : State) : Res :=
  let e := s.extents.look {} n
  match e.state with
  | .granted => if s.sys.anchorLost then .next s else .next (dropExtentTlb { s with extents := s.extents.put {} n { e with state := .releasing } } e)
  | .releasing =>
    if extentBusy s e then .next s
    else
      let s := releaseWindows s e
      .next { s with dirty := s.dirty.filter (fun p => !inExtent e (p.1 * 128)), extents := s.extents.put {} n { e with state := .absent } }
  | _ => .next s

/-- A line and its metadata fall back to what its pool device holds, `d`: what was written since is gone. -/
def poolBack (s : State) (l : Nat) (d : BitVec 1152) : State :=
  let s := (List.range 128).foldl (fun s i => { s with
    mem := s.mem.put 0 (l * 128 + i) (BitVec.ofNat 8 (d.toNat / 256 ^ i)), hist := s.hist.put [] (l * 128 + i) [] }) s
  [0, 1].foldl (fun s j => { s with
    md := s.md.put 0 (2 * l + j) (BitVec.ofNat 64 (d.toNat / 2 ^ (1024 + 64 * j)))
    hist := (List.range 8).foldl (fun t i => t.put [] (mdKey (2 * l + j) i) []) s.hist }) s

/-- A forced release: dirty lines that still differ from the pool are dropped; one may have been written back before, a free
choice. -/
def execExtentForcedRelease (n : Nat) (s : State) : Res :=
  let e := s.extents.look {} n
  if (e.state == .granted || e.state == .releasing) && !s.sys.anchorLost then
    let lost := s.dirty.filter (fun p => inExtent e (p.1 * 128) && freeBit s (6000000 + p.1))
    let s := dropExtentTlb s e
    let s := lost.foldl (fun s p => poolBack s p.1 (p.2.getD 0)) s
    let s := releaseWindows { s with dirty := s.dirty.filter (fun p => !inExtent e (p.1 * 128)) } e
    let s := { s with extents := s.extents.put {} n { e with state := .revoked, dropped := min 65535 (e.dropped + lost.length) } }
    .next (stackRecord s (homeStack e.base) 3 3 (homeStack e.base * 16 + homeSlice e.base) errExtent (some e.base))
  else .next s

end Sys2Proof.Machine
end

