-- ==== Sys2Proof/Machine/FloatAlu.lean ====
section
/-! DEFINITION. The floating-point and conversion words (09), of a wave or a scarab. -/

namespace Sys2Proof.Machine

/-! ## Arithmetic and comparison (R196 to R200, R209) -/

/-- Whether a source of a `.b` word is class B. -/
def classB (v : View) (t : TOp) (o : Opnd) : Bool := t.bnd && tagIsB (srcTag v t.fmt o)

/-- A word with a rule on bounded factors: where it is broken, cause 0x0C2 after the tag checks (R209). -/
def boundedDo (op : Nat) (t : TOp) (s : State) (bad : View → TOp → Bool) (f : View → TOp → Out) : Res :=
  match s.cur with
  | .scarab _ => aluDo op t s f
  | _ => opDo op t s (fun s k w =>
    let v := waveView s k w
    if bad v t then .trap { cause := 0x0C2 } else .done (applyOut s k (f v t)))

def execFadd (t : TOp) (s : State) : Res := aluDo 0x100 t s faddOp
def execFsub (t : TOp) (s : State) : Res := aluDo 0x101 t s fsubOp
def execFmin (t : TOp) (s : State) : Res := aluDo 0x104 t s fminOp
def execFmax (t : TOp) (s : State) : Res := aluDo 0x105 t s fmaxOp
def execFcmp (t : TOp) (s : State) : Res := aluDo 0x106 t s fcmpOp
def execFclass (t : TOp) (s : State) : Res := aluDo 0x107 t s fclassOp
def execFmul (t : TOp) (s : State) : Res := boundedDo 0x102 t s (fun v t => classB v t t.b) fmulOp
def execFma (t : TOp) (s : State) : Res := boundedDo 0x103 t s (fun v t => classB v t t.a && classB v t t.b) fmaOp

/-! ## Roots and transcendentals (R201) -/

def execFrcp (t : TOp) (s : State) : Res := aluDo 0x108 t s (specialOp 0x108)
def execFrsq (t : TOp) (s : State) : Res := aluDo 0x109 t s (specialOp 0x109)
def execFsqrt (t : TOp) (s : State) : Res := aluDo 0x10A t s (specialOp 0x10A)
def execFexp2 (t : TOp) (s : State) : Res := aluDo 0x10B t s (specialOp 0x10B)
def execFlog2 (t : TOp) (s : State) : Res := aluDo 0x10C t s (specialOp 0x10C)
def execFsin (t : TOp) (s : State) : Res := aluDo 0x10D t s (specialOp 0x10D)
def execFcos (t : TOp) (s : State) : Res := aluDo 0x10E t s (specialOp 0x10E)
def execFtanh (t : TOp) (s : State) : Res := aluDo 0x10F t s (specialOp 0x10F)

/-! ## Dot products, scaling, rounding, conversion (R203 to R208) -/

def execFdot2 (t : TOp) (s : State) : Res := aluDo 0x110 t s fdotOp
def execFdot4 (t : TOp) (s : State) : Res := aluDo 0x111 t s fdotOp
def execFscale (t : TOp) (s : State) : Res := boundedDo 0x112 t s (fun v t => t.bnd && tagIsB (srcTag v (secondFmt t) t.b)) fscaleOp
def execFround (t : TOp) (s : State) : Res := aluDo 0x113 t s froundOp
def execCvt (t : TOp) (s : State) : Res := aluDo 0x180 t s cvtOp
def execPack (t : TOp) (s : State) : Res := aluDo 0x181 t s packOp
def execUnpack (t : TOp) (s : State) : Res := aluDo 0x182 t s unpackOp

end Sys2Proof.Machine
end

