-- ==== Sys2Proof/Machine/Dict.lean ====
section
/-! DEFINITION. Template validity, the loading of dictionary images, and what the debug port reads of them (03 R57 to R62, R67, R69,
17 R385). -/

namespace Sys2Proof.Machine

/-! ## Template validity (03 R60) -/

/-- The hole descriptors of a template with their raw width fields. -/
def holesOf (e : Nat) : List (Nat × Nat) := (List.range 4).map (fun k => (e / 2 ^ (100 + 7 * k) % 8, e / 2 ^ (103 + 7 * k) % 16))

/-- Width limit of a hole's target (R57). -/
def holeLimit : Nat → Nat
  | 1 | 2 | 3 | 4 => 8
  | 5 | 6 => 16
  | 7 => 9
  | _ => 0

/-- The width of the hole that names a target, 0 where there is none. -/
def holeWidth (hs : List (Nat × Nat)) (t : Nat) : Nat := match hs.find? (fun h => h.1 == t) with
  | some h => h.2 + 1
  | none => 0

/-- The templates that filling an OPMOD hole of width `w` may give. -/
def modFills (t : TOp) (w : Nat) : List TOp :=
  (List.range (2 ^ w)).map (fun v => { t with opmod := BitVec.ofNat 9 (insertBits t.opmod.toNat 0 w v) })

/-- Whether the operation reads IMM32: marked I, or a source selects #imm. -/
def immUsed (i : OpInfo) (t : TOp) : Bool := i.imm || (i.operands t).any (fun p => p.1.used && p.2.2 == .k 0x5A)

/-- Whether the hole map passes code 3. -/
def holesOk (i : OpInfo) (t : TOp) (e : Nat) (hs : List (Nat × Nat)) : Bool :=
  let real := hs.filter (fun h => h.1 != 0)
  let names := real.map (·.1)
  let fields := [(1, i.d, 28), (2, i.a, 38), (3, i.b, 48), (4, i.c, 58)]
  real.foldl (fun n h => n + h.2 + 1) 0 ≤ 24 &&
  real.all (fun h => h.2 + 1 ≤ holeLimit h.1) &&
  (hs.all (fun h => h.1 != 0 || h.2 == 0)) && (hs.dropWhile (fun h => h.1 != 0)).all (fun h => h.1 == 0) &&
  names.Nodup &&
  !((names.dropWhile (fun n => n != 6)).contains 5) &&
  fields.all (fun f => !names.contains f.1 || (f.2.1.used && e / 2 ^ f.2.2 % 2 ^ holeWidth hs f.1 == 0)) &&
  (!(names.contains 5 || names.contains 6) || immUsed i t) &&
  (!names.contains 5 || t.imm == 0) &&
  (!names.contains 6 || t.imm.toNat / 2 ^ (32 - holeWidth hs 6) == 0) &&
  (!names.contains 7 || (i.modHole && t.opmod.toNat % 2 ^ holeWidth hs 7 == 0))

/-- Scalar and mask indices a scarab has not. -/
def scReserved (t : TOp) (i : OpInfo) : Bool := (i.operands t).any (fun p => p.1.used && !scIndexOk p.2.2)

/-- The first failing check of an entry in the order of R60, or 0; a scarab's dictionary has status 12 after 2 and no 7. -/
def templateStatus (scarab : Bool) (e : BitVec 128) : Nat :=
  let op := fieldOf e 0 10
  let hs := holesOf e.toNat
  if 0x00F < op && (opInfo op).isNone then 2
  else if scarab && !scOps op then 12
  else if op ≤ 0x00F then 6
  else match opInfo op, fieldsOf e with
    | none, _ => 2
    -- a reserved FMT
    | some _, none => if scarab then (if 0x320 ≤ op || op == 0x22E then 4 else 12) else if 0x320 ≤ op && op < 0x340 then 7 else 4
    | some i, some t =>
      let fills := modFills t (holeWidth hs 7)
      -- a special register named by a hole, and the k of a scalar `wred`, are judged at decode (18 R412, 07 R168)
      let special := (op == 0x340 || op == 0x341) && holeWidth hs 2 != 0
      let fills := if special then fills.flatMap (specialFills (holeWidth hs 2)) else fills
      if scarab && ((op < 0x320 && t.bnd) || !fills.any (fun x => scFmts op x) ||
          (op == 0x22E && !fills.any (fun x => x.opmod.toNat / 4 == 6))) then 12
      else if !scarab && 0x320 ≤ op && op < 0x340 then 7
      else if !i.fmts.contains t.fmt then 4
      else if t.att == 3 || (t.att != 0 && !i.long) || (t.bnd && i.bnd == .no) || !fills.any i.modOk then 8
      else if !fills.any (fun x => i.modOk x && operandsOk i x && (special || op == 0x068 || i.extra x)) || (scarab && scReserved t i) ||
          (t.imm != 0 && !immUsed i t) then 5
      else if holesOk i t e.toNat hs then 0 else 3

/-- An entry as the slot holds it: `.b` set for the operations that have it natively (R55). -/
def loadedEntry (e : BitVec 128) : BitVec 128 :=
  if (opInfo (fieldOf e 0 10)).any (fun i => i.bnd == .native) then e ||| BitVec.ofNat 128 (2 ^ 25) else e

/-! ## Images (03 R61, 17 R385) -/

/-- What loading an image gives: status, entries, CRC. -/
structure ImageLoad where
  status : Nat
  entries : Tab (Option (BitVec 128)) := []
  icrc : Nat := 0

/-- Whether an image header is good, with its count and map. -/
def headerOk (h : List Byte) (most : Nat) : Bool :=
  let n := natAt h 4 1
  natAt h 0 4 == 0x7AB00D1C && natAt h 5 1 == 1 && natAt h 6 2 == 0 && decide (1 ≤ n) && decide (n ≤ most) &&
  natAt h 8 28 / 2 ^ n == 0 && natAt h 0x28 24 == 0

/-- The entries in ascending index, to the first that fails. -/
def checkEntries (scarab : Bool) (body : List Byte) (defined : Nat) : List Nat → Tab (Option (BitVec 128)) → Nat × Tab (Option (BitVec 128))
  | [], t => (0, t)
  | j :: r, t =>
    if !natBit defined j then checkEntries scarab body defined r t
    else
      let e := loadedEntry (BitVec.ofNat 128 (natAt body (16 * j) 16))
      let st := templateStatus scarab e
      if st = 0 then checkEntries scarab body defined r (t.put none (0x20 + j) (some e))
      else (st + (0x20 + j) * 256, [])

/-- The load of the image at `addr` through a reader of ranges. -/
def loadImage (scarab : Bool) (addr : Nat) (rd : State → Nat → Nat → State × Except (Nat × Nat) (List Byte)) (s : State) : State × ImageLoad :=
  if addr % 64 != 0 then (s, { status := 9 })
  else match rd s addr 0x40 with
    | (s, .error _) => (s, { status := 11 })
    | (s, .ok h) =>
      if !headerOk h (if scarab then 64 else 224) then (s, { status := 9 })
      else
        let n := natAt h 4 1
        match rd s (addr + 0x40) (16 * n) with
        | (s, .error _) => (s, { status := 11 })
        | (s, .ok body) =>
          let crc := crc32c (body.map (·.toNat))
          if crc != natAt h 0x24 4 then (s, { status := 10, icrc := crc })
          else
            let (st, es) := checkEntries scarab body (natAt h 8 28) (List.range n) []
            (s, { status := st, entries := es, icrc := crc })

/-- The load of a core's dictionary for a context: its reads at device scope, as an acquire (05 R117). -/
def loadDict (s : State) (c ctx addr : Nat) : State × ImageLoad :=
  loadImage false addr (fun s va n => engRead s c ctx va n va) (acquireAt s (agCox c) c ctx 4)

/-- The end of a load in slot `n` of core `c`: READY with the entries or EMPTY. Answers the status. -/
def endDictLoad (s : State) (c n : Nat) : State × Nat :=
  let slot := (s.core c).slots.look {} n
  match loadDict s c slot.owner slot.image.toNat with
  | (s, r) =>
    let slot := (s.core c).slots.look {} n
    let slot := if r.status = 0 then { slot with state := .ready, icrc := BitVec.ofNat 32 r.icrc, entries := r.entries }
      else { slot with state := .empty, entries := [] }
    (wakeSlot (s.setCore c { s.core c with slots := (s.core c).slots.put {} n slot }) c n (r.status == 0), r.status)

/-! ## The debug port's reads (03 R67, R69, 20 R454) -/

/-- Whether the debug state lets the debug port read dictionaries: halt-and-inspect. -/
def inspects (s : State) : Bool := s.sys.dbg == 2 && !s.sys.anchorLost

/-- What the debug port reads of slot `n` of core `c`: its fields and templates as loaded. -/
def debugSlot (s : State) (c n : Nat) : Option DictSlot :=
  if inspects s && decide (n < 8) then some ((s.core c).slots.look {} n) else none

/-- Operand kinds of a fixed template's A, B and C: 0 vector, 1 scalar, 2 mask. -/
def fixedKinds (i : Nat) : Nat × Nat × Nat :=
  if i = 2 || i = 3 || i = 0xC then (1, 0, 0)
  else if 4 ≤ i && i ≤ 8 then (2, 0, 0)
  else if i = 9 then (0, 1, 1)
  else if i = 0xA then (0, 1, 0)
  else (0, 0, 0)

/-- OPMOD of a fixed template (R67). -/
def fixedMod (i : Nat) : Nat := match i with
  | 3 | 5 | 8 => 1
  | 6 => 2
  | _ => 0

/-- A hard-wired template as the debug port reads it: HOLEMAP and every field the table does not name are zero. -/
def fixedTemplate (i : Nat) : BitVec 128 :=
  let k := fixedKinds i
  BitVec.ofNat 128 (fixedOp i + fixedMod i * 2 ^ 16 + k.1 * 2 ^ 46 + k.2.1 * 2 ^ 56 + k.2.2 * 2 ^ 66)

/-- What the debug port reads of fixed index `i`. -/
def debugFixed (s : State) (i : Nat) : Option (BitVec 128) := if inspects s && decide (i < 0x14) then some (fixedTemplate i) else none

end Sys2Proof.Machine
end

