-- ==== Sys2Proof/Machine/Gen.lean ====
section
/-! DEFINITION. The generator instructions: the clause buffer, composing words, commits, stock clauses, dictionary loads and
`spawn` (05 R101 to R120). -/

namespace Sys2Proof.Machine

/-! ## The clause buffer (R101 to R103) -/

def execHdr (a : BitVec 5) (i : BitVec 16) (s : State) : Res :=
  coxDo .core (.hdr a i) [a] s (fun s c x =>
    .done (setCox s c { x with hv := true, cbh := BitVec.ofNat 32 (x.g a) ||| i.zeroExtend 32, cbw := [] }))

/-- Append words, or cause 0x192. -/
def appendWords (s : State) (c : Nat) (x : Cox) (ws : List Nat) : CEff :=
  if !x.hv || 15 < x.cbw.length + ws.length then .trap s 0x192 0 (BitVec.ofNat 64 x.cbw.length)
  else .done (setCox s c { x with cbw := x.cbw ++ ws.map (BitVec.ofNat 32) })

def execEmw (a : BitVec 5) (s : State) : Res := coxDo .core (.emw a) [a] s (fun s c x => appendWords s c x [x.g a])

def execEmw2 (a b : BitVec 5) (s : State) : Res :=
  coxDo .core (.emw2 a b) [a, b] s (fun s c x => appendWords s c x [x.g a, x.g b])

/-! ## Holes of a word (R104, R109, 03 R57, R67) -/

/-- A hole of a word: position, width, and whether its value is read as signed. -/
structure WordHole where
  pos : Nat
  width : Nat
  signed : Bool
  deriving DecidableEq, Repr

/-- Holes of a fixed entry in the order of R67. -/
def fixedHoles : Nat → List WordHole
  | 0x01 => [⟨0, 24, true⟩]
  | 0x02 | 0x03 => [⟨0, 6, false⟩, ⟨6, 18, true⟩]
  | 0x04 | 0x05 | 0x06 | 0x07 | 0x08 => [⟨0, 3, false⟩, ⟨3, 21, true⟩]
  | 0x09 => [⟨0, 8, false⟩, ⟨8, 6, false⟩, ⟨14, 6, false⟩]
  | 0x0A => [⟨0, 8, false⟩, ⟨8, 6, false⟩]
  | 0x0B => [⟨0, 19, true⟩, ⟨19, 5, false⟩]
  | 0x0C => [⟨0, 6, false⟩, ⟨6, 5, false⟩]
  | 0x10 => [⟨0, 3, false⟩]
  | 0x13 => [⟨0, 16, true⟩]
  | _ => []

/-- Holes of a template, consecutive from bit 0. -/
def entryHoles (e : Nat) : List WordHole :=
  ((holesOf e).foldl (fun (acc : Nat × List WordHole) h =>
    if h.1 = 0 then acc else (acc.1 + h.2 + 1, acc.2 ++ [⟨acc.1, h.2 + 1, h.1 == 5⟩])) (0, [])).2

/-- The holes of entry `i` as slot `n` of a core defines it for a context. -/
def indexHoles (s : State) (c ctx n i : Nat) : Option (List WordHole) :=
  if i < 0x14 then some (fixedHoles i)
  else if i < 0x20 then none
  else (resolveWord s c ctx n (BitVec.ofNat 32 (i * 2 ^ 24))).entry.map (fun e => entryHoles e.toNat)

/-- Whether a value of `n` bits fits a hole. -/
def fitsHole (n v : Nat) (h : WordHole) : Bool :=
  if h.signed then
    decide (-(2 : Int) ^ (h.width - 1) ≤ toSigned n v) && decide (toSigned n v < (2 : Int) ^ (h.width - 1))
  else decide (v < 2 ^ h.width)

/-- The word bits of four hole values, or the number of the first that does not fit. -/
def fillWord (hs : List WordHole) (g : Nat) : List Nat → Nat → Except Nat Nat
  | [], h => .ok h
  | k :: r, h =>
    let v := g / 2 ^ (16 * k) % 2 ^ 16
    match hs[k]? with
    | none => if v = 0 then fillWord hs g r h else .error k
    | some x => if fitsHole 16 v x then fillWord hs g r (insertBits h x.pos x.width (extTo true 16 32 v)) else .error k

def execCmpw (d a b : BitVec 5) (n : BitVec 3) (s : State) : Res :=
  coxDo .core (.cmpw d a b n) [a, b] s (fun s c x =>
    let i := x.g a
    if 256 ≤ i then .trap s 0x190 0 (BitVec.ofNat 64 (i % 256))
    else match indexHoles s c (coxCtx x) n.toNat i with
      | none => .trap s 0x190 0 (BitVec.ofNat 64 i)
      | some hs => match fillWord hs (x.g b) [0, 1, 2, 3] 0 with
        | .error k => .trap s 0x191 0 (BitVec.ofNat 64 k)
        | .ok h => .done (setCox s c (x.setG d (i * 2 ^ 24 + h))))

/-! ## Committing (R105 to R108, R114) -/

/-- The header as committed. -/
def commitHeader (x : Cox) : Word := BitVec.ofNat 32 (x.cbh.toNat / 16 * 16 + x.cbw.length)

/-- The checks of R105: cause and XVAL. -/
def commitFault (x : Cox) : Option (Nat × DWord) :=
  let h := commitHeader x
  let bad := fun n => decide (12 ≤ n) && decide (n < 15)
  if !x.hv then some (0x192, BitVec.ofNat 64 x.cbw.length)
  else if fieldOf h 28 4 != 0xA || bad (hdrSetA h) || bad (hdrSetB h) ||
      (x.cbw.isEmpty && !(hdrSetA h == 15 && hdrSetB h == 15)) || (hdrClass h == 5 && decide (1 < x.cbw.length)) then
    some (0x194, h.zeroExtend 64)
  else none

/-- Drop lines from every instruction cache and the die cache of a die (R114). -/
def dropFetched (s : State) (die : Nat) (ls : List Nat) : State :=
  let s := (List.range 32).foldl (fun s i =>
    let c := 32 * die + i
    let core := s.core c
    if core.icache.isEmpty then s else s.setCore c { core with icache := ls.foldl (fun t l => t.put none l none) core.icache }) s
  s.setDie die { s.die die with cache := ls.foldl (fun t l => t.put none l none) (s.die die).cache }

/-- The address range of a commit: inside the arena and aligned (R106). -/
def arenaOk (s : State) (x : Cox) (va n : Nat) : Bool := match x.ctx.bind (contextAt s) with
  | some k => va % 4 == 0 && decide (k.arena.toNat ≤ va) && decide (va + n ≤ k.arena.toNat + k.arenaSize.toNat)
  | none => false

/-- Cox cause of a failed translation or permission. -/
def coxCause (cause : Nat) : Nat := if cause = 0x083 || cause = 0x085 then 0x184 else if cause = 0x086 then 0x186 else 0x183

/-- The waves of a context whose fetch may be under way keep the words a commit overwrites; one that takes an injected clause fetches
none (R114, R115). -/
def keepOldWords (s : State) (ctx : Nat) (parts : List Part) : State :=
  let old := parts.filterMap (fun p => match p.locs with
    | .phys a _ _ :: _ => some (physNorm s a / 4, BitVec.ofNat 32 (anyRead s a 4))
    | _ => none)
  { s with waves := s.waves.map (fun q => (q.1, q.2.map (fun w =>
      if w.clause.isNone && w.hold == .no && !w.ended && ctxOf s w == ctx && (w.inj.isEmpty || w.pcPos != 0 || w.inHandler)
      then { w with oldPc := w.pcHdr, oldWords := old.foldl (fun t p => if (t.look none p.1).isSome then t else t.put none p.1 (some p.2)) (if w.oldPc = w.pcHdr then w.oldWords else []) } else w))) }

/-- Write words into the arena at once, with the invalidations of R114; then `f`. -/
def arenaWrite (s : State) (c : Nat) (x : Cox) (va : Nat) (ws : List Word) (f : State → State) : CEff :=
  let n := 4 * ws.length
  if !arenaOk s x va n then .trap s 0x193 0 (BitVec.ofNat 64 va)
  else match engLocs s c (coxCtx x) va n true 800 with
    | (s, .error (cause, a)) => .trap s (coxCause cause) 0 (BitVec.ofNat 64 a)
    | (s, .ok ls) =>
      let parts : List Part := (List.range ws.length).zip ws |>.map (fun p =>
        { lane := 0, locs := (ls.drop (4 * p.1)).take 4, data := p.2.zeroExtend 64 })
      if olderConflict s x.sbuf x.nextId parts then .stay s
      else match coxStoreNow (keepOldWords s (coxCtx x) parts) c x { rels := (sightOf s (agCox c)).marks } parts with
        | none => .stay (coxSnoop s parts)
        | some s => .done (f (dropFetched s (c / 32) (linesOf s (partAddrs parts))))

def execEmc (d a : BitVec 5) (s : State) : Res :=
  coxDo .core (.emc d a) [a] s (fun s c x => match commitFault x with
    | some (cause, v) => .trap s cause 0 v
    | none => arenaWrite s c x (x.g a) (commitHeader x :: x.cbw) (fun s =>
        setCox s c ((coxAt s c).setG d (wrapTo 64 ((x.g a : Int) + 4 * (x.cbw.length + 1))))))

/-- Words free in an injection queue (R110). -/
def freeWords (w : Wave) : Nat := 64 - w.inj.foldl (fun n q => n + q.words.length + 1) 0

/-- The live wave in a slot of the cox's core, if it is of its context. -/
def slotWave (s : State) (c : Nat) (x : Cox) (q : Nat) : Option Wave :=
  match waveAt s (64 * c + q) with
  | some w => if w.ended || some (ctxOf s w) != x.ctx then none else some w
  | none => none

/-- `ems` and `ems.c` (R107, R108): a commit, or a stall, or the busy result; a release at die scope (R116). -/
def emsEff (d a : BitVec 5) (busy : Bool) (s : State) (c : Nat) (x : Cox) : CEff :=
  let k := 64 * c + x.g a
  match (if x.g a < 64 then slotWave s c x (x.g a) else none) with
  | none => .trap s 0x195 0 (BitVec.ofNat 64 (x.g a))
  | some w =>
    match commitFault x with
    | some (cause, v) => .trap s cause 0 v
    | none =>
      let ctrl := x.cbw.find? (fun v => 1 ≤ wordIndex v && wordIndex v < 0x20)
      let h := commitHeader x
      if ctrl.isSome || hdrClass h == 5 then .trap s 0x196 0 (match ctrl with
        | some v => v.zeroExtend 64
        | none => BitVec.ofNat 64 (freeNat s 8))
      else if freeWords w < x.cbw.length + 1 then
        (if busy || w.inHandler then .done (setCox s c (x.setG d (2 ^ 64 - 1))) else .stay s)
      else if !coxDrained x then .stay s
      else
        let kbase := match x.ctx.bind (contextAt s) with
          | some k => k.kbase.toNat
          | none => 0
        let cpos := wrapTo 32 ((x.pc.toNat : Int) - kbase) / 4
        let q : InjClause := { hdr := h, words := x.cbw, prov := BitVec.ofNat 64 (2 ^ 63 + cpos * 2 ^ 32 + x.eseq.toNat), ipos := 0, started := false, at_ := s.clock }
        let s := setWave s k { w with inj := w.inj ++ [q] }
        .done (setCox s c { x.setG d x.eseq.toNat with eseq := x.eseq + 1 })

def execEms (d a : BitVec 5) (s : State) : Res := coxDo .core (.ems d a) [a] s (emsEff d a false)
def execEmsC (d a : BitVec 5) (s : State) : Res := coxDo .core (.emsC d a) [a] s (emsEff d a true)

/-! ## Stock clauses (R109) -/

/-- The check of a local block's address (R109 step 1, R119). -/
def localBlock (x : Cox) (a n : Nat) : Option Nat :=
  if 2 ^ 56 ≤ a then some 0x183 else if a % 8 != 0 then some 0x182 else if 0x10000 ≤ a || x.lmlim * 4096 < a + n then some 0x185 else none

/-- A clause group cut at its headers: whether every header has its KEY, and the header positions. -/
def groupHeaders (ws : List Word) : Nat → Nat → Bool × List Nat
  | 0, _ => (true, [])
  | fuel + 1, p => match ws[p]? with
    | none => (true, [])
    | some h =>
      let r := groupHeaders ws fuel (p + hdrCount h + 1)
      (fieldOf h 28 4 == 0xA && r.1, p :: r.2)

/-- A patch record: word offset, hole number, value, and whether its reserved bits are zero. -/
structure Patch where
  off : Nat
  hole : Nat
  val : Nat
  clean : Bool

def patchOf (x : Nat) : Patch := { off := x % 2 ^ 16, hole := x / 2 ^ 16 % 4, val := x / 2 ^ 32, clean := x / 2 ^ 18 % 2 ^ 14 == 0 }

/-- The hole a patch names in a group, if there is one. -/
def patchHole (s : State) (c ctx slot : Nat) (ws : List Word) (hdrs : List Nat) (p : Patch) : Option WordHole :=
  if hdrs.contains p.off || !p.clean then none
  else match ws[p.off]? with
    | none => none
    | some w => (indexHoles s c ctx slot (wordIndex w)).bind (fun hs => hs[p.hole]?)

def execStk (d a : BitVec 5) (i : BitVec 16) (s : State) : Res :=
  coxDo .core (.stk d a i) [a] s (fun s c x =>
    let addr := x.g a
    let ctx := coxCtx x
    let bad := fun s => CEff.trap s 0x198 0 (i.zeroExtend 64)
    let n := lmRead x (addr + 8) 8
    let recs := if n < 16 then (List.range n).map (fun j => patchOf (lmRead x (addr + 16 + 8 * j) 8)) else []
    match localBlock x addr (16 + 8 * (n % 16)) with
    | some cause => .trap s cause 0 (BitVec.ofNat 64 addr)
    | none => match x.ctx.bind (contextAt s) with
      | none => bad s
      | some k =>
        let kb := k.kbase.toNat
        let w32 := fun o => peekVirt s ctx (kb + o) 4
        let e := kb + w32 0x18 + 8 * i.toNat
        let len := peekVirt s ctx (e + 4) 2
        let slot := peekVirt s ctx (e + 6) 2
        if w32 4 / 2 ^ 16 ≤ i.toNat then bad s
        else match engRead s c ctx (kb + peekVirt s ctx e 4) (4 * len) 0 with
          | (s, .error (cause, va)) => .trap s (coxCause cause) 0 (BitVec.ofNat 64 va)
          | (s, .ok bs) =>
            let ws : List Word := (List.range len).map (fun j => BitVec.ofNat 32 (natAt bs (4 * j) 4))
            let (keys, hdrs) := groupHeaders ws len 0
            let sl := (s.core c).slots.look {} slot
            if !keys then bad s
            else if 8 ≤ slot || sl.state != .ready || some sl.owner != x.ctx then .trap s 0x190 0 (BitVec.ofNat 64 slot)
            else if 16 ≤ n || recs.any (fun p => (patchHole s c ctx slot ws hdrs p).isNone) then bad s
            else match recs.find? (fun p => (patchHole s c ctx slot ws hdrs p).any (fun h => !fitsHole 32 p.val h)) with
              | some p => .trap s 0x191 0 (BitVec.ofNat 64 p.hole)
              | none =>
                let ws := recs.foldl (fun ws p => match patchHole s c ctx slot ws hdrs p, ws[p.off]? with
                  | some h, some w => ws.set p.off (BitVec.ofNat 32 (insertBits w.toNat h.pos h.width p.val))
                  | _, _ => ws) ws
                let dest := lmRead x addr 8
                arenaWrite s c x dest ws (fun s => setCox s c ((coxAt s c).setG d (wrapTo 64 ((dest : Int) + 4 * len)))))

/-! ## Dictionaries (R117, 03 R62) -/

def execDld (d a : BitVec 5) (n : BitVec 3) (s : State) : Res :=
  coxDo .core (.dld d a n) [a] s (fun s c x =>
    let core := s.core c
    let slot := core.slots.look {} n.toNat
    if 0 < slot.selcnt || slot.state == .loading then .done (setCox s c (x.setG d 1))
    else
      let slot := { slot with state := .loading, owner := coxCtx x, image := BitVec.ofNat 64 (x.g a), entries := [], icrc := 0 }
      .stay (setCox (s.setCore c { core with slots := core.slots.put {} n.toNat slot }) c { x with wait := .dict n.toNat d.toNat }))

/-- A dictionary load ends: its slot is READY or EMPTY and the cox that waits goes on with the status. -/
def execDictLoadEnd (c n : Nat) (s : State) : Res :=
  if ((s.core c).slots.look {} n).state != .loading then .next s
  else match endDictLoad s c n with
    | (s, status) =>
      let x := coxAt s c
      match x.wait with
      | .dict m d => if m = n then .next (coxRetire (setCox s c (x.setG (BitVec.ofNat 5 d) status)) c (x.pc + 4)) else .next s
      | _ => .next s

/-! ## Starting waves (R118, R119, 18 R422) -/

/-- The budgets of a kernel's waves in order, from its role table (02 R51, 04 R99). -/
def waveBudgets (s : State) (ctx kbase : Nat) : List Nat :=
  let t := kbase + peekVirt s ctx (kbase + 0x34) 4
  (List.range 4).flatMap (fun i =>
    let e := peekVirt s ctx (t + 4 * i) 4
    if e % 256 = 0xFF then [] else List.replicate (e / 2 ^ 8 % 256) (8 * (e / 2 ^ 16 % 256 + 1)))

/-- The wave slots of a quadrant (assumption 12): 16 consecutive ones. -/
def quadSlots (q : Nat) : List Nat := (List.range 16).map (fun i => 16 * q + i)

/-- One of the free slots of a quadrant, a free choice. -/
def freeSlot (s : State) (c q j : Nat) : Nat :=
  let l := (quadSlots q).filter (fun i => (waveAt s (64 * c + i)).isNone)
  l.getD (freeNat s (200 + j) % max 1 l.length) (16 * q)

/-- Start wave `num` of block `b`. -/
def startWave (s : State) (c b num bud j : Nat) (entry exec : Nat) (spill tvec : Nat) (args : List Nat) : State × Nat :=
  let q := freeSlot s c (num % 4) j
  let w : Wave :=
    { block := b, num := num, bud := bud, exec := BitVec.ofNat 32 exec, pcHdr := BitVec.ofNat 64 entry
      tvec := BitVec.ofNat 64 (tvec / 4 * 4), spillBase := BitVec.ofNat 64 spill, issuedAt := s.time
      sregs := (List.range 8).foldl (fun t i => t.put 0 i (BitVec.ofNat 64 (args.getD i 0))) [] }
  let core := s.core c
  let slot := core.slots.look {} 0
  let s := s.setCore c { core with slots := core.slots.put {} 0 { slot with selcnt := slot.selcnt + 1 } }
  let s := modBlock s b (fun x => { x with slots := x.slots.put 0 num (q + 1), spawned := x.spawned ++ [num]
                                           bspill := some (x.bspill.getD (BitVec.ofNat 64 (spill - 0x10000))) })
  (setWave s (64 * c + q) w, q)

def execSpawn (d a b : BitVec 5) (s : State) : Res :=
  coxDo .core (.spawn d a b) [a, b] s (fun s c x =>
    let addr := x.g a
    let bk := 64 * c + x.g b
    let refused := CEff.trap s 0x197 0 (BitVec.ofNat 64 (x.g b))
    match localBlock x addr 0x68 with
    | some cause => .trap s cause 0 (BitVec.ofNat 64 addr)
    | none =>
      let entry := lmRead x addr 8
      let ctl := lmRead x (addr + 8) 8
      let first := ctl / 2 ^ 32 % 256
      let n := ctl / 2 ^ 40 % 256
      let spill0 := lmRead x (addr + 0x10) 8
      let stride := lmRead x (addr + 0x18) 8
      let nums := (List.range n).map (fun j => first + j)
      match (if x.g b < 64 then blockAt s bk else none), x.ctx.bind (contextAt s) with
      | some blk, some k =>
        let buds := (waveBudgets s blk.ctx k.kbase.toNat).map (fun n => if blk.shadowed then n / 2 else n)
        if some blk.ctx != x.ctx || blk.killed || n = 0 || buds.length < first + n || nums.any (fun i => blk.spawned.contains i) || blk.last ||
            entry % 4 != 0 || 2 ^ 56 ≤ entry || ctl / 2 ^ 49 != 0 || 31 < first || spill0 % 4096 != 0 || stride % 4096 != 0 || stride < 0x81000 then refused
        else if !coxDrained x then .stay s
        else
          let args := (List.range 8).map (fun i => lmRead x (addr + 0x20 + 8 * i) 8)
          let tvec := lmRead x (addr + 0x60) 8
          let (s, map) := (List.range n).foldl (fun (acc : State × Nat) j =>
            match startWave acc.1 c bk (first + j) (buds.getD (first + j) 8) j entry (ctl % 2 ^ 32) (wrapTo 64 ((spill0 : Int) + j * stride)) tvec args with
            | (s, q) => (s, acc.2 + 2 ^ q)) (s, 0)
          -- each wave begins with an acquire at die scope (R116)
          let s := (setBits 64 map).foldl (fun s q => acquireAt (freshSight s (agWave (64 * c + q))) (agWave (64 * c + q)) c blk.ctx 3) s
          -- waves that the block never spawns count as exited once LAST is spawned (15 R345)
          let s := if natBit ctl 48 then
              let s := modBlock s bk (fun y => { y with last := true })
              leaveBarriers s (((List.range 32).filter (fun i => !blk.spawned.contains i && !nums.contains i)).map (fun i => bk * 32 + i))
            else s
          .done (setCox s c ((coxAt s c).setG d map))
      | _, _ => refused)

end Sys2Proof.Machine
end

