-- ==== Sys2Proof/Machine/IntAlu.lean ====
section
/-! DEFINITION. The integer, address, bit, lane and mask words (07), of a wave or a scarab. -/

namespace Sys2Proof.Machine

/-! ## Arithmetic (R152 to R154) -/

def execAdd (t : TOp) (s : State) : Res := aluDo 0x040 t s addOp
def execSub (t : TOp) (s : State) : Res := aluDo 0x041 t s subOp
def execAddc (t : TOp) (s : State) : Res := aluDo 0x042 t s addcOp
def execSubb (t : TOp) (s : State) : Res := aluDo 0x043 t s subbOp
def execMul (t : TOp) (s : State) : Res := aluDo 0x044 t s mulOp
def execMulh (t : TOp) (s : State) : Res := aluDo 0x045 t s mulhOp
def execMad (t : TOp) (s : State) : Res := aluDo 0x046 t s madOp
def execDiv (t : TOp) (s : State) : Res := aluDo 0x047 t s divOp
def execRem (t : TOp) (s : State) : Res := aluDo 0x048 t s remOp
def execMin (t : TOp) (s : State) : Res := aluDo 0x049 t s minOp
def execMax (t : TOp) (s : State) : Res := aluDo 0x04A t s maxOp
def execAbs (t : TOp) (s : State) : Res := aluDo 0x04B t s absOp
def execNeg (t : TOp) (s : State) : Res := aluDo 0x04C t s negOp

/-! ## Logic, shifts and bits (R155 to R161) -/

def execAnd (t : TOp) (s : State) : Res := aluDo 0x04D t s andOp
def execOr (t : TOp) (s : State) : Res := aluDo 0x04E t s orOp
def execXor (t : TOp) (s : State) : Res := aluDo 0x04F t s xorOp
def execAndn (t : TOp) (s : State) : Res := aluDo 0x050 t s andnOp
def execNot (t : TOp) (s : State) : Res := aluDo 0x051 t s notOp
def execShl (t : TOp) (s : State) : Res := aluDo 0x052 t s shlOp
def execShr (t : TOp) (s : State) : Res := aluDo 0x053 t s shrOp
def execSra (t : TOp) (s : State) : Res := aluDo 0x054 t s sraOp
def execRotl (t : TOp) (s : State) : Res := aluDo 0x055 t s rotlOp
def execFsh (t : TOp) (s : State) : Res := aluDo 0x056 t s fshOp
def execBfe (t : TOp) (s : State) : Res := aluDo 0x057 t s bfeOp
def execBfi (t : TOp) (s : State) : Res := aluDo 0x058 t s bfiOp
def execPopc (t : TOp) (s : State) : Res := aluDo 0x059 t s popcOp
def execClz (t : TOp) (s : State) : Res := aluDo 0x05A t s clzOp
def execCtz (t : TOp) (s : State) : Res := aluDo 0x05B t s ctzOp
def execBrev (t : TOp) (s : State) : Res := aluDo 0x05C t s brevOp
def execBperm (t : TOp) (s : State) : Res := aluDo 0x05D t s bpermOp
def execClmul (t : TOp) (s : State) : Res := aluDo 0x05E t s clmulOp
def execClmulh (t : TOp) (s : State) : Res := aluDo 0x05F t s clmulhOp

/-! ## Compare, select, moves, addresses, lanes (R162 to R167) -/

def execCmp (t : TOp) (s : State) : Res := aluDo 0x060 t s cmpOp
def execSel (t : TOp) (s : State) : Res := aluDo 0x061 t s selOp
def execMov (t : TOp) (s : State) : Res := aluDo 0x062 t s movOp
def execMovi (t : TOp) (s : State) : Res := aluDo 0x063 t s moviOp
def execLea (t : TOp) (s : State) : Res := aluDo 0x064 t s leaOp
def execShfl (t : TOp) (s : State) : Res := aluDo 0x065 t s shflOp
def execBcast (t : TOp) (s : State) : Res := aluDo 0x066 t s bcastOp
def execBallot (t : TOp) (s : State) : Res := aluDo 0x067 t s ballotOp

/-! ## Masks (R169) -/

def execMand (t : TOp) (s : State) : Res := aluDo 0x06A t s mandOp
def execMor (t : TOp) (s : State) : Res := aluDo 0x06B t s morOp
def execMxor (t : TOp) (s : State) : Res := aluDo 0x06C t s mxorOp
def execMnot (t : TOp) (s : State) : Res := aluDo 0x06D t s mnotOp
def execMpop (t : TOp) (s : State) : Res := aluDo 0x06E t s mpopOp

/-! ## Reductions (R168) -/

/-- The register of the run that PIDX names: the word stands there until the last one is written, and a pre-emption finds the ones
before PIDX written and the rest not. -/
def reduceEff (t : TOp) (isScan : Bool) (s : State) (k : Nat) (w : Wave) : Eff :=
  let s := applyOut s k (reduceReg (waveView s k w) t isScan w.pidx)
  if w.pidx < t.opmod.toNat / 16 then .hold (modWave s k (fun w => { w with pidx := w.pidx + 1 }))
  else .done (modWave s k (fun w => { w with pidx := 0 }))

def execWred (t : TOp) (s : State) : Res := opDo 0x068 t s (reduceEff t false)
def execScan (t : TOp) (s : State) : Res := opDo 0x069 t s (reduceEff t true)

end Sys2Proof.Machine
end

