-- ==== Sys2Proof/Machine/WaveEvents.lean ====
section
/-! DEFINITION. Events of waves: the start of a clause, the switch of paths, the end of a compaction meeting, the driver's
answer to private growth, ageing, and the end of a block (02 R38 to R43, 05 R111, R120, 06 R129, R132, 12 R273). -/

namespace Sys2Proof.Machine

/-! ## CLAUSE_START -/

/-- A fetch or decode cause: in handler mode it kills the block, otherwise it is taken at the header (18 R404, R407). -/
def clauseCause (s : State) (k : Nat) (cause pos : Nat) (c : Clause) : State :=
  match waveAt s k with
  | none => s
  | some w =>
    if w.inHandler then killBlock s w.block 2 w.pcValue cause c.prov
    else enterTrap s k { cause := cause } { addr := w.pcHdr, pos := 0, wordPos := pos, prov := c.prov } false
      (if c.inj then .drop else .keep)

/-- The wave reads the release that the `ems` of its next injected clause is; an acquire of the injected code takes it up (05 R116). -/
def hearEms (s : State) (k : Nat) : State :=
  match (waveAt s k).bind (fun w => w.inj.head?) with
  | some i => modSight s (agWave k) (fun v => { v with got := v.got ++ [{ who := whoOf s (agCox (coreOf k)), scope := 3, at_ := i.at_ }] })
  | none => s

/-- Start a decoded clause whose WAIT flags are clear: its flags become pending, and a clause without words ends (02 R39, R40).
Taking an injected clause escapes a shadowed block (18 R424). -/
def openClause (s : State) (k : Nat) (c : Clause) : State :=
  match waveAt s k with
  | none => s
  | some w =>
    let w := { w with flagOpen := openFlags w.flagOpen c.hdr, clause := some { c with pos := 1 }
                      pcPos := if c.inj then w.pcPos else 1, yielded := false }
    let s := if c.inj then escape (hearEms s k) w.block else s
    let s := if (hdrWait c.hdr).isEmpty then s else joinEngines s (agWave k)
    setWave s k (if c.words.isEmpty then w.endClause c else w)

/-- A decoded clause waits for its WAIT flags, then takes the deferred causes its WAIT observes, then starts. -/
def waitClause (s : State) (k : Nat) (c : Clause) : State :=
  match waveAt s k with
  | none => s
  | some w =>
    if (hdrWait c.hdr).any w.flagPending then setWave s k { w with clause := some c }
    else match takeDeferred w (fun d => d.flag.any (fun f => (hdrWait c.hdr).contains f)) (rollsBack s w) with
      | (w, none) => openClause (setWave s k w) k c
      | (w, some e) =>
        let s := setWave s k w
        if rollbackCause e && (blockAt s w.block).any (fun b => b.shadowed && b.shadow.isSome) then rollOrKill s w.block w.pcValue e.cause c.prov
        else enterTrap s k e { addr := w.pcHdr, pos := 0, wordPos := 0, prov := c.prov } true .keep

/-- A fetched clause at an address, decoded under the wave's DSEL, with the first failure of R38. -/
def fetchClause (s : State) (k : Nat) (w : Wave) (a : DWord) : State × Clause × Option (Nat × Nat) :=
  let ctx := ctxOf s w
  let none_ : Clause := { hdr := 0, addr := a, words := [], pos := 0, prov := BitVec.ofNat 64 (a.toNat % 2 ^ 56), inj := false }
  let settle := fun (s : State) => modWave s k (fun w => { w with oldWords := [] })
  match fetchWord s k ctx a.toNat 0 with
  | (s, none) => (settle s, none_, some (0x080, 0))
  | (s, some h) => match fetchWords s k ctx (a.toNat + 4) 1 (hdrCount h) with
    | (s, none) => (settle s, none_, some (0x080, 0))
    | (s, some ws) =>
      let ws := ws.map (resolveWord s (coreOf k) ctx w.dsel)
      (settle s, { none_ with hdr := h, words := ws }, clauseFault w.bud h ws)

/-- The clause at the head of the injection queue, decoded under the wave's DSEL. -/
def injectedClause (s : State) (k : Nat) (w : Wave) (i : InjClause) : Clause × Option (Nat × Nat) :=
  let ws := i.words.map (resolveWord s (coreOf k) (ctxOf s w) w.dsel)
  ({ hdr := i.hdr, addr := w.pcHdr, words := ws, pos := 0, prov := i.prov, inj := true }, clauseFault w.bud i.hdr ws)

/-- Go on with a clause interrupted at position `p`: without its WAIT and flags; past its last word it ends (02 R43). -/
def resumeClause (s : State) (k : Nat) (c : Clause) (p : Nat) : State :=
  modWave s k (fun w =>
    if c.words.length < p then w.endClause c
    else { w with clause := some { c with pos := p }, pcPos := if c.inj then w.pcPos else p, yielded := false })

/-- A wave at a clause boundary, or resuming inside a clause: the clause it takes (05 R111) is fetched, decoded and started. -/
def waveStart (k : Nat) (s : State) : State :=
  match waveAt s k with
  | none => s
  | some w =>
    if w.ended || w.hold != .no || !mayStart s w then s
    else match w.clause with
      | some c => if c.pos = 0 then waitClause s k c else s
      | none =>
        match w.inj with
        | i :: _ =>
          if w.pcPos != 0 || w.inHandler then takeFetched s k w
          else
            let (c, f) := injectedClause s k w i
            (match f with
              | some (cause, pos) => clauseCause s k cause pos c
              | none => if i.started then resumeClause s k c i.ipos else waitClause s k c)
        | [] => takeFetched s k w
where
  takeFetched (s : State) (k : Nat) (w : Wave) : State :=
    match fetchClause s k w w.pcHdr with
    | (s, c, some (cause, pos)) => clauseCause (modWave s k (fun w => { w with pcPos := 0 })) k cause pos c
    | (s, c, none) => if w.pcPos = 0 then waitClause s k c else resumeClause s k c w.pcPos

/-! ## PATH_SWITCH -/

/-- Whether a compacted wave lets its path's turn pass: ended, or at a clause boundary with its quantum spent (06 R133). -/
def turnSpent (w : Wave) : Bool :=
  w.clause.isNone && w.hold == .no && w.pcPos == 0 && !w.trapInside && decide (quantum w ≤ w.count) && (innermost w).isNone

/-- A group's turn passes to its other path: each running wave is kept with PC, and the other path's waves start. -/
def switchGroup (s : State) (b : Nat) (g : Group) : State :=
  let run := g.waves.filter (fun c => c.taken == g.cur && !c.ended)
  if !run.all (fun c => (waveAt s c.carrier).any turnSpent) then s
  else
    let kept := g.waves.map (fun c => match (if c.taken == g.cur && !c.ended then waveAt s c.carrier else none) with
      | some w => { c with addr := w.pcHdr, pos := 0, count := 0 }
      | none => c)
    -- PC is saved in the CPATH entry
    let s := run.foldl (fun s c => modWave s c.carrier (fun w => { w with
      comp := none, hold := .meeting, exec := 0
      stack := w.stack.map (fun e => match e with
        | .cpath a p i t m => if i = c.kidx && t == c.taken then .cpath w.pcHdr 0 i t m else .cpath a p i t m
        | e => e) })) s
    let s := modBlock s b (fun x => { x with groups := x.groups.map (fun y =>
      if y.gid == g.gid then { y with waves := kept, cur := !g.cur } else y) })
    startGroupPath s g.gid (kept.filter (fun c => c.taken != g.cur && !c.ended))

/-- The running path has spent its quantum: its PC is saved and the next live path in order starts (06 R129). -/
def execPathSwitch (k : Nat) (s : State) : Res :=
  match waveAt s k with
  | none => .next s
  | some w =>
    if !switchDue s w || w.clause.isSome || w.ended || w.hold != .no then .next s
    else match innermost w with
      | some (ix, n) =>
        let st := (List.range w.stack.length).zip w.stack |>.map (fun p => match p.2 with
          | .path a q m r => if p.1 = n - 1 - ix then .path w.pcHdr 0 m r else .path a q m r
          | e => e)
        .next (setWave s k (startPath { w with stack := st } ((ix + 1) % n)))
      | none => match groupOf s w with
        | some g => .next (switchGroup s w.block g)
        | none => .next s

/-! ## Other wave events -/

/-- A meeting closes 4,096 cycles after its first wave arrived (06 R132). -/
def execCompactionMeetingTimeout (b : Nat) (s : State) : Res :=
  .next (if (blockAt s b).any (fun x => !x.meeting.isEmpty) then shutMeeting s b else s)

/-- The driver's answer to private growth: once the page is mapped the word or the trap entry runs again, else its cause is
taken, or the block killed (12 R273, 06 R127). -/
def execPrivateGrowthResolved (k : Nat) (mapped : Bool) (s : State) : Res :=
  match waveAt s k with
  | none => .next s
  | some w => match w.hold with
    | .growth e =>
      let s := setWave s k { w with hold := .no }
      .next (if mapped then s else trapWord s k e)
    | .entryGrowth e r kept c =>
      let s := setWave s k { w with hold := .no }
      .next (if mapped then enterTrap s k e r kept c else killBlock s w.block 2 w.pcValue 0x082 r.prov)
    | _ => .next s

/-- A wave that has been ready and has issued nothing for 2,048 cycles takes level 2 until it issues (19 R444). -/
def execIssueAgePromote (k : Nat) (s : State) : Res :=
  .next (modWave s k (fun w => if !w.ended && w.hold == .no && decide (w.issuedAt + 2048 ≤ s.time) then { w with aged := true } else w))

/-- Whether a block has finished: its last `spawn` done and every spawned wave gone (05 R120), or killed with no wave left. -/
def blockDone (s : State) (b : Nat) (x : Block) : Bool :=
  (wavesOf s b).isEmpty && (x.killed || (x.last && x.spawned.all (fun n => x.gone.contains n)))

/-- The copies of a core that the waves of a block have outstanding. -/
def blockBusy (s : State) (b : Nat) : Bool :=
  ((s.core (b / 64)).tileQ.any (fun r => r.blk == b)) || ((s.core (b / 64)).copies.any (fun r => r.blk == b))

end Sys2Proof.Machine
end

