-- ==== Sys2Proof/Machine/MemEvents.lean ====
section
/-! DEFINITION. Events of accesses in flight: clause starts, returns, acknowledgements, application at the homes, line fills
(02 R38, 12 R276, R278, R285). -/

namespace Sys2Proof.Machine

/-- The start of the next clause of a wave or scarab. -/
def execClauseStart (g : Agent) (s : State) : Res :=
  match g with
  | .wave k => .next (waveStart k s)
  | .scarab k => .next (if scarabHeld s k then s else scarabStart k s)
  | _ => .next s

/-- A load's data returns; `err` says that a byte reported an uncorrected error. -/
def execLoadDataReturn (g : Agent) (id : Nat) (err : Bool) (s : State) : Res :=
  match g with
  | .wave k => .next (waveLoadReturn s k id err)
  | .scarab k => .next (scarabLoadReturn s k id err)
  | _ => .next s

def execStoreAck (g : Agent) (id : Nat) (s : State) : Res :=
  match g with
  | .wave k => .next (waveStoreAck s k id)
  | .scarab k => .next (scarabStoreAck s k id)
  | .cox c => .next (coxStoreAck s c id)
  | .outside => .next s

def execStoreApplyHome (g : Agent) (id : Nat) (s : State) : Res :=
  match g with
  | .wave k => .next (waveStoreApply s k id)
  | .scarab k => .next (scarabStoreApply s k id)
  | .cox c => .next (coxStoreApply s c id)
  | .outside => .next s

/-- The agent of fills, which has seen nothing: what a copy holds is checked against its reader. -/
def agFill : Nat := agScarab (2 ^ 40)

/-- An outstanding miss returns: its sectors fill the levels passed unless they were invalidated, and none where only loads past the
caches wait for it (R276 to R278, R283). -/
def execCacheFill (c line : Nat) (s : State) : Res :=
  match (s.core c).fills.find? (fun f => f.line == line) with
  | none => .next s
  | some f =>
    let ctx := (s.core c).ctx.getD 0xFFFF
    let s := if f.fills then f.secs.foldl (fun s q => (sectorFor s c ctx agFill q [] false (f.inst, f.die) none q).1) s else s
    .next (s.setCore c { s.core c with fills := (s.core c).fills.filter (fun x => x.line != line) })

end Sys2Proof.Machine
end

