-- ==== Sys2Proof/Machine/Umpire.lean ====
section
/-! DEFINITION. The umpires' instructions, and the queues, postings and completions they act on (19 R427 to R438, R442, R445). -/

namespace Sys2Proof.Machine

/-! ## Physical memory as an umpire reads and writes it -/

/-- `n` bytes at a physical address; none where nothing lies there or a byte reads with an uncorrected error. -/
def umpRead (s : State) (a n : Nat) : Option Nat :=
  if (List.range n).any (fun i => physKind s (a + i) == .nothing || isPoison s (a + i)) then none else some (anyRead s a n)

/-- A store of an umpire, the host's copies given up first (20 R448). -/
def umpWrite (s : State) (a n v : Nat) : State := applyStore (recallHost s ((bytesOf a n v).map (·.1))) (bytesOf a n v) (lineGrade s a)

/-- The active umpire. -/
def activeUmp (s : State) : Option (Nat × Umpire) :=
  (s.umps.find? (fun p => p.2.any (fun u => u.active))).bind (fun p => p.2.map (fun u => (p.1, u)))

def setUmp (s : State) (i : Nat) (u : Umpire) : State := { s with umps := s.umps.put none i (some u) }
def umpOf (s : State) (c : Nat) : Umpire := (s.umps.look none (c - 256)).getD { active := false }

/-! ## Queues (R427) -/

/-- Physical address of a queue's descriptor, if it has one. -/
def descAddr (s : State) (qtab q : Nat) : Option Nat :=
  match umpRead s (qtab + 8 * q) 8 with
  | some p => if p = 0 || p % 64 != 0 then none else some p
  | none => none

/-- A well-formed descriptor, as loaded into a slot. -/
def readDesc (s : State) (qtab q : Nat) : Option QSlot :=
  match (descAddr s qtab q).bind (fun p => umpRead s p 64) with
  | none => none
  | some b =>
    let f := fun o n => b / 256 ^ o % 256 ^ n
    if f 0 8 % 128 != 0 || f 8 4 = 0 || 16 < f 8 4 || f 12 4 = 0 || 16 < f 12 4 || f 0x28 8 % 32 != 0 || f 0x3C 4 != 0 then none
    else some { queue := q, ring := BitVec.ofNat 64 (f 0 8), lg := f 8 4, clg := f 12 4, troot := BitVec.ofNat 64 (f 0x10 8)
                pbase := BitVec.ofNat 64 (f 0x18 8), plim := f 0x20 4, cring := BitVec.ofNat 64 (f 0x28 8), rdidx := f 0x30 4
                cwridx := f 0x34 4, since := s.time }

/-- The slot that serves a queue. -/
def slotOf (s : State) (q : Nat) : Option (Nat × QSlot) :=
  (s.qslots.find? (fun p => p.2.any (fun x => x.queue == q))).bind (fun p => p.2.map (fun x => (p.1, x)))

/-- A translation in a queue's page tables. -/
def qWalk (s : State) (troot va : Nat) : Except Nat Xlat :=
  if 2 ^ 56 ≤ va then .error 0x081 else if tableOk s troot 65536 then walkFrom s va levels troot else .error 0x08B

def qRead (s : State) (x : QSlot) (va n : Nat) : Option (List Byte) := rangeRead s (qWalk s x.troot.toNat) va n

/-- A field of a mapped queue's descriptor, as memory holds it now. -/
def descField (s : State) (q o : Nat) : Option Nat :=
  (activeUmp s).bind (fun u => (descAddr s u.2.qtab.toNat q).bind (fun p => umpRead s (p + o) 4))

/-- Write a descriptor field of the umpire's. -/
def descPut (s : State) (q o v : Nat) : State :=
  match (activeUmp s).bind (fun u => descAddr s u.2.qtab.toNat q) with
  | some p => umpWrite s (p + o) 4 v
  | none => s

/-! ## Launches of a queue -/

def launchesOf (s : State) (q : Nat) : List (Nat × Launch) :=
  s.launches.filterMap (fun p => match p.2 with
    | some x => if x.queue == q then some (p.1, x) else none
    | none => none)

/-- Whether a launch lies at or below a level's target (R436). -/
def atLevel (level launch graph phase job : Nat) (x : Launch) : Bool :=
  x.job == job && (level == 3 || (x.phase == phase && (level == 2 || (x.graph == graph && (level == 1 || x.ix == launch)))))

/-- Whether a cancel still affects a launch. -/
def cancellable (s : State) (l : Nat) (x : Launch) : Bool :=
  x.state != .completed && x.status != 2 && !launchOver s l x

/-- Cancel the launches of a queue that satisfy `p`: the state, and how many are affected. -/
def cancelThose (s : State) (q : Nat) (p : Launch → Bool) : State × Nat :=
  let hit := (launchesOf s q).filter (fun y => p y.2 && cancellable s y.1 y.2)
  (hit.foldl (fun s y => cancelLaunch s y.1) s, hit.length)

/-! ## Barrier maps (15 R344) and fix-up tables (R442) -/

/-- Role-table budgets of a launch's kernel, wave by wave. -/
def roleBudgets (rd : Nat → Nat → Nat) : List Nat :=
  let t := rd 0x34 4
  (List.range 4).flatMap (fun i =>
    let e := rd (t + 4 * i) 4
    if e % 256 = 0xFF then [] else List.replicate (e / 2 ^ 8 % 256) (8 * (e / 2 ^ 16 % 256 + 1)))

def launchBudgets (s : State) (x : Launch) : List Nat := roleBudgets (fun o n => peekVirt s x.ctx (x.kbase.toNat + o) n)

/-- WAVES and RANKS of a name in a launch's barrier map. -/
def mapEntry (s : State) (x : Launch) (waves n : Nat) : Nat × Nat :=
  if x.barMap = 0 then ((if n < 16 || n = 96 || n = 120 then 2 ^ waves - 1 else 0), 0)
  else
    let e := peekVirt s x.ctx (x.barMap.toNat + 8 * n) 8
    (e % 2 ^ 32, e / 2 ^ 32 % 256)

/-- Whether a launch's barrier map is one that placement accepts. -/
def mapOk (s : State) (x : Launch) : Bool :=
  x.barMap = 0 || (x.barMap.toNat % 64 = 0 && (match rangeRead s (walk s x.ctx) x.barMap.toNat 1024 with
    | none => false
    | some b => (List.range 128).all (fun n =>
        let e := natAt b (8 * n) 8
        e / 2 ^ 40 == 0 && (e / 2 ^ 32 % 256 == 0 || (96 ≤ n && n < 120)) && e % 2 ^ 32 / 2 ^ (launchBudgets s x).length == 0)))

/-- Iterations of a persistent launch and its resident blocks. -/
def iterations (x : Launch) : Nat := x.ntiles * x.tileIt
def residents (x : Launch) : Nat := x.gx * x.gy * x.gz

/-- The iterations of block `b`: first, and the one after its last. -/
def blockRange (x : Launch) (b : Nat) : Nat × Nat := (iterations x * b / residents x, iterations x * (b + 1) / residents x)

/-- How many blocks' ranges meet tile `t`. -/
def tileMeets (x : Launch) (t : Nat) : Nat :=
  ((List.range (residents x)).filter (fun b => let r := blockRange x b
    r.1 < r.2 && r.1 < (t + 1) * x.tileIt && t * x.tileIt < r.2)).length

/-- Write the fix-up table from tile `t` on; none where it cannot be written. -/
def writeFixups (core : Nat) (x : Launch) : State → List Nat → Option State
  | s, [] => some s
  | s, t :: r => match engStore s (agCox 256) {} core x.ctx (x.fixBase.toNat + 4 * t) 4 (tileMeets x t) t with
    | .done s => writeFixups core x s r
    | _ => none

/-! ## Posting (R438, R386) -/

/-- The dies of a mask that have not failed. -/
def maskDies (s : State) (x : Launch) : List Nat := (List.range 8).filter (fun d => bitOf x.dieMask d && !(s.die d).lost)

/-- Posted launches that a distributor holds. -/
def heldBy (s : State) (d : Nat) : Nat :=
  (s.launches.filter (fun p => p.2.any (fun x => x.state == .posted && x.dies.contains d))).length

/-- A launch that its distributors refuse (R430): it completes with the in-band error "launch record refused". -/
def refuseLaunch (s : State) (l : Nat) (addr : DWord) : State :=
  modLaunch (inBand s l { cls := 1, unit := 8, unitIx := 0, addr := addr }) l (fun x => { x with unplaced := [], rowBlocks := [], toEnd := 0 })

/-- Pass an admitted launch to the distributors of its die mask, or a scarab grid to its base dies. None where the host is first
asked for a line of the fix-up table. -/
def postLaunch (s : State) (l : Nat) (x : Launch) : Option State :=
  let s1 := setLaunch { s with nextId := s.nextId + 1 } l { x with state := .posted, postedAt := s.nextId, dies := if x.scarab then [] else maskDies s x }
  if x.scarab then some s1
  else if !mapOk s x then some (refuseLaunch s1 l x.barMap)
  else if bitOf x.attr 2 then
    let core := (maskDies s x).headD 0 * 32
    if x.fixBase.toNat % 4 != 0 then some (refuseLaunch s1 l x.fixBase)
    else match needSnoop s (storeAddrs s core x.ctx x.fixBase.toNat (4 * x.ntiles)) with
      | some _ => none
      | none => match writeFixups core x s1 (List.range x.ntiles) with
        | some s => some s
        | none => some (refuseLaunch s1 l x.fixBase)
  else some s1

/-! ## Completion records (R435, R438) -/

/-- A completion record goes to the queue of those to be written, or under `hold` into the active umpire's memory. -/
def putCompl (s : State) (r : Compl) : State :=
  match activeUmp s with
  | some (i, u) => if u.holding then setUmp s i { u with kept := u.kept ++ [r] } else { s with complQ := s.complQ ++ [r] }
  | none => { s with complQ := s.complQ ++ [r] }

/-! ## The instructions (R437, R438) -/

/-- Whether `n` bytes of local memory at an address are ones an umpire instruction takes. -/
def localOk (x : Cox) (a n : Nat) : Bool := a % 8 == 0 && decide (a + n ≤ x.lmlim * 4096)

/-- An umpire instruction: its checks, then its effect. -/
def umpDo (i : Instr) (reads : List (BitVec 5)) (s : State) (body : State → Nat → Cox → CEff) : Res := coxDo .umpire i reads s body

def setG' (s : State) (c : Nat) (d : BitVec 5) (v : Nat) : CEff := .done (setCox s c ((coxAt s c).setG d v))

def execQmap (d a b : BitVec 5) (s : State) : Res :=
  umpDo (.qmap d a b) [a, b] s (fun s c x =>
    let q := x.g a
    let n := x.g b
    if 2 ^ 14 ≤ q || 64 ≤ n then coxIllegal s (.qmap d a b)
    else if (s.qslots.look none n).isSome then setG' s c d 1
    else match readDesc s (umpOf s c).qtab.toNat q with
      | none => setG' s c d 2
      | some y => if (slotOf s q).isSome then setG' s c d 3
          else setG' { s with qslots := s.qslots.put none n (some y) } c d 0)

/-- Whether a queue has running launches that are not saved. -/
def queueRuns (s : State) (q : Nat) : Bool :=
  (launchesOf s q).any (fun p => p.2.state == .posted && !s.saved.any (fun v => v.ctx == p.2.ctx))

def execQunmap (d a : BitVec 5) (s : State) : Res :=
  umpDo (.qunmap d a) [a] s (fun s c x =>
    let n := x.g a
    if 64 ≤ n then coxIllegal s (.qunmap d a)
    else match s.qslots.look none n with
      | none => setG' s c d 0
      | some y =>
        if queueRuns s y.queue then setG' s c d 1
        else
          let s := descPut (descPut s y.queue 0x30 y.rdidx) y.queue 0x34 y.cwridx
          setG' { s with qslots := s.qslots.put none n none } c d 0)

/-- The lowest pending kick at or above a queue, wrapping. -/
def nextKick (ks : List Nat) (q : Nat) : Option Nat :=
  match (ks.filter (fun k => q ≤ k)).min? with
  | some k => some k
  | none => ks.min?

/-- The umpire takes a queue's kick: it reads the queue's records, tries an unreadable one again and an unwritten completion (R428, R429,
R435). -/
def takeKick (s : State) (q : Nat) : State :=
  { s with kicks := s.kicks.filter (fun k => k != q)
           taken := if s.taken.contains q then s.taken else s.taken ++ [q]
           qslots := s.qslots.map (fun p => (p.1, p.2.map (fun x => if x.queue == q then { x with blocked := false } else x)))
           complQ := s.complQ.map (fun r => if r.queue == q then { r with waits := false } else r) }

def execKscan (d a : BitVec 5) (s : State) : Res :=
  umpDo (.kscan d a) [a] s (fun s c x =>
    if 2 ^ 14 ≤ x.g a then coxIllegal s (.kscan d a)
    else match nextKick s.kicks (x.g a) with
      | none => setG' s c d (2 ^ 64 - 1)
      | some q => setG' (takeKick s q) c d q)

/-- Slot of a journal record; where JSIZE is 0 the spec gives none, a free value. -/
def journalAddr (s : State) (u : Umpire) (n : Nat) : Nat :=
  u.jbase.toNat + 32 * (if u.jsize = 0 then freeNat s 20 else n % u.jsize.toNat)

/-- Append a record to the journal through umpire `c`; none where the host is first asked for its line. -/
def journalPut (s : State) (c v : Nat) : Option State :=
  let u := umpOf s c
  let at_ := journalAddr s u u.jseq.toNat
  match needSnoop s ((List.range 32).map (fun i => at_ + i)) with
  | some _ => none
  | none => some (umpWrite (setUmp s (c - 256) { u with jseq := u.jseq + 1, lastJ := s.time }) at_ 32 v)

/-- The active umpire journals a change of its own before it shows; what the record holds is left to its program (R445). -/
def journalNow (s : State) : State :=
  match activeUmp s with
  | none => s
  | some (i, u) =>
    if u.jsize = 0 then s
    else umpWrite (setUmp s i { u with jseq := u.jseq + 1, lastJ := s.time }) (journalAddr s u u.jseq.toNat) 32 (Config.freeValue s.tick 24).toNat

def execJapp (d a : BitVec 5) (s : State) : Res :=
  umpDo (.japp d a) [a] s (fun s c x =>
    let u := umpOf s c
    let at_ := journalAddr s u u.jseq.toNat
    if !localOk x (x.g a) 32 then .trap s 0x185 0 (BitVec.ofNat 64 (x.g a))
    else if (List.range 32).any (fun i => physKind s (at_ + i) == .nothing) then .trap s 0x183 0 (BitVec.ofNat 64 at_)
    else match journalPut s c (lmRead x (x.g a) 32) with
      | none => .stay ((needSnoop s ((List.range 32).map (fun i => at_ + i))).getD s)
      | some s => setG' s c d u.jseq.toNat)

def execJsync (d a b : BitVec 5) (s : State) : Res :=
  umpDo (.jsync d a b) [a, b] s (fun s c x =>
    let u := umpOf s c
    let next := (activeUmp s).elim u.jseq.toNat (fun p => p.2.jseq.toNat)
    let n := x.g a
    let tgt := x.g b
    if !localOk x tgt 32 then .trap s 0x185 0 (BitVec.ofNat 64 tgt)
    else if next ≤ n then setG' s c d 1
    else if u.jsize.toNat < next - n then setG' s c d 2
    else match umpRead s (journalAddr s u n) 32 with
      | none => .trap s 0x186 0 (BitVec.ofNat 64 (journalAddr s u n))
      | some v => setG' (setCox s c (lmWrite (coxAt s c) tgt 32 v)) c d 0)

/-- Which admitted launch of a mapped queue a posting block names: the spec gives the block no layout, a free choice (assumption 13). -/
def postedNext (s : State) : Option (Nat × Launch) :=
  let l := s.launches.filterMap (fun p => p.2.bind (fun x => if x.state == .admitted && x.status == 0 && (slotOf s x.queue).any (fun q => !q.2.suspended) then some (p.1, x) else none))
  l[freeNat s 21 % max 1 l.length]?

def execLpost (d a : BitVec 5) (s : State) : Res :=
  umpDo (.lpost d a) [a] s (fun s c x =>
    if !localOk x (x.g a) 8 then .trap s 0x185 0 (BitVec.ofNat 64 (x.g a))
    else match postedNext s with
      | none => setG' s c d (freeNat s 22 % 2)
      | some (l, y) =>
        if !y.scarab && (maskDies s y).any (fun e => 16 ≤ heldBy s e) then setG' s c d 1
        else match postLaunch s l y with
          | some s => setG' s c d 0
          | none => .stay ((needSnoop s (storeAddrs s ((maskDies s y).headD 0 * 32) y.ctx y.fixBase.toNat (4 * y.ntiles))).getD s))

/-- IDs of `lcan`: at a level its own number and that of the level above it. -/
def lcanHits (level id second : Nat) (x : Launch) : Bool :=
  match level with
  | 0 => x.ix == id && x.graph == second
  | 1 => x.graph == id && x.phase == second
  | 2 => x.phase == id && x.job == second
  | _ => x.job == id

def execLcan (d a : BitVec 5) (l : BitVec 2) (s : State) : Res :=
  umpDo (.lcan d a l) [a] s (fun s c x =>
    let v := x.g a
    if 2 ^ 48 ≤ v then coxIllegal s (.lcan d a l)
    else match cancelThose s (v / 2 ^ 32) (lcanHits l.toNat (v % 2 ^ 16) (v / 2 ^ 16 % 2 ^ 16)) with
      | (s, n) => setG' s c d n)

def execHold (a : BitVec 5) (s : State) : Res :=
  umpDo (.hold a) [a] s (fun s c x =>
    let u := umpOf s c
    if 2 ≤ x.g a then coxIllegal s (.hold a)
    else if x.g a = 1 then .done (setUmp s (c - 256) { u with holding := true })
    else .done { setUmp s (c - 256) { u with holding := false, kept := [] } with complQ := s.complQ ++ u.kept })

end Sys2Proof.Machine
end

