-- ==== Sys2Proof/Machine/Sched.lean ====
section
/-! DEFINITION. The umpire's events: doorbells, command records, admission, completion, the journal and the takeover (19 R427 to
R436, R445, R446, 17 R386, R387, 03 R99). -/

namespace Sys2Proof.Machine

/-- An event of the active umpire: none happens once the anchor die is lost (01 R22), nor where boot failed (20 R457). -/
def umpEvent (s : State) (f : State → Res) : Res := if s.sys.anchorLost || s.sys.bootFailed then .next s else f s

/-! ## Doorbells (R428) -/

def addKick (ks : List Nat) (q : Nat) : List Nat := if ks.contains q then ks else ks ++ [q]

/-- The queue that a write at an offset of an interface's doorbell page rings: one of its own 128 (20 R449). -/
def doorbellQueue (v o : Nat) : Option Nat := if v < 128 && o % 8 = 0 && o / 8 < 128 then some (128 * v + o / 8) else none

def execDoorbellWrite (d : Doorbell) (s : State) : Res :=
  umpEvent s (fun s => match doorbellQueue d.vf d.off with
    | some q => .next { s with kicks := addKick s.kicks q }
    | none => .next s)

/-! ## Kernel objects (03 R99, 02 R51, 18 R422) -/

/-- Whether `n` bytes at offset `o` lie in an object of `span` bytes. -/
def inSpan (span o n : Nat) : Bool := n = 0 || decide (o + n ≤ span)

/-- The role table of a kernel: entries with code, waves and vregs. -/
def roleEntries (rd : Nat → Nat → Nat) : List (Nat × Nat × Nat) :=
  (List.range 4).map (fun i => let e := rd (rd 0x34 4 + 4 * i) 4; (e % 256, e / 2 ^ 8 % 256, e / 2 ^ 16))

/-- Whether a role table keeps R51: roles or one plain entry, at most 32 waves, budgets that fit the quadrants. -/
def rolesOk (rd : Nat → Nat → Nat) : Bool :=
  let es := (roleEntries rd).filter (fun e => e.1 != 0xFF)
  let plain := es.filter (fun e => e.1 == 0xFE)
  let buds := roleBudgets rd
  es.all (fun e => (e.1 ≤ 2 || e.1 == 0xFE) && decide (e.2.2 ≤ 31) && 1 ≤ e.2.1) &&
  ((plain.isEmpty && (es.map (·.1)).Nodup) || es.length == 1) && 1 ≤ buds.length && buds.length ≤ 32 &&
  (List.range 4).all (fun q => ((List.range buds.length).zip buds).foldl (fun n p => if p.1 % 4 = q then n + p.2 else n) 0 ≤ 512) &&
  (!natBit (rd 0x3C 4) 0 || buds.all (fun b => b % 16 == 0))

/-- Whether a kernel object keeps R99, read through `rd` (offset, bytes). -/
def kernelOk (rd : Nat → Nat → Nat) : Bool :=
  let span := rd 0x20 4 + rd 0x24 4
  let nd := rd 5 1
  let ns := rd 6 2
  let code := rd 8 4
  let csz := rd 0xC 4
  let stk := rd 0x18 4
  let dict := rd 0x1C 4
  let xa := rd 0x2C 4
  let nx := rd 0x30 4
  rd 0 4 == 0x7AB04B4F && rd 4 1 == 1 && nd ≤ 8 && code % 4096 == 0 && inSpan span 0 256 &&
  rd 0x54 172 == 0 && rd 0x3C 4 / 16 == 0 && 1 ≤ rd 0x4C 4 && rd 0x4C 4 ≤ 16 &&
  inSpan span code csz &&
  (csz == 0 || [rd 0x10 4, rd 0x14 4].all (fun e => code ≤ e && e + 4 ≤ code + csz)) &&
  inSpan span stk (8 * ns) && (List.range ns).all (fun i => inSpan span (rd (stk + 8 * i) 4) (4 * rd (stk + 8 * i + 4) 2)) &&
  inSpan span dict (8 * nd) && (List.range nd).all (fun i =>
    let o := rd (dict + 8 * i) 8
    inSpan span o 0x40 && inSpan span o (0x40 + 16 * rd (o + 4) 1)) &&
  inSpan span (rd 0x34 4) 16 && (rd 0x28 4 == 0 || inSpan span (rd 0x28 4) 1024) &&
  inSpan span xa (8 * nx) && (List.range nx).all (fun i => inSpan span (rd (xa + 8 * i) 8) (0x40 + 131072)) &&
  rolesOk rd

/-- The bytes of a kernel object over its whole span, where every one can be read. -/
def kernelBytes (s : State) (x : QSlot) (kbase : Nat) : Option (List Byte) :=
  if kbase % 4096 != 0 then none
  else match qRead s x kbase 256 with
    | none => none
    | some h => qRead s x kbase (max 256 (natAt h 0x20 4 + natAt h 0x24 4))

/-! ## Launch records (R429, R430) -/

/-- The fields of a launch record; the kernel header is read through `k`. -/
def parseLaunch (queue : Nat) (r : List Byte) (k : Nat → Nat → Nat) : Launch :=
  let f := natAt r
  let w := f 0 4
  let scarab := k 0x44 4 != 0
  let n := f 0x20 4 * f 0x24 4 * f 0x28 4
  { queue := queue, prio := w / 2 ^ 8 % 4, lastG := natBit w 10, lastP := natBit w 11, lastJ := natBit w 12, fuse := natBit w 13
    clusterSize := w / 2 ^ 14 % 8 + 1, ix := f 4 2, graph := f 6 2, phase := f 8 2, job := f 10 2
    dieMask := BitVec.ofNat 8 (f 0xC 1), kbase := BitVec.ofNat 64 (f 0x10 8), args := BitVec.ofNat 64 (f 0x18 8)
    gx := f 0x20 4, gy := f 0x24 4, gz := f 0x28 4, psmax := f 0x2C 4, barMap := BitVec.ofNat 64 (f 0x30 8), ntiles := f 0x38 4
    tileIt := f 0x3C 4, fixBase := BitVec.ofNat 64 (f 0x40 8)
    deps := ((List.range 4).map (fun i => f (0x48 + 2 * i) 2)).filter (fun d => d != 0xFFFF)
    collgrp := BitVec.ofNat 16 (f 0x50 2), user := BitVec.ofNat 64 (f 0x60 8), est := k 0x40 4 * n
    attr := BitVec.ofNat 4 (k 0x3C 4), scarab := scarab, affOff := k 0x50 4
    unplaced := if scarab then [] else List.range n, toEnd := if scarab then 0 else n }

/-- Whether the fields of a launch record keep R429 and R430. -/
def recordOk (r : List Byte) (x : Launch) : Bool :=
  natAt r 0 4 / 2 ^ 17 == 0 && natAt r 0xC 4 / 2 ^ 8 == 0 && natAt r 0x52 14 == 0 && natAt r 0x68 24 == 0 && x.dieMask != 0 &&
  x.prio ≤ 2 && 1 ≤ x.gx && 1 ≤ x.gy && 1 ≤ x.gz && 1 ≤ x.psmax && x.psmax ≤ 65536 && x.gx % x.clusterSize == 0 &&
  (!bitOf x.attr 2 || (1 ≤ x.ntiles * x.tileIt && x.ntiles * x.tileIt ≤ 2 ^ 32 && x.fixBase != 0))

/-! ## Order (R431) -/

/-- Launches of the same open phase as `x`, or of its open job. -/
def samePhase (x y : Launch) : Bool := x.queue == y.queue && x.job == y.job && x.phase == y.phase && !y.phaseDone
def sameGraph (x y : Launch) : Bool := samePhase x y && x.graph == y.graph && !y.graphDone
def sameJob (x y : Launch) : Bool := x.queue == y.queue && x.job == y.job && !y.jobDone

/-- The live launches that satisfy `p`, by key. -/
def launchesIn (s : State) (p : Launch → Bool) : List (Nat × Launch) :=
  s.launches.filterMap (fun q => match q.2 with
    | some y => if p y then some (q.1, y) else none
    | none => none)

/-- Whether every launch that launch `l` waits for has completed: its DEPS, the earlier graphs of its phase, the earlier phases
of its job. -/
def depsReady (s : State) (l : Nat) (x : Launch) : Bool :=
  x.deps.all (fun d => (launchesIn s (sameGraph x)).any (fun q => q.2.ix == d && q.2.state == .completed)) &&
  (launchesIn s (sameJob x)).all (fun q => l ≤ q.1 ||
    (if q.2.phase == x.phase then q.2.graph == x.graph || q.2.graphDone else q.2.phaseDone))

/-- Whether a launch stands ready at the head of its queue and has yet to be admitted. -/
def standsReady (s : State) (l : Nat) (x : Launch) : Bool := x.state == .waiting && x.status == 0 && depsReady s l x

/-- Whether an estimate fits the account of the queue's interface and the umpire admits launches (R434, 20 R451, R452). -/
def fitsAccount (s : State) (x : Launch) : Bool :=
  decide (s.acctUse.look 0 (x.queue / 128) + x.est ≤ s.acctBud.look 0 (x.queue / 128)) && !s.sys.admitStop && !s.sys.throttling

/-! ## Command records (R429) -/

/-- The record at a mapped queue's RDIDX, once the queue's kick is taken (R428): none where there is none to consume, an unreadable one
answers no bytes. -/
def nextRecord (s : State) (n : Nat) : Option (QSlot × Option (List Byte)) :=
  match s.qslots.look none n with
  | none => none
  | some x =>
    let behind := (launchesOf s x.queue).any (fun q => standsReady s q.1 q.2 && (q.2.short || !fitsAccount s q.2))
    if !s.taken.contains x.queue || x.suspended || x.blocked || behind || (descField s x.queue 0x24).all (fun w => w == x.rdidx) then none
    else some (x, qRead s x (x.ring.toNat + 128 * (x.rdidx % 2 ^ x.lg)) 128)

/-- Consume the record of a slot; with the last one the kick is served. -/
def consume (s : State) (n : Nat) (x : QSlot) : State :=
  let i := (x.rdidx + 1) % 2 ^ 32
  let s := descPut { s with qslots := s.qslots.put none n (some { x with rdidx := i }) } x.queue 0x30 i
  if (descField s x.queue 0x24).any (fun w => w == i) then { s with taken := s.taken.filter (fun q => q != x.queue) } else s

/-- A record that names a queue, in the anchor die's bank. -/
def queueRecord (s : State) (q : Nat) : State :=
  writeRecord s 280 { mkRecord s 3 8 0 0xFFFF errQueue 16 none with synd := BitVec.ofNat 64 q }

def recType (r : List Byte) : Nat := natAt r 0 1

/-- Act on the record of a slot that satisfies `p`; one that cannot be read blocks the queue until its next kick. -/
def recordDo (n : Nat) (s : State) (p : List Byte → Bool) (f : State → QSlot → List Byte → State) : Res :=
  umpEvent s (fun s => match nextRecord s n with
    | none => .next s
    | some (x, none) => .next (queueRecord { s with qslots := s.qslots.put none n (some { x with blocked := true }) } x.queue)
    | some (x, some r) => .next (if p r then f (consume (journalNow s) n x) x r else s))

/-- A launch record enters the umpire; one that R430 refuses completes at once with status 1. -/
def execLaunchRecord (slot : Nat) (s : State) : Res :=
  recordDo slot s (fun r => recType r == 1) (fun s q r =>
    let kb := natAt r 0x10 8
    let obj := kernelBytes s q kb
    let x := parseLaunch q.queue r (fun o n => natAt (obj.getD []) o n)
    let l := s.nextId
    let s := { s with nextId := l + 1 }
    if !s.sys.refuseLaunches && recordOk r x && obj.any (fun b => kernelOk (natAt b)) then setLaunch s l x
    else inBand (setLaunch s l { x with unplaced := [], toEnd := 0 }) l { cls := 1, unit := 8, unitIx := 0, addr := x.kbase })

/-- Whether a cancel record keeps its layout. -/
def cancelOk (r : List Byte) : Bool := recType r == 2 && natAt r 0 4 / 2 ^ 10 == 0 && natAt r 0xC 116 == 0

def execCancelRecord (slot : Nat) (s : State) : Res :=
  recordDo slot s cancelOk (fun s q r =>
    (cancelThose s q.queue (atLevel (natAt r 0 4 / 2 ^ 8 % 4) (natAt r 4 2) (natAt r 6 2) (natAt r 8 2) (natAt r 10 2))).1)

/-- Whether the active umpire keeps 4,096 completion records under `hold` (R438). -/
def holdFull (s : State) : Bool := (activeUmp s).any (fun u => u.2.holding && decide (4096 ≤ u.2.kept.length))

/-- A record of neither type, or a cancel out of layout, is skipped with a completion of status 1, once there is room for it. -/
def execBadCommandRecord (slot : Nat) (s : State) : Res :=
  if holdFull s then .next s else recordDo slot s (fun r => recType r != 1 && !cancelOk r) (fun s q r =>
    putCompl s { queue := q.queue, level := 0, status := 1, ident := natAt r 4 2, errWord := 0x801, errAddr := 0, user := 0, energy := 0 })

/-! ## Admission (R433, R434, 17 R387) -/

/-- A context ID that nothing uses: 0xFFFF is given to none (20 R459). -/
def freeCtx (s : State) (ctx : Nat) : Bool :=
  decide (ctx < 0xFFFF) && (contextAt s ctx).isNone && !s.saved.any (fun v => v.ctx == ctx)

/-- The stack, row number and grade of the 2 MiB block at an address, where the leaf keeps R387. -/
def affinityBlock (s : State) (x : QSlot) (va : Nat) : Option (Nat × Nat × Grade) :=
  match qWalk s x.troot.toNat va with
  | .error _ => none
  | .ok t => match physKind s t.pa with
    | .stackLocal st _ => if 2 ^ 21 ≤ t.size then some (st, t.pa % 2 ^ 36 / 2 ^ 21, t.grade) else none
    | _ => none

/-- The blocks of a scarab grid with their stacks and rows, or the first failing address. -/
def affinity (s : State) (x : QSlot) (l : Launch) : Except Nat (List (Nat × Nat × Nat × Grade)) :=
  let a := l.args.toNat + l.affOff
  match qRead s x a 16 with
  | none => .error a
  | some b =>
    let base := natAt b 0 8
    let len := natAt b 8 8
    let all := (List.range (len / 2 ^ 21)).map (fun i => (i, base + i * 2 ^ 21, affinityBlock s x (base + i * 2 ^ 21)))
    if base % 2 ^ 21 != 0 || len = 0 || len % 2 ^ 21 != 0 || len / 2 ^ 21 < residents l then .error base
    else match all.find? (fun p => p.2.2.isNone) with
      | some p => .error p.2.1
      | none => .ok ((all.take (residents l)).filterMap (fun p => p.2.2.map (fun q => (p.1, q))))

/-- The parameters of the context that a launch runs as. -/
def launchContext (s : State) (l : Nat) (x : Launch) (q : QSlot) (arena size : DWord) : Context :=
  let rd := fun o n => ((qRead s q (x.kbase.toNat + o) n).map bytesNat).getD 0
  let u := (activeUmp s).map (·.2)
  { launch := l, troot := q.troot, lwin := u.elim 0 (·.lwindef), pwin := u.elim 0 (·.pwindef), pbase := q.pbase, plim := q.plim
    cbase := x.args, csz := 0x10000 + rd 0x24 4, kbase := x.kbase, args := x.args, arena := arena, arenaSize := size
    lmlim := rd 0x4C 4, scarab := x.scarab }

/-- Admit a launch whose turn it is in its queue, with a free context and the arena the driver gives it. -/
def execLaunchAdmit (l ctx : Nat) (arena arenaSize : DWord) (powerFits : Bool) (s : State) : Res :=
  umpEvent s (fun s => match launchAt s l with
    | none => .next s
    | some x => match slotOf s x.queue with
      | none => .next s
      | some (_, q) =>
        let first := (launchesOf s x.queue).all (fun p => l ≤ p.1 || !standsReady s p.1 p.2)
        if q.suspended || !standsReady s l x || !first || !fitsAccount s x || s.sys.refuseLaunches || !freeCtx s ctx ||
            arena.toNat % 65536 != 0 || arenaSize.toNat % 65536 != 0 then .next s
        else if !powerFits then .next (setLaunch s l { x with short := true })
        else
          let s := journalNow s
          let rows := if x.scarab then affinity s q x else .ok []
          match rows with
          | .error a => .next (inBand s l { cls := 8, unit := 8, unitIx := 0, addr := BitVec.ofNat 64 a })
          | .ok rows =>
            let v := x.queue / 128
            let s := { s with contexts := s.contexts.put none ctx (some (launchContext s l x q arena arenaSize)), ctxMeter := s.ctxMeter.put 0 ctx 0
                              acctUse := s.acctUse.put 0 v ((s.acctUse.look 0 v + x.est) % 2 ^ 48) }
            .next (setLaunch s l { x with state := .admitted, ctx := ctx, rowBlocks := rows, short := false }))

/-! ## Completion (R435, 20 R451, R458) -/

/-- The record of a level: the worst status of its launches, their first error, the last one's USER, the energy of all. A launch's
own record carries its in-band error whatever its status, as a double fault's cancel does (04 R96). -/
def levelRecord (queue level ident : Nat) (ls : List Launch) : Compl :=
  let bad := (ls.filter (fun x => x.status == 1)).foldl (fun (m : Option Launch) x => match m with
    | none => some x
    | some y => if x.ended < y.ended then some x else some y) none
  let e := if level = 0 then ls.head?.bind (fun x => x.err) else bad.bind (fun x => x.err)
  { queue := queue, level := level
    status := if ls.any (fun x => x.status == 2) then 2 else if ls.any (fun x => x.status == 1) then 1 else 0
    ident := ident
    errWord := e.elim 0 (fun e => BitVec.ofNat 32 (e.cls + e.unit * 2 ^ 8 + e.unitIx % 2 ^ 16 * 2 ^ 16))
    errAddr := e.elim 0 (·.addr)
    user := (ls.getLast?).elim 0 (·.user)
    energy := ls.foldl (fun n x => n + x.energy) 0 }

/-- The launches of a level up to its last member, when the members that satisfy `last` have ended and `done` holds of all up to
the last of them. -/
def levelSet (ls : List (Nat × Launch)) (last done : Launch → Bool) : Option (List (Nat × Launch)) :=
  match ((ls.filter (fun q => last q.2 && done q.2)).map (·.1)).max? with
  | none => none
  | some k =>
    let up := ls.filter (fun q => q.1 ≤ k)
    if up.all (fun q => done q.2) then some up else none

/-- Levels above a completed launch that complete with it, each marked and with its record. -/
def completeLevels (s : State) (x : Launch) : State × List Compl :=
  let mark := fun (s : State) (g : List (Nat × Launch)) (f : Launch → Launch) => g.foldl (fun s q => modLaunch s q.1 f) s
  match levelSet (launchesIn s (sameGraph x)) (fun y => y.lastG) (fun y => y.state == .completed) with
  | none => (s, [])
  | some g =>
    let r1 := levelRecord x.queue 1 x.graph (g.map (·.2))
    let s := mark s g (fun y => { y with graphDone := true })
    let ph := launchesIn s (samePhase x)
    let lastP := fun (y : Launch) => (ph.any (fun q => q.2.graph == y.graph && q.2.lastP))
    match levelSet ph lastP (fun y => y.graphDone) with
    | none => (s, [r1])
    | some p =>
      let r2 := levelRecord x.queue 2 x.phase (p.map (·.2))
      let s := mark s p (fun y => { y with phaseDone := true })
      let jb := launchesIn s (sameJob x)
      let lastJ := fun (y : Launch) => (jb.any (fun q => q.2.phase == y.phase && q.2.lastJ))
      match levelSet jb lastJ (fun y => y.phaseDone) with
      | none => (s, [r1, r2])
      | some j =>
        (mark s j (fun y => { y with jobDone := true }), [r1, r2, levelRecord x.queue 3 x.job (j.map (·.2))])

/-- A launch completes with its metered energy, and with it the levels above that it ends. -/
def completeLaunch (s : State) (l : Nat) (x : Launch) (energy : Nat) : State × List Compl :=
  let v := x.queue / 128
  let admitted := x.state != .waiting
  let used := if admitted then s.acctUse.look 0 v + energy - min x.est (s.acctUse.look 0 v + energy) else s.acctUse.look 0 v
  -- USED has 48 bits, and what it holds past them is left open
  let used := if used < 2 ^ 48 then used else freeNat s 60 % 2 ^ 48
  let x := { x with state := .completed, energy := if admitted then energy else 0, ended := s.nextId, unplaced := [] }
  let bars := s.bars.filter (fun p => p.1 < 2 ^ 40 || (p.1 - 2 ^ 40) / 128 / 2 ^ 97 != l)
  let s := setLaunch { s with nextId := s.nextId + 1, acctUse := s.acctUse.put 0 v used, bars := bars } l x
  match completeLevels s x with
  | (s, rs) => (s, levelRecord x.queue 0 x.ix [x] :: rs)

/-- Whether another launch's report, made before, waits for the umpire (R438). -/
def reportsBefore (s : State) (l : Nat) (x : Launch) : Bool :=
  s.launches.any (fun p => p.1 != l && p.2.any (fun y => y.report != 0 && y.state != .completed && (x.report = 0 || y.report < x.report)))

/-- Report a completed launch with the energy attributed to its context, `energy` being its part of the microsecond it ends in (20 R451); one
whose records the umpire under `hold` has no room for stays with its distributor, in the order of the reports (R438). -/
def execLaunchComplete (l energy : Nat) (s : State) : Res :=
  match launchAt s l with
  | none => .next s
  | some x =>
    if !launchOver s l x || (slotOf s x.queue).isNone || reportsBefore s l x then .next s
    else match completeLaunch (flushDirty s) l x (s.ctxMeter.look 0 x.ctx + energy) with  -- a release at sy (R431)
      | (t, rs) =>
        if (activeUmp s).any (fun u => u.2.holding && decide (4096 < u.2.kept.length + rs.length)) then
          .next (if x.report = 0 then setLaunch { s with nextId := s.nextId + 1 } l { x with report := s.nextId + 1 } else s)
        else .next (rs.foldl putCompl t)

/-! ## Writing completion records (R435) -/

/-- The 32 bytes of a completion record. -/
def Compl.word (r : Compl) : Nat :=
  r.level + r.status * 2 ^ 8 + r.ident % 2 ^ 16 * 2 ^ 16 + r.errWord.toNat * 2 ^ 32 + r.errAddr.toNat * 2 ^ 64 + r.user.toNat * 2 ^ 128 +
    r.energy % 2 ^ 64 * 2 ^ 192

/-- Where the next completion record of a queue goes, if its ring takes a write. -/
def complXlat (s : State) (x : QSlot) : Option Xlat :=
  match qWalk s x.troot.toNat (x.cring.toNat + 32 * (x.cwridx % 2 ^ x.clg)) with
  | .error _ => none
  | .ok t => if t.w && (extentDetail s t.pa).isNone && !(isPeer s t.pa && freeBit s 23) then some t else none

/-- The oldest record of a queue: the intent to write it is journalled, then it is written, CWRIDX advances and that is journalled (R445); a
full ring keeps it, an unwritable one too, until the next kick and with one error record. One whose intent is journalled is written under
`hold` too (R446). -/
def execCompletionRecordWrite (q : Nat) (s : State) : Res :=
  match slotOf s q, s.complQ.find? (fun r => r.queue == q) with
  | some (n, x), some r =>
    let full := (descField s q 0x38).all (fun c => (x.cwridx + 2 ^ 32 - c) % 2 ^ 32 == 2 ^ x.clg)
    if r.waits || full || (!r.intent && (activeUmp s).any (fun u => u.2.holding)) then .next s
    else if !r.intent then
      .next (journalNow { s with complQ := s.complQ.map (fun y => if y == r then { y with intent := true } else y) })
    else match complXlat s x with
      | none =>
        let s := { s with complQ := s.complQ.map (fun y => if y == r then { y with failed := true, waits := true } else y) }
        .next (if r.failed then s else queueRecord s q)
      | some t => match needSnoop s (([t.pa] ++ t.others).flatMap (fun a => (List.range 32).map (fun i => a + i))) with
        | some s => .next s
        | none =>
          let i := (x.cwridx + 1) % 2 ^ 32
          -- the write is a release at sy (14 R329)
          let s := storeVia (flushDirty s) t 32 r.word
          let s := { s with complQ := s.complQ.erase r, qslots := s.qslots.put none n (some { x with cwridx := i }) }
          .next (journalNow (descPut s q 0x34 i))
  | _, _ => .next s

/-! ## Time slices (R432) -/

/-- Contexts of a queue's running launches. -/
def runningCtxs (s : State) (q : Nat) : List Nat :=
  (launchesOf s q).filterMap (fun p => if p.2.state == .posted && !s.saved.any (fun v => v.ctx == p.2.ctx) then some p.2.ctx else none)

/-- Give a slot whose queue has been saved to the kicked queue that has waited longest. -/
def reassign (s : State) (n : Nat) (x : QSlot) : State :=
  let s := descPut (descPut s x.queue 0x30 x.rdidx) x.queue 0x34 x.cwridx
  let s := { s with qslots := s.qslots.put none n none }
  match (s.kicks.find? (fun k => k != x.queue && (slotOf s k).isNone)).bind (fun k => readDesc s ((activeUmp s).elim 0 (·.2.qtab.toNat)) k) with
  | some y => { s with qslots := s.qslots.put none n (some y) }
  | none => s

/-- The queue mapped longest has held its slot for QUANT while every slot is taken and another queue waits: its contexts stop, and once
they are saved the slot passes on. -/
def execQueueQuantumExpire (q : Nat) (s : State) : Res :=
  umpEvent s (fun s => match slotOf s q with
    | none => .next s
    | some (n, x) =>
      if x.suspended then .next (if queueRuns s q then s else reassign s n x)
      else
        let oldest := s.qslots.all (fun p => p.2.all (fun y => x.since ≤ y.since))
        let waits := s.kicks.any (fun k => (slotOf s k).isNone)
        if 64 ≤ s.qslots.length && oldest && waits then
          .next { s with qslots := s.qslots.put none n (some { x with suspended := true })
                         contexts := s.contexts.map (fun p => (p.1, p.2.map (fun c =>
                           if (runningCtxs s q).contains p.1 then { c with saving := true } else c))) }
        else .next s)

/-! ## The journal and the takeover (R445, R446) -/

/-- A heartbeat: a record whose contents the spec leaves to the umpire's program. -/
def execJournalHeartbeat (s : State) : Res :=
  umpEvent s (fun s => match activeUmp s with
    | none => .next s
    | some (i, u) =>
      if u.jsize = 0 then .next s
      else match journalPut s (256 + i) (Config.freeValue s.tick 24).toNat with
        | some s => .next { s with sys := { s.sys with beats := s.sys.beats + 1 } }
        | none =>
          let a := journalAddr s u u.jseq.toNat
          .next ((needSnoop s ((List.range 32).map (fun i => a + i))).getD s))

/-- Queues whose descriptor shows records not consumed. -/
def behindQueues (s : State) (qtab : Nat) : List Nat :=
  (List.range (2 ^ 14)).filter (fun q => match (descAddr s qtab q).bind (fun p => umpRead s (p + 0x24) 4), (descAddr s qtab q).bind (fun p => umpRead s (p + 0x30) 4) with
    | some w, some r => w != r
    | _, _ => false)

/-- UROLE is exchanged: the former active umpire stops, the new one starts under `hold`, with the records kept so far and the journal's
place, and the kicks of queues with records left are restored. -/
def takeover (s : State) : State :=
  match activeUmp s with
  | none => s
  | some (i, old) =>
    let j := 1 - i
    let new := (s.umps.look none j).getD { active := false }
    let s := setCox s (256 + i) { coxAt s (256 + i) with stopped := true, wait := .no }
    let s := setUmp s i { old with active := false, holding := false, kept := [] }
    let s := setUmp s j { new with active := true, holding := true, kept := new.kept ++ old.kept, jseq := old.jseq, lastJ := s.time }
    { s with kicks := (behindQueues s new.qtab.toNat).foldl addKick s.kicks, taken := [] }

/-- A double fault of the active umpire, or an uncorrected error in its own memory, which this event reports. -/
def execUmpireTakeoverFault (s : State) : Res := umpEvent s (fun s => .next (takeover s))
/-- 100 µs without a journal record. -/
def execUmpireTakeoverSilence (s : State) : Res :=
  umpEvent s (fun s => .next (if (activeUmp s).any (fun u => decide (u.2.lastJ + 120000 ≤ s.time)) then takeover s else s))

end Sys2Proof.Machine
end

