-- ==== Sys2Proof/Machine/Place.lean ====
section
/-! DEFINITION. The distributors: the placement of blocks, the installing of a context on a cox, the end of a block (19 R440 to
R442, R433, 04 R100, 05 R120, 15 R343, R344). -/

namespace Sys2Proof.Machine

/-! ## What a core has free (R440) -/

/-- The placed blocks of a core. -/
def coreBlocks (s : State) (c : Nat) : List (Nat × Block) :=
  s.blocks.filterMap (fun p => match p.2 with
    | some b => if p.1 / 64 == c then some (p.1, b) else none
    | none => none)

/-- Wave numbers of a block that still hold, or may yet take, a slot and a budget. -/
def heldWaves (n : Nat) (b : Block) : List Nat :=
  (List.range n).filter (fun w => if b.spawned.contains w then !b.gone.contains w else !b.last)

/-- Slots and registers that blocks of a core hold in a quadrant. -/
def quadUse (s : State) (c q : Nat) (buds : List Nat) : Nat × Nat :=
  let ws := (coreBlocks s c).flatMap (fun p => (heldWaves buds.length p.2).filter (fun w => w % 4 == q))
  (ws.length, ws.foldl (fun n w => n + buds.getD w 0) 0)

/-- Wave slots of a core that are free. -/
def freeWaves (s : State) (c : Nat) (buds : List Nat) : Nat :=
  64 - (List.range 4).foldl (fun n q => n + (quadUse s c q buds).1) 0

/-- Whether a block's waves fit the quadrants of a core. -/
def wavesFit (s : State) (c : Nat) (buds : List Nat) : Bool :=
  (List.range 4).all (fun q =>
    let u := quadUse s c q buds
    let mine := (List.range buds.length).filter (fun w => w % 4 == q)
    u.1 + mine.length ≤ 16 && u.2 + mine.foldl (fun n w => n + buds.getD w 0) 0 ≤ 512)

/-- The names of a level that a launch uses. -/
def usedNames (s : State) (x : Launch) (waves lo hi : Nat) : List Nat :=
  ((List.range (hi - lo)).map (fun i => lo + i)).filter (fun n => (mapEntry s x waves n).1 != 0)

/-- Free handles of a core. -/
def freeHandles (s : State) (c : Nat) : List Nat := (List.range 64).filter (fun h => (blockAt s (c * 64 + h)).isNone)

/-- Whether a core takes a block of a launch. -/
def coreTakes (s : State) (c : Nat) (x : Launch) (buds : List Nat) (spad : Nat) : Bool :=
  let core := s.core c
  let blk : Block := { launch := 0, ctx := 0, index := 0, cluster := 0, rank := 0, pslot := 0, spadSize := spad, shadowed := bitOf x.attr 0 }
  let n := (coreBlocks s c).length + 1
  s.sys.pwr == 0 && core.ctx.all (fun k => k == x.ctx) && !(contextAt s x.ctx).any (fun k => k.saving) && !s.saved.any (fun v => v.ctx == x.ctx) &&
  !(s.islands.look none (islandOf c)).any (fun i => i.gated) && !(s.islands.look none (c / 32 * 2 + 1)).any (fun i => i.gated) &&
  wavesFit s c buds && coreWays s c + blockWays blk ≤ 12 &&
  n * (usedNames s x buds.length 0 96).length ≤ 96 && n * (usedNames s x buds.length 96 120).length ≤ 24 &&
  !(freeHandles s c).isEmpty && core.heldEvents.all (fun e => evType e != 1)

/-- The suitable core with the most free wave slots, ties to the lower, among those listed. -/
def bestCore (s : State) (cs : List Nat) (x : Launch) (buds : List Nat) (spad : Nat) : Option Nat :=
  ((cs.filter (fun c => coreTakes s c x buds spad)).foldl (fun (m : Option (Nat × Nat)) c =>
    let f := freeWaves s c buds
    match m with
    | none => some (c, f)
    | some y => if y.2 < f then some (c, f) else some y) none).map (·.1)

/-- Private slots of a launch that no live block holds. -/
def freePslots (s : State) (l : Nat) (x : Launch) : List Nat :=
  let used := (blocksOf s l).map (fun p => p.2.pslot)
  (List.range x.psmax).filter (fun i => !used.contains i)

/-! ## Barriers of a placed block (15 R343, R344) -/

/-- The members of a block, by its key or, while it is not placed, its ghosts. -/
def membersOf (waves : Nat) (id : Nat → Nat) : List Nat := (setBits 32 waves).map id

/-- Where block `i` of a launch stands: its key. -/
def placedAt (s : State) (l i : Nat) : Option Nat := ((blocksOf s l).find? (fun p => p.2.index == i)).map (·.1)

def memberId (s : State) (l i w : Nat) : Nat := match placedAt s l i with
  | some b => b * 32 + w
  | none => ghost l i w

/-- Block indices of a cluster. -/
def clusterBlocks (x : Launch) (c : Nat) : List Nat := (List.range x.clusterSize).map (fun i => c * x.clusterSize + i)

/-- A new shared barrier over some blocks of a launch; those withdrawn or ended count as gone. -/
def sharedBarrier (s : State) (l : Nat) (x : Launch) (blocks : List Nat) (waves : Nat) : Barrier :=
  let lost := blocks.filter (fun i => (placedAt s l i).isNone && !x.unplaced.contains i)
  { members := blocks.flatMap (fun i => membersOf waves (memberId s l i))
    gone := lost.flatMap (fun i => membersOf waves (ghost l i)) }

def putBar (s : State) (k : Nat) (x : Barrier) : State :=
  if (s.bars.look none k).isSome then s else { s with bars := s.bars.put none k (some (settleBarrier x)) }

/-- The ghosts of a block stand for its waves from now on. -/
def realize (s : State) (l i b : Nat) : State :=
  let f := fun m => if ghost l i 0 ≤ m && m < ghost l i 0 + 32 then b * 32 + (m - ghost l i 0) else m
  { s with bars := s.bars.map (fun p => (p.1, p.2.map (fun y => { y with members := y.members.map f, arrived := y.arrived.map f, gone := y.gone.map f }))) }

/-- The converse, when a block has ended: its handle may serve another. -/
def unrealize (s : State) (l i b : Nat) : State :=
  let f := fun m => if m / 32 = b then ghost l i (m % 32) else m
  { s with bars := s.bars.map (fun p => if p.1 < 2 ^ 40 then p
      else (p.1, p.2.map (fun y => { y with members := y.members.map f, arrived := y.arrived.map f, gone := y.gone.map f }))) }

/-- Bind the barriers that block `b` names. -/
def bindBarriers (s : State) (l : Nat) (x : Launch) (b : Nat) (blk : Block) (n : Nat) : State :=
  let s := realize s l blk.index b
  let s := (usedNames s x n 0 96).foldl (fun s i =>
    let e := mapEntry s x n i
    putBar s (barKey b blk i) { members := membersOf e.1 (fun w => b * 32 + w), full := e.1 == 2 ^ n - 1 }) s
  let s := (usedNames s x n 96 120).foldl (fun s i =>
    let e := mapEntry s x n i
    let all := clusterBlocks x blk.cluster
    let in_ := if e.2 = 0 then all else all.filter (fun j => natBit e.2 (j % x.clusterSize))
    putBar s (barKey b blk i) (sharedBarrier s l x in_ e.1)) s
  (usedNames s x n 120 128).foldl (fun s i =>
    putBar s (barKey b blk i) (sharedBarrier s l x (List.range (residents x)) (mapEntry s x n i).1)) s

/-! ## BLOCK_PLACEMENT (R440, R441) -/

/-- The type 1 event of a placed block. -/
def placeEvent (x : Launch) (blk : Block) (h : Nat) : DWord × DWord :=
  let persistent := bitOf x.attr 2
  let r := blockRange x blk.index
  (eventHdr 1 persistent.toNat 0xFFFE (blk.pslot * 2 ^ 16 + blk.rank * 2 ^ 8 + h),
   BitVec.ofNat 64 (if persistent then r.1 + (r.2 - r.1) * 2 ^ 32 else blk.index))

/-- Place block `i` on core `c` with private slot `ps`. -/
def placeBlock (s : State) (l : Nat) (x : Launch) (buds : List Nat) (spad c i ps : Nat) : State :=
  let hs := freeHandles s c
  let h := (hs[freeNat s 25 % max 1 hs.length]?).getD 0
  let b := c * 64 + h
  let blk : Block :=
    { launch := l, ctx := x.ctx, index := i, cluster := i / x.clusterSize, rank := i % x.clusterSize, pslot := ps, spadSize := spad
      shadowed := bitOf x.attr 0, idempotent := bitOf x.attr 1 }
  let s := setBlock s b blk
  -- the cores of the cluster's blocks, by rank
  let mates := (blocksOf s l).foldl (fun (t : Tab Nat) p => if p.2.cluster == blk.cluster then p.2.mates.foldl (fun t q => t.put 0 q.1 q.2) t else t) []
  let s := (blocksOf s l).foldl (fun s p => if p.2.cluster == blk.cluster then
    setBlock s p.1 { p.2 with mates := mates.put 0 blk.rank (c + 1) } else s) s
  let s := convertWays s c
  let s := s.setCore c { s.core c with ctx := some x.ctx }
  let s := bindBarriers s l x b blk buds.length
  let e := placeEvent x blk h
  offerEvent s c e.1 e.2

/-- Place the blocks of a group on distinct cores of a die; none where one of them finds no core or private slot. -/
def placeGroup (l : Nat) (buds : List Nat) (spad : Nat) : State → List Nat → List Nat → Option State
  | s, _, [] => some s
  | s, cs, i :: r => match launchAt s l with
    | none => none
    | some x =>
      let ps := freePslots s l x
      match bestCore s cs x buds spad, ps[freeNat s (600000 + i) % max 1 ps.length]? with
      | some c, some p =>
        let s := setLaunch s l { x with unplaced := x.unplaced.filter (fun j => j != i) }
        placeGroup l buds spad (placeBlock s l x buds spad c i p) (cs.filter (fun y => y != c)) r
      | _, _ => none

/-- The next group of a launch: the lowest unplaced block with those of its cluster that are unplaced. -/
def nextGroup (x : Launch) : List Nat := match x.unplaced with
  | [] => []
  | i :: r => i :: r.filter (fun j => j / x.clusterSize == i / x.clusterSize)

/-- Place the next group of a launch on a die. -/
def placeOf (s : State) (die l : Nat) (x : Launch) : Option State :=
  let spad := peekVirt s x.ctx (x.kbase.toNat + 0x38) 4
  match nextGroup x with
  | [] => none
  | g => placeGroup l (launchBudgets s x) spad s ((List.range 32).map (fun i => die * 32 + i)) g

/-- Posted launches of a die with blocks to place: higher PRIO first, then in posting order. -/
def candidates (s : State) (die : Nat) : List (Nat × Launch) :=
  (launchesIn s (fun x => x.state == .posted && x.dies.contains die && !x.unplaced.isEmpty)).mergeSort (fun a b =>
    b.2.prio < a.2.prio || (a.2.prio == b.2.prio && a.2.postedAt ≤ b.2.postedAt))

def execBlockPlacement (die : Nat) (s : State) : Res :=
  if 8 ≤ die || (s.die die).lost then .next s
  else .next (((candidates s die).findSome? (fun p => placeOf s die p.1 p.2)).getD s)

/-! ## CONTEXT_INSTALL (R433, 04 R100) -/

/-- The cox of a newly installed context: the generator's entry, zeroed registers and local memory; its queue holds what was
placed for it. Copies that the core and its die still hold are dropped, so that nothing of the launch reads what stood before a
launch it depends on: the acquire at sy of 19 R431. -/
def installCox (s : State) (c ctx : Nat) (k : Context) : State :=
  let x := coxAt s c
  let at_ := fun o => k.kbase + BitVec.ofNat 64 (peekVirt s ctx (k.kbase.toNat + o) 4 / 4 * 4)
  let s := s.setCore c { s.core c with accs := [], fregs := [], l1 := [] }
  let s := dropDie (blockFills s c (fun _ => true)) (c / 32)
  setCox (freshSight s (agCox c)) c { pc := at_ 0x10, xvec := at_ 0x14, ctx := some ctx, lmlim := k.lmlim, events := x.events, held := x.held }

def execContextInstall (c ctx : Nat) (s : State) : Res :=
  match contextAt s ctx with
  | none => .next s
  | some k =>
    if 256 ≤ c || (s.core c).ctx != some ctx || (coxAt s c).ctx.isSome || k.saving || s.sys.pwr != 0 then .next s
    else .next (installCox s c ctx k)

/-! ## BLOCK_FINISH (05 R120) -/

/-- A block that has ended is reported and leaves its core. -/
def endBlock (s : State) (b : Nat) (x : Block) : State :=
  let s := modLaunch s x.launch (fun l => { l with toEnd := l.toEnd - (1 + x.withdrawn.length) })
  let s := unrealize { dropSpadKeys s b with bars := s.bars.filter (fun p => !(p.1 < 2 ^ 40 && p.1 / 128 == b)), blocks := s.blocks.put none b none } x.launch x.index b
  offerEvent s (b / 64) (eventHdr 5 0 (b % 64) x.spawned.length) 0

def execBlockFinish (b : Nat) (s : State) : Res :=
  match blockAt s b with
  | none => .next s
  | some x => .next (if blockDone s b x && !blockBusy s b && x.mailbox.isEmpty then endBlock s b x else s)

end Sys2Proof.Machine
end

