-- ==== Sys2Proof/Machine/ScarabWords.lean ====
section
/-! DEFINITION. The words of scarabs and their events: row operations, the mask stack, collectives, the start and stop of blocks (17
R386 to R397). -/

namespace Sys2Proof.Machine

/-- An operand of a scarab word read as a 64-bit integer. -/
def scSca (s : State) (k : Nat) (x : Scarab) (t : TOp) (o : Opnd) : Nat := srcBits (scView s k x) t .n64 o 0

/-! ## Row operations (R390, R391) -/

def execRowact (t : TOp) (s : State) : Res :=
  scarabOp 0x320 t s (fun s k x =>
    let sum := (scSca s k x t t.a : Int) + toSigned 32 t.imm.toNat
    let b := sum.toNat
    if sum < 0 || 64 ≤ sum then .trap { cause := 0x161 }
    else if x.open_.contains b then .done s
    else if 16 ≤ x.open_.length then .trap { cause := 0x162 }
    else .done (setScarab s k { x with open_ := x.open_ ++ [b] }))

def execRowpre (t : TOp) (s : State) : Res :=
  scarabOp 0x321 t s (fun s k x =>
    let b := scSca s k x t t.a
    if 64 ≤ b then .trap { cause := 0x161 }
    else .done (setScarab s k { x with open_ := x.open_.filter (fun o => o != b) }))

/-- The active lanes' words of a burst of an open bank, with a value each; or the cause. -/
def rowParts (t : TOp) (s : State) (k : Nat) (x : Scarab) (val : Nat → Nat) : Except Nat (List Part) :=
  let b := scSca s k x t t.a
  if 64 ≤ b || t.imm.toNat / 8 != 0 then .error 0x161
  else if !x.open_.contains b then .error 0x163
  else
    let base := rowAddr k x.row b (t.imm.toNat % 8)
    .ok ((scView s k x).active.map (fun l =>
      { lane := l, locs := (List.range 4).map (fun i => .phys (base + 4 * l + i) x.grade []), data := BitVec.ofNat 64 (val l) }))

def execRowld (t : TOp) (s : State) : Res :=
  scarabOp 0x322 t s (fun s k x =>
    match rowParts t s k x (fun _ => 0) with
    | .error c => .trap { cause := c }
    | .ok [] => .done s
    | .ok ps => scIssue s k x t .mem [.v (opndIx t.d)] (.load (.vec (opndIx t.d) none) ps 0))

def execRowst (t : TOp) (s : State) : Res :=
  scarabOp 0x323 t s (fun s k x =>
    match rowParts t s k x (fun l => scLane x (opndIx t.b) l) with
    | .error c => .trap { cause := c }
    | .ok [] => .done s
    | .ok ps => scIssue s k x t .mem [] (.store ps none false))

/-! ## The mask stack (R392) -/

def execMif (t : TOp) (s : State) : Res :=
  scarabDo s (scOpRegs 0x327 t) (fun s k x =>
    if 4 ≤ x.maskStack.length then .trap { cause := 0x164 }
    else
      let m := BitVec.ofNat 64 ((scView s k x).msk (opndIx t.a))
      .done (setScarab s k { x with maskStack := { saved := x.exec, taken := x.exec &&& m, els := false } :: x.maskStack, exec := x.exec &&& m }))

def execMelse (_t : TOp) (s : State) : Res :=
  scarabDo s [] (fun s k x => match x.maskStack with
    | e :: r => if e.els then .trap { cause := 0x165 }
        else .done (setScarab s k { x with maskStack := { e with els := true } :: r, exec := e.saved &&& ~~~ e.taken })
    | [] => .trap { cause := 0x165 })

def execMend (_t : TOp) (s : State) : Res :=
  scarabDo s [] (fun s k x => match x.maskStack with
    | e :: r => .done (setScarab s k { x with maskStack := r, exec := e.saved })
    | [] => .trap { cause := 0x165 })

/-! ## Collectives (R393 to R396) -/

/-- Whether a descriptor is malformed. -/
def badDescriptor (s : State) (d : Nat) : Bool :=
  d / 2 ^ 25 != 0 || (if natBit d 24 then d / 2 ^ 16 % 256 == s.pkg else d / 2 ^ 16 % 256 != 0)

/-- The scarab a descriptor of this package names. -/
def descScarab (d : Nat) : Nat := d / 2 ^ 12 % 16 * 16 + d / 2 ^ 8 % 16

/-- Collective group of the launch a scarab is bound to. -/
def groupOfScarab (s : State) (x : Scarab) : BitVec 16 := (launchAt s x.launch).elim 0 (fun l => l.collgrp)

/-- Whether a scarab holds a wave. -/
def Scarab.bound (x : Scarab) : Bool := x.state == .running || x.state == .selfRefresh

/-- A word taken from a message: as it is, or combined with the register's (R395). -/
def takeWord (op : Option (Nat × Fmt)) (own got : Nat) : Nat :=
  match op with
  | none => got
  | some (3, _) => own &&& got
  | some (4, _) => own ||| got
  | some (5, _) => own ^^^ got
  | some (o, f) => combine o f own got

/-- An agent has read some releases. -/
def hearReleases (s : State) (ag : Nat) (l : List Rel) : State := if l.isEmpty then s else modSight s ag (fun v => { v with got := (v.got ++ l).eraseDups })

/-- The outstanding receives of a running scarab take the messages that match them: each, oldest first, the oldest with its source and
group, and hear the releases of its sender, which a later acquire takes up (R396); in self-refresh messages stay buffered (R399). -/
def takeMessages (s : State) (k : Nat) : State :=
  let x := scarabAt s k
  let g := groupOfScarab s x
  if x.state != .running then s else
  x.pend.foldl (fun s p => match p.work with
    | .collRecv d src lanes op other =>
      let x := scarabAt s k
      (match x.msgs.find? (fun m => m.src == src && m.grp == g) with
        | none => s
        | some m =>
          let vals := (List.range 64).filterMap (fun l => if bitOf lanes l
            then some (l, takeWord op ((other[l]?).getD 0).toNat ((m.data[l]?).getD 0).toNat) else none)
          hearReleases (setScarab s k ({ x.writeVec d vals with msgs := x.msgs.erase m }.endPend p.id)) (agScarab k) m.rels)
    | _ => s) s

def execColsend (t : TOp) (s : State) : Res :=
  scarabOp 0x324 t s (fun s k x =>
    let d := scSca s k x t t.a
    if badDescriptor s d then .trap { cause := 0x166 }
    else scIssue s k x t .async [] (.collSend (BitVec.ofNat 64 d) ((List.range 64).map (fun l => BitVec.ofNat 32 (scLane x (opndIx t.b) l)))))

/-- Issue a receive, and take a message that is there. -/
def recvEff (t : TOp) (op : Option (Nat × Fmt)) (s : State) (k : Nat) (x : Scarab) : Eff :=
  let d := scSca s k x t t.a
  if badDescriptor s d then .trap { cause := 0x166 }
  else
    let other := if op.isSome then (List.range 64).map (fun l => BitVec.ofNat 32 (scLane x (opndIx t.b) l)) else []
    match scIssue s k x t .async [.v (opndIx t.d)] (.collRecv (opndIx t.d) (BitVec.ofNat 64 d) x.exec op other) with
    | .done s => .done (takeMessages s k)
    | e => e

def execColrecv (t : TOp) (s : State) : Res := scarabOp 0x325 t s (recvEff t none)
def execColred (t : TOp) (s : State) : Res := scarabOp 0x326 t s (recvEff t (some (t.opmod.toNat % 8, t.fmt)))

/-- Whether a scarab takes a message for a group: its stack is there (01 R23), it is bound with the group, and a buffer is free. -/
def canPlace (s : State) (k : Nat) (g : BitVec 16) : Bool :=
  let x := scarabAt s k
  !s.sys.stacksLost.contains (k / 16) && x.bound && groupOfScarab s x == g && decide (x.msgs.length < 16)

/-- Place a message at a scarab, for the launch bound there. -/
def placeMsg (s : State) (k : Nat) (m : CollMsg) : State :=
  let x := scarabAt s k
  takeMessages (setScarab s k { x with msgs := x.msgs ++ [{ m with launch := x.launch }] }) k

/-- A message arrives: of scarab `k` of this package and its `colsend` `id`, in send order, or from another package, whose sender's
release at sy it carries. It is placed at its destination and acknowledged; a `colsend` to another package is acknowledged from there. -/
def execCollMessageArrive (dst : Nat) (from_ : CollFrom) (src : DWord) (grp : BitVec 16) (data : List Word) (s : State) : Res :=
  match from_ with
  | .peer released =>
    if dst < 256 && natBit src.toNat 24 && canPlace s dst grp
    then .next (placeMsg s dst { src := src, grp := grp, data := data.take 64
                                 rels := if released then [relNow s { kind := .peer, id := src.toNat } 6] else [] }) else .next s
  | .scarab k id =>
    let x := scarabAt s k
    if s.sys.stacksLost.contains (k / 16) then .next s else
    match x.pend.find? (fun p => p.id == id) with
    | none => .next s
    | some p => match p.work with
      | .collSend d words =>
        let older := x.pend.any (fun q => decide (q.id < id) && (match q.work with
          | .collSend e _ => e.toNat / 2 ^ 8 == d.toNat / 2 ^ 8
          | _ => false))
        if older then .next s
        else if natBit d.toNat 24 then .next (setScarab s k (x.endPend id))
        else
          let g := groupOfScarab s x
          let tgt := descScarab d.toNat
          if tgt = dst && canPlace s tgt g then
            .next (placeMsg (setScarab s k (x.endPend id)) tgt
              { src := BitVec.ofNat 64 (k / 16 * 2 ^ 12 + k % 16 * 2 ^ 8 + d.toNat % 256), grp := g, data := words, rels := p.rels })
          else .next s
      | _ => .next s

/-- A message that finds no bound scarab of its group is refused, at the sender a cause for the next join; one to another package may
instead time out (16 R381). -/
def execCollHoldTimeout (k id : Nat) (s : State) : Res :=
  let x := scarabAt s k
  match x.pend.find? (fun p => p.id == id) with
  | none => .next s
  | some p => match p.work with
    | .collSend d _ =>
      let far := natBit d.toNat 24
      let y := scarabAt s (descScarab d.toNat)
      if !far && y.bound && groupOfScarab s y == groupOfScarab s x then .next s
      else
        let y := x.endPend id
        .next (setScarab s k { y with deferred := y.deferred ++
          [{ cause := if far && freeBit s 19 then 0x151 else 0x167, detail := 0, regs := [], flag := p.flag, cls := .async }] })
    | _ => .next s

/-- A receive has waited past PEERTO. -/
def execColrecvTimeout (k : Nat) (s : State) : Res :=
  let x := scarabAt s k
  if x.state == .running && x.pend.any (fun p => match p.work with
    | .collRecv _ _ _ _ _ => true
    | _ => false) then .next (scarabFault s k 0x151) else .next s

/-! ## Blocks of a scarab grid (R386, R388, R389, R397) -/

/-- Image of dictionary 0 of a kernel. -/
def scarabImage (s : State) (x : Launch) : Nat :=
  x.kbase.toNat + peekVirt s x.ctx (x.kbase.toNat + peekVirt s x.ctx (x.kbase.toNat + 0x1C) 4) 4

/-- The base die of a stack loads the scarab image of a launch: its dictionary, or none with a record and the in-band error of class 12. -/
def loadStackDict (l : Nat) (x : Launch) (acc : State × Option (Tab (Tab (Option (BitVec 128))))) (stack : Nat) :
    State × Option (Tab (Tab (Option (BitVec 128)))) :=
  let image := scarabImage acc.1 x
  match loadImage true image (fun s va n => (s, (rangeRead s (walk s x.ctx) va n).elim (.error (0x081, va)) .ok)) acc.1 with
  | (s, r) =>
    if r.status = 0 then (s, acc.2.map (fun d => d.put [] stack r.entries))
    else
      let rec_ := { mkRecord s 3 7 (stack * 16) x.ctx errEngine (32 + stack) (some image) with synd := BitVec.ofNat 64 r.status }
      (inBand (writeRecord s (264 + stack) rec_) l { cls := 12, unit := 7, unitIx := stack * 16, addr := BitVec.ofNat 64 image }, none)

/-- Every base die that holds a block of a grid loads the image: the launch keeps the dictionaries, or no block of it starts. -/
def loadScarabDict (s : State) (l : Nat) (x : Launch) : State × Option (Tab (Tab (Option (BitVec 128)))) :=
  match x.scDict with
  | some d => (s, some d)
  | none =>
    match ((x.rowBlocks.map (fun r => r.2.1)).eraseDups).foldl (loadStackDict l x) (s, some []) with
    | (s, some d) => (modLaunch s l (fun x => { x with scDict := some d }), some d)
    | (s, none) => (modLaunch s l (fun x => { x with rowBlocks := [] }), none)

/-- The wave that a block starts on channel `c` of a stack (R383, R389). -/
def scarabWave (s : State) (l : Nat) (x : Launch) (old : Scarab) (dict : Tab (Option (BitVec 128))) (b stack row : Nat) (g : Grade) (c : Nat) : Scarab :=
  let arg := fun i => BitVec.ofNat 64 (peekVirt s x.ctx (x.args.toNat + 8 * i) 8)
  let sregs := ((List.range 8).map (fun i => (i, arg i)) ++ [(8, BitVec.ofNat 64 b), (9, BitVec.ofNat 64 c), (10, BitVec.ofNat 64 s.pkg)
    , (11, BitVec.ofNat 64 stack)]).foldl (fun (t : Tab DWord) (p : Nat × DWord) => t.put 0 p.1 p.2) []
  let kb := x.kbase.toNat
  { state := .running, launch := l, ctx := x.ctx, block := b, row := row, grade := g, cause := old.cause, sregs := sregs, exec := BitVec.allOnes 64
    pcHdr := BitVec.ofNat 64 (kb + peekVirt s x.ctx (kb + peekVirt s x.ctx (kb + 0x18) 4) 4), dict := dict, nextId := old.nextId
    msgs := old.msgs }

/-- Whether a scarab can start a wave. -/
def scarabFree (s : State) (k : Nat) : Bool :=
  let y := scarabAt s k
  (y.state == .idle || y.state == .stopped || y.state == .saved) && y.pend.isEmpty && s.sys.chans.look .on k == .on

/-- The next block of a grid for channel `c` of a stack: the lowest not started there. -/
def nextRow (x : Launch) (stack c : Nat) : Option (Nat × Nat × Nat × Grade) :=
  x.rowBlocks.find? (fun r => r.2.1 == stack && !x.scStarted.contains (r.1, c))

/-- A block has started on a channel; one that has started on all sixteen is no longer to start. -/
def Launch.rowStarted (x : Launch) (r : Nat × Nat × Nat × Grade) (c : Nat) : Launch :=
  let done := x.scStarted ++ [(r.1, c)]
  if (List.range 16).all (fun i => done.contains (r.1, i))
  then { x with scStarted := done.filter (fun p => p.1 != r.1), rowBlocks := x.rowBlocks.erase r }
  else { x with scStarted := done }

/-- A free scarab of a stack starts the wave of its next block of a grid. -/
def startRow (l stack : Nat) (dict : Tab (Option (BitVec 128))) (s : State) (c : Nat) : State :=
  match launchAt s l with
  | none => s
  | some x => match nextRow x stack c with
    | none => s
    | some r =>
      let k := stack * 16 + c
      if !scarabFree s k then s
      else setScarab (freshSight (setLaunch s l (x.rowStarted r c)) (agScarab k)) k (scarabWave s l x (scarabAt s k) dict r.1 stack r.2.2.1 r.2.2.2 c)

/-- Every free scarab of a stack starts its wave of the next block of a grid that has not run there: blocks run one at a time on each
scarab, in ascending order. -/
def execScarabBlockStart (l stack : Nat) (s : State) : Res :=
  match launchAt s l with
  | none => .next s
  | some x =>
    if x.state != .posted || x.status != 0 || s.sys.stacksLost.contains stack then .next s
    else match loadScarabDict s l x with
      | (s, none) => .next s
      | (s, some d) => .next ((List.range 16).foldl (startRow l stack (d.look [] stack)) s)

/-- The scarabs of a faulted or cancelled launch that stand at a clause boundary stop. -/
def execScarabFaultStop (l : Nat) (s : State) : Res :=
  .next ((List.range 256).foldl (fun s k =>
    let x := scarabAt s k
    if x.launch == l && x.stopping && x.bound && (x.clause.isNone || x.clause.any (fun c => c.pos == 0)) then stopAtBoundary s k else s) s)

end Sys2Proof.Machine
end

