-- ==== Sys2Proof/Machine/SysOps.lean ====
section
/-! DEFINITION. The system words: special registers, return from a trap, records, breakpoints and halts, translation
invalidation, wave records (13 R303, 18 R408, R412 to R415, R420, R421). -/

namespace Sys2Proof.Machine

/-! ## srd and swr (R412) -/

/-- Bits `[64w, 64w + 64)` of PHASE: the phases of the block's barriers. -/
def phaseWord (s : State) (w : Wave) (i : Nat) : Nat :=
  match blockAt s w.block with
  | none => 0
  | some b => ofBits (fun n => (s.bars.look none (barKey w.block b (64 * i + n))).any (fun x => x.phase)) 64

def Wave.wbase (w : Wave) : Nat := (w.bud / 8 - 1) * 2 ^ 24 + w.rlo * 2 ^ 12 + w.base

/-- What `srd` reads of a special register other than LK. -/
def specialRead (s : State) (w : Wave) (r i : Nat) : Nat :=
  match r with
  | 0x40 => w.pcValue.toNat
  | 0x41 => w.wbase
  | 0x42 => w.dsel
  | 0x44 => w.pquant.toNat
  | 0x45 => w.pidx
  | 0x46 => w.cbm.toNat / 2 ^ (64 * i) % 2 ^ 64
  | 0x47 => w.tvec.toNat
  | 0x48 => w.tcause.toNat
  | 0x49 => w.tprov.toNat
  | 0x4A => phaseWord s w i
  | _ => w.spillBase.toNat

/-- LK of the thread in a lane, kept by its home wave. -/
def linkOf (s : State) (k : Nat) (w : Wave) (l : Nat) : Nat :=
  match (laneHome k w l).bind (fun h => if h = k then some w else waveAt s h) with
  | some h => ((h.lk.toList[l]?).getD 0).toNat
  | none => 0

def setLinks (v : Vector DWord 32) (vals : List (Nat × Nat)) : Vector DWord 32 :=
  Vector.ofFn (fun i => match vals.find? (fun p => p.1 == i.val) with
    | some p => BitVec.ofNat 64 p.2
    | none => v[i])

def execSrd (t : TOp) (s : State) : Res :=
  opDo 0x340 t s (fun s k w =>
    let v := waveView s k w
    let r := opndIx t.a
    if r = 0x43 then .done (applyOut s k { vecs := vecOut 64 (opndIx t.d) (v.active.map (fun l => (l, linkOf s k w l))) tagE })
    else .done (applyOut s k { scas := [(opndIx t.d, specialRead s w r t.opmod.toNat)] }))

def execSwr (t : TOp) (s : State) : Res :=
  opDo 0x341 t s (fun s k w =>
    let v := waveView s k w
    let x := srcBits v t .b64 t.b v.once
    match opndIx t.a with
    | 0x43 =>
      let vals := v.active.map (fun l => (l, srcBits v t .b64 t.b l))
      .done ((homeKeys s k w).foldl (fun s h => modWave s h (fun y =>
        { y with lk := setLinks y.lk (vals.filter (fun p => laneHome k w p.1 == some h)) })) s)
    | 0x44 => .done (setWave s k { w with pquant := BitVec.ofNat 16 x })
    | 0x46 => .done (setWave s k { w with cbm := w.cbm &&& ~~~ (BitVec.ofNat 512 (x * 2 ^ (64 * t.opmod.toNat))) })
    | 0x47 => .done (setWave s k { w with tvec := BitVec.ofNat 64 (x / 4 * 4) })
    | _ => .done s)

/-! ## eret (R408) -/

/-- The lowest cause held in CBM. -/
def lowestHeld (c : BitVec 512) : Nat := ((List.range 512).find? (fun i => bitOf c i)).getD 0

/-- Resume past the word that an entry names: the next position, the next boundary after a clause's last word, or past a whole
clause. The words passed over count as issued (02 R40). -/
def skipWord (s : State) (k : Nat) (w : Wave) (a : DWord) (p : Nat) : State :=
  match fetchWord s k (ctxOf s w) a.toNat 9100 with
  | (s, none) => modWave s k (fun w => w.resume a p)
  | (s, some h) =>
    let next := a + BitVec.ofNat 64 (4 * (hdrCount h + 1))
    if p = 0 then modWave s k (fun w => w.resume next 0)
    else if hdrCount h ≤ p then modWave s k (fun w => { w.resume next 0 with flagOpen := closeFlags w.flagOpen h })
    else modWave s k (fun w => w.resume a (p + 1))

/-- The return: a held cause enters the handler again, else the interrupted wave goes on, past the word with `.skip`. -/
def eretDo (skip : Bool) (k : Nat) (s : State) : Except Trapped State :=
  match waveAt s k with
  | none => .ok s
  | some w => match w.stack with
    | .trap a p _ m :: r =>
      if w.cbm != 0 then
        let c := lowestHeld w.cbm
        .ok (setWave s k { w.goto w.tvec with
          stack := .trap a p c m :: r
          cbm := w.cbm &&& ~~~ (BitVec.ofNat 512 (2 ^ c))
          tcause := tcauseWord c 0 1 0
          trec0 := 0
          trec1 := 0
          exec := w.liveLanes })
      else
        let w := { w with stack := r, spilled := min w.spilled r.length }
        let w := { w with exec := m &&& liveMask w r, pidx := if skip then 0 else w.trec2.toNat }
        let head := w.inj.head?.any (fun i => p = 0 && bitOf w.tprov 63 && i.prov == w.tprov)
        if !skip then .ok (setWave s k (w.resume a p))
        else if head then .ok (setWave s k { w.resume a p with inj := w.inj.drop 1
                                                               flagOpen := match w.inj with
          | i :: _ => if i.started then closeFlags w.flagOpen i.hdr else w.flagOpen
          | [] => w.flagOpen })
        else .ok (skipWord (setWave s k w) k w a p)
    | _ => .ok s

def eretEff (skip : Bool) (s : State) (k : Nat) (_w : Wave) : Eff :=
  match needTop s k with
  | .error e => .trap e
  | .ok s => match (waveAt s k).bind (fun w => w.stack.head?) with
    | some (.trap _ _ _ _) => .after s (eretDo skip k)
    | _ => .trap { cause := 0x1C0 }

def execEret (t : TOp) (s : State) : Res := opDo 0x342 t s (eretEff false)
def execEretSkip (t : TOp) (s : State) : Res := opDo 0x342 t s (eretEff true)

/-! ## erd (R413, 20 R459, R460) -/

/-- STATUS of an error record. -/
def ErrRec.status (r : ErrRec) : Nat :=
  2 ^ 63 + r.sev * 2 ^ 61 + r.addr.isSome.toNat * 2 ^ 60 + r.ovf.toNat * 2 ^ 59 + r.unit * 2 ^ 48 + r.unitIx * 2 ^ 32 + r.ctx * 2 ^ 16 + r.code

/-- A word of an error record. -/
def ErrRec.word (r : ErrRec) : Nat → Nat
  | 0 => r.status
  | 1 => r.addr.getD 0
  | 2 => r.synd.toNat
  | _ => r.die * 2 ^ 56 + r.at_ % 2 ^ 56

/-- Word `i` of a core's bank as a context sees it. -/
def bankView (s : State) (core ctx i : Nat) : Nat :=
  match (s.banks.look [] core).find? (fun r => r.slot == i / 4) with
  | some r => if r.ctx = ctx then r.word (i % 4) else 0
  | none => 0

def execErd (t : TOp) (s : State) : Res :=
  opDo 0x345 t s (fun s k w =>
    let put := fun x => Eff.done (applyOut s k { scas := [(opndIx t.d, x)] })
    let i := waveSca w t t.a
    if i = 0 then put w.trec0.toNat
    else if i = 1 then put w.trec1.toNat
    else if i = 2 then put w.trec2.toNat
    else if 0x1000 ≤ i && i ≤ 0x1FFF then put (bankView s (coreOf k) (ctxOf s w) (i - 0x1000))
    else .trap { cause := 0x1C2 })

/-! ## brk and hlt (R414, R415) -/

def execBrk (t : TOp) (s : State) : Res :=
  opDo 0x343 t s (fun s k w =>
    let code := t.imm.toNat % 2 ^ 16
    let armed := s.sys.dbg = 2 && (blockAt s w.block).any (fun b => s.sys.armed.contains b.launch)
    if armed then .after s (fun s => .ok (modWave s k (fun x => { x with hold := .brk code w.prov })))
    else .trap { cause := 0x1C1, detail := code, next := true })

/-- Every lane of a wave, or of a compacted wave, exits. -/
def exitAll (s : State) (k : Nat) : Except Trapped State :=
  match waveAt s k with
  | none => .ok s
  | some w =>
    let s := exitLanes s k w.liveLanes
    match w.comp with
    | none => .ok (modWave s k Wave.endAll)
    | some _ => cwaveEnded (endPath 300) (modWave s k dropAboveCpath) k

def execHlt (t : TOp) (s : State) : Res :=
  opDo 0x348 t s (fun s k w =>
    if s.sys.dbg = 2 then
      .after s (fun s => .ok (modBlock (modWave s k (fun w => { w with hold := .halted })) w.block (fun b => { b with halted := true })))
    else .after (blockError s w.block 3 w.pcValue 0 w.prov) (fun s => exitAll s k))

/-- Whether a code is one that a wave's CBM has a bit for: defined, and not a cox's (R409, R410). -/
def causeDefined (c : Nat) : Bool :=
  [(0x001, 0x008), (0x041, 0x048), (0x080, 0x08D), (0x0C1, 0x0C3), (0x100, 0x105), (0x110, 0x115), (0x140, 0x143), (0x150, 0x156),
    (0x160, 0x167), (0x1C0, 0x1C4)].any (fun r => r.1 ≤ c && c ≤ r.2)

/-- The stack entry that 128 bits stand for, a PATH whose lanes are those that run being the running one (06 R125); none for a reserved
kind. -/
def Entry.ofCode (x : Word) (v : BitVec 128) : Option Entry :=
  let m : Word := BitVec.ofNat 32 (fieldOf v 9 32)
  let addr := fun n => BitVec.ofNat 64 (4 * fieldOf v n 54)
  match fieldOf v 0 4 with
  | 1 => some (.reconv (if bitOf v 127 then some (addr 73) else none) (BitVec.ofNat 32 (fieldOf v 41 32)) m)
  | 2 => some (.path (addr 73) (fieldOf v 69 4) m (m == x))
  | 3 => some (.frame (fieldOf v 41 5) m)
  | 4 => some (.trap (addr 54) (fieldOf v 50 4) (fieldOf v 41 9) m)
  | 5 => some (.cpath (addr 73) (fieldOf v 69 4) (fieldOf v 42 5) (bitOf v 41) m)
  | _ => none

/-- One write of the debugger to a stopped wave; a lane's write leaves its register's tag, which has a write of its own (R414). -/
def debugWrite (k : Nat) (s : State) : DebugWrite → State
  | .vector i l v => writeVecAt s k { reg := i, vals := [(l, v.toNat)], tag := tagE, keep := true }
  | .tag i t => modWave s k (fun w => { w with vtags := w.vtags.put 0 (w.phys i) t })
  | .scalar i v => writeScaAt s k i v.toNat
  | .mask i v => writeMaskAt s k i v.toNat
  | .link l v => modWave s k (fun w => { w with lk := setLinks w.lk [(l, v.toNat)] })
  | .pc v => modWave s k (fun w => w.goto (v >>> 2 <<< 2))
  | .pquant v => modWave s k (fun w => { w with pquant := v })
  | .pidx v => modWave s k (fun w => { w with pidx := v })
  | .cbm v => modWave s k (fun w => { w with cbm := v &&& BitVec.ofNat 512 (ofBits causeDefined 512) })
  | .tvec v => modWave s k (fun w => { w with tvec := v >>> 2 <<< 2 })
  | .dsel v => modWave (selectSlot s k v.toNat) k (fun w => { w with hold := ((waveAt s k).getD w).hold })
  | .wbase v => modWave s k (fun w => { w with base := fieldOf v 0 12, rlo := fieldOf v 12 12 })
  | .tcause v => modWave s k (fun w => { w with tcause := v &&& 0xFFFF3FFF })
  | .tprov v => modWave s k (fun w => { w with tprov := v })
  | .trec i v => modWave s k (fun w => if i = 0 then { w with trec0 := v } else if i = 1 then { w with trec1 := v } else { w with trec2 := v })
  | .spillBase v => modWave s k (fun w => { w with spillBase := v >>> 12 <<< 12 })
  | .flag f n => modWave s k (fun w => if f < 12 then { w with flagCnt := w.flagCnt.put 0 f (min n 63) } else w)
  | .stack l => modWave s k (fun w => { w with stack := (l.filterMap (Entry.ofCode w.exec)).take 128, spilled := 0 })

/-- The debugger lets a wave stopped by `brk` go on, with what it wrote of its state, or the block of one stopped by `hlt`. -/
def execDebuggerRelease (k : DebugGo) (s : State) : Res :=
  if s.sys.anchorLost then .next s else
  match waveAt s k.wave with
  | none => .next s
  | some w => match w.hold with
    | .brk _ _ => .next (k.writes.foldl (debugWrite k.wave) (setWave s k.wave { w with hold := .no }))
    | .halted =>
      let s := modBlock s w.block (fun b => { b with halted := false })
      .next ((wavesOf s w.block).foldl (fun s p => if p.2.hold == .halted then setWave s p.1 { p.2 with hold := .no } else s) s)
    | _ => .next s

/-- The debugger arms the breakpoints of a launch, under halt-and-inspect, or disarms them. -/
def execBreakpointArm (l : Nat) (on : Bool) (s : State) : Res :=
  if s.sys.anchorLost then .next s else
  let rest := s.sys.armed.filter (fun x => x != l)
  if !on then .next { s with sys := { s.sys with armed := rest } }
  else if s.sys.dbg = 2 then .next { s with sys := { s.sys with armed := l :: rest } }
  else .next s

/-! ## tlbi (13 R303) -/

/-- Whether a translation belongs to a set of `n` pages from page `p` of a context; none stands for every page. -/
def tlbiHits (ctx : Nat) (set : Option (Nat × Nat)) (e : TlbEntry) : Bool :=
  e.ctx == ctx && (match set with
    | none => true
    | some (p, n) => n != 0 && decide (e.vpage < p + n) && decide (p < e.vpage + e.pages))

def tlbiDrop (s : State) (ctx : Nat) (set : Option (Nat × Nat)) : State :=
  { s with cores := s.cores.map (fun p => (p.1, { p.2 with tlb := p.2.tlb.filter (fun e => !tlbiHits ctx set e) }))
           dies := s.dies.map (fun p => (p.1, { p.2 with tlb := p.2.tlb.filter (fun e => !tlbiHits ctx set e) })) }

/-- An operation with accesses translated and still in flight: to memory, or packets to other packages. -/
def Pend.inFlight (p : Pend) : Bool :=
  !(partAddrs (workParts p.work).1).isEmpty || (match p.work with
    | .packets l => !l.isEmpty
    | _ => false)

/-- Whether accesses of a context are outstanding: every one that used an entry a nonempty set removes is among them, whatever has been
put in the entry's place since. -/
def tlbiBusy (s : State) (ctx : Nat) (set : Option (Nat × Nat)) : Bool :=
  set.all (fun p => p.2 != 0) &&
  (s.waves.any (fun q => q.2.any (fun w => ctxOf s w == ctx && w.pend.any Pend.inFlight)) ||
   s.coxes.any (fun q => q.2.ctx == some ctx && q.2.sbuf.any Pend.inFlight))

/-- Wait for the wave's earlier stores, then remove the entries, once every access that used one has completed. -/
def tlbiEff (set : Nat → Nat → Option (Nat × Nat)) (kindCtx : Bool) (t : TOp) (s : State) (_k : Nat) (w : Wave) : Eff :=
  let a := waveSca w t t.a
  if !kindCtx && 2 ^ 56 ≤ a then .trap { cause := 0x081, addr := a }
  else
    let ctx := ctxOf s w
    let set := set a (waveSca w t t.b)
    if fenceBusy w.pend 2 4 || tlbiBusy s ctx set then .hold s
    else .done (tlbiDrop s ctx set)

def execTlbiCtx (t : TOp) (s : State) : Res := opDo 0x344 t s (tlbiEff (fun _ _ => none) true t)
def execTlbiPage (t : TOp) (s : State) : Res := opDo 0x344 t s (tlbiEff (fun a _ => some (a / 65536, 1)) false t)
def execTlbiRange (t : TOp) (s : State) : Res :=
  opDo 0x344 t s (tlbiEff (fun a b => if 2 ^ 32 ≤ b then none else some (a / 65536, b)) false t)

/-! ## Wave records (R420, R421) -/

/-- Fields of a wave record: offset, bytes, value. -/
def waveRecord (w : Wave) : List (Nat × Nat × Nat) :=
  let bits := fun (f : Nat → Bool) (n : Nat) => ofBits f n
  [ (0x18, 8, w.wbase + w.dsel * 2 ^ 32), (0x10, 8, w.pcValue.toNat), (0x20, 8, w.pquant.toNat + w.pidx * 2 ^ 32), (0x28, 8, w.tvec.toNat)
  , (0x30, 8, w.tcause.toNat + w.count % 2 ^ 32 * 2 ^ 32), (0x38, 8, w.tprov.toNat), (0x40, 8, w.spillBase.toNat)
  , (0x48, 8, w.trec0.toNat), (0x50, 8, w.trec1.toNat), (0x58, 8, w.trec2.toNat), (0x60, 4, w.exec.toNat)
  , (0x80, 64, w.cbm.toNat)
  , (0xCC, 4, bits (fun f => w.flagPending f) 12 + (w.clause.elim 0 (fun c => c.pos)) % 16 * 2 ^ 12)
  , (0xD0, 4, w.clause.elim 0 (fun c => c.hdr.toNat))
  , (0x400, 8, w.region.length % 16 + w.regionOvf.toNat * 16) ]
  ++ (List.range 7).map (fun i => (0x64 + 4 * i, 4, (w.mregs.look 0 (i + 1)).toNat))
  ++ (List.range 12).map (fun f => (0xC0 + f, 1, w.flagCnt.look 0 f % 256))
  ++ (List.range 32).map (fun l => (0x100 + 8 * l, 8, ((w.lk.toList[l]?).getD 0).toNat))
  ++ (List.range 64).map (fun n => (0x200 + 8 * n, 8, (w.sregs.look 0 n).toNat))
  ++ ((List.range w.region.length).zip w.region).flatMap (fun p =>
    let o := 0x408 + 520 * p.1
    let e := p.2
    (o, 8, e.store.toNat + Nat.log2 e.size * 2 + opndIx e.dst * 8 + e.exec.toNat * 2 ^ 32)
    :: ((List.range 32).map (fun l => (o + 8 + 8 * l, 8, ((e.addrs.toList[l]?).getD 0).toNat))
      ++ (List.range 32).map (fun l => (o + 264 + 8 * l, 8, ((e.data.toList[l]?).getD 0).toNat))))

/-- The 8,192 bytes of a wave record. -/
def recordBytes (s : State) (w : Wave) : List Byte :=
  let body := (waveRecord w).foldl (fun x f => x + f.2.2 * 256 ^ f.1) 0
  let crc := crc32c ((numBytes 0x2000 body).drop 0x10)
  let head := 0x7AB05752 + ((ctxOf s w) % 65536 + w.num * 2 ^ 16 + (w.bud / 8 - 1) * 2 ^ 21) * 2 ^ 32 + 2 ^ 64 + crc * 2 ^ 96
  (numBytes 0x2000 (body + head)).map (BitVec.ofNat 8)

/-- The bytes that a record word names, after the checks both have; none outside handler mode. -/
def recordLocs (t : TOp) (write : Bool) (s : State) (k : Nat) (w : Wave) : State × Except Trapped (List Loc) :=
  if !w.inHandler then (s, .error { cause := 0x1C0 })
  else match checkLanes s k w { space := 1, size := 0x2000, align := 0x2000, read := !write, write := write }
      [((waveView s k w).once, waveSca w t t.a)] with
    | (s, .error e) => (s, .error e)
    | (s, .ok ls) => (s, .ok (ls.flatMap (·.2)))

/-- Whether outstanding operations of a wave still write its registers or touch some bytes. -/
def recordBusy (s : State) (k : Nat) (w : Wave) (ls : List Loc) : Bool :=
  let parts : List Part := [{ lane := 0, locs := ls, data := 0 }]
  w.pend.any (fun p => !p.dst.isEmpty) || olderConflict s w.pend w.nextId parts || portBlocked s k 0 parts

def residentRegs (w : Wave) : List Nat := (List.range w.bud).map (fun i => w.base + i)

/-- The first scalar or mask register whose parity fails. -/
def scalarParity (w : Wave) : Option RegRef :=
  ((List.range 64).map RegRef.s ++ (List.range 8).map RegRef.m).find? w.parityBad

def execCtxs (t : TOp) (s : State) : Res :=
  opDo 0x346 t s (fun s k w =>
    match recordLocs t true s k w with
    | (_, .error e) => .trap e
    | (s, .ok ls) =>
      if recordBusy s k w ls then .hold s
      else if let some r := scalarParity w then .trap { cause := 0x0C3, detail := regDetail w r }
      else match needSnoop s (partAddrs [{ lane := 0, locs := ls, data := 0 }]), each (fun s n => spillReg s k n) s (residentRegs w) with
        | some s, _ => .hold s
        | none, .error e => .trap e
        | none, .ok s =>
          .done (escape (storeBytes s (agWave k) (coreOf k) (ctxOf s w) { rels := (sightOf s (agWave k)).marks } [ls.zip (recordBytes s w)]) w.block))

/-- Whether a record is a valid one of this wave. -/
def recordFits (s : State) (w : Wave) (b : List Byte) : Bool :=
  natAt b 0 4 == 0x7AB05752 && natAt b 8 1 == 1 && natAt b 12 4 == crc32c ((b.drop 0x10).map (·.toNat)) &&
  natAt b 4 4 % 2 ^ 26 == ctxOf s w % 65536 + w.num * 2 ^ 16 + (w.bud / 8 - 1) * 2 ^ 21

/-- The registers a program's `ctxr` takes from a record. -/
def Wave.fromRecord (w : Wave) (b : List Byte) : Wave :=
  let w := (List.range 64).foldl (fun w n => w.writeSca n (BitVec.ofNat 64 (natAt b (0x200 + 8 * n) 8))) w
  let w := (List.range 7).foldl (fun w i => w.writeMask (i + 1) (BitVec.ofNat 32 (natAt b (0x64 + 4 * i) 4))) w
  { w with lk := Vector.ofFn (fun l => BitVec.ofNat 64 (natAt b (0x100 + 8 * l.val) 8))
           pquant := BitVec.ofNat 16 (natAt b 0x20 2)
           tvec := BitVec.ofNat 64 (natAt b 0x28 8 / 4 * 4) }

def execCtxr (t : TOp) (s : State) : Res :=
  opDo 0x347 t s (fun s k w =>
    match recordLocs t false s k w with
    | (_, .error e) => .trap e
    | (s, .ok ls) =>
      if recordBusy s k w ls then .hold s
      else match homeLoad s (agWave k) ls 50000 with
        | (_, _, true) => .trap { cause := 0x086 }
        | (s, b, false) =>
          if !recordFits s w b then .trap { cause := 0x1C3 }
          else match each (fun s n => refillReg s k n) (setWave s k (w.fromRecord b)) (residentRegs w) with
            | .error e => .trap e
            | .ok s => .done s)

end Sys2Proof.Machine
end

