-- ==== Sys2Proof/Machine/TileOps.lean ====
section
/-! DEFINITION. Tile tasks: format blocks, operand layouts, the engine's arithmetic, the queue's order and a task's write-out
(10 R212 to R240). -/

namespace Sys2Proof.Machine

/-! ## The format block (R218) -/

def fbCtl (fb : BitVec 512) (lo n : Nat) : Nat := fieldOf fb lo n
def fbAt (fb : BitVec 512) (off bytes : Nat) : Nat := fieldOf fb (8 * off) (8 * bytes)
def fbS (fb : BitVec 512) (off : Nat) : Int := toSigned 32 (fbAt fb off 4)

def fbFa (fb : BitVec 512) : Option Fmt := fmtOf (fbCtl fb 0 6)
def fbFb (fb : BitVec 512) : Option Fmt := fmtOf (fbCtl fb 6 6)
def fbOutf (fb : BitVec 512) : Option Fmt := fmtOf (fbCtl fb 30 6)
def fbSparse (fb : BitVec 512) : Nat := fbCtl fb 17 2
def fbRows (fb : BitVec 512) : Nat := fbCtl fb 40 6 + 1
def fbCols (fb : BitVec 512) : Nat := fbCtl fb 46 6 + 1
def fbOutBase (fb : BitVec 512) : Nat := fbAt fb 0x28 8
def fbCnt (fb : BitVec 512) : Nat := fbAt fb 0x30 8

/-- Operand classes (R219). -/
inductive TileClass where
  | h | n | i | d
  deriving DecidableEq, Repr

def classOf : Fmt → Option TileClass
  | .f16 | .bf16 => some .h
  | .e4m3 | .e5m2 | .e3m2 | .e2m3 | .e2m1 | .lc16 => some .n
  | .i8 => some .i
  | .f64 => some .d
  | _ => none

/-- The class both operands share. -/
def fbClass (fb : BitVec 512) : Option TileClass :=
  match (fbFa fb).bind classOf, (fbFb fb).bind classOf with
  | some a, some b => if a = b then some a else none
  | _, _ => none

def TileClass.acc : TileClass → AccFmt
  | .i => .i32
  | .d => .f64
  | _ => .f32

/-- Bits of an operand element; an LC16 code's 16 bits hold eight. -/
def tileBits (f : Fmt) : Nat := if f = .lc16 then 2 else elemBits f

/-- Bytes of a stored row of `k` elements. -/
def rowBytes (f : Fmt) (k : Nat) : Nat := k * tileBits f / 8

def outSize (f : Fmt) : Nat := elemBits f / 8

/-- Length of a group along k (R219). -/
def groupLen (fb : BitVec 512) : Nat :=
  match fbClass fb with
  | some .d => 4
  | some .n => if (fbCtl fb 12 2 != 0 || fbCtl fb 14 2 != 0) && bitOf fb 16 then 16 else 32
  | _ => 32

/-- Length of a scaling block (R218 BLK). -/
def blockLen (fb : BitVec 512) : Nat := if bitOf fb 16 then 16 else 32

/-- The checks of R220 on a block that has been read, in order; 0 where it passes. -/
def blockReason (c : Context) (fb : BitVec 512) : Nat :=
  let sca := fbCtl fb 12 2
  let scb := fbCtl fb 14 2
  let sp := fbSparse fb
  let lc := fun (f : Option Fmt) (s : Nat) => f == some .lc16 && (s == 0 || bitOf fb 16)
  let omode := fbCtl fb 36 3
  let addrBad := fun a => a % 8 != 0 || inWindow c a
  let strideBad := fun x => x == 0 || x % 8 != 0
  if fbAt fb 0x3C 4 != 0 || fbCtl fb 52 12 != 0 then 2
  else match fbClass fb with
    | none => 3
    | some cls =>
      if sca == 3 || scb == 3 || (cls != .n && (sca != 0 || scb != 0)) || lc (fbFa fb) sca || lc (fbFb fb) scb ||
          (sca != 0 && fbAt fb 0x24 2 == 0) || (scb != 0 && fbAt fb 0x26 2 == 0) then 4
      else if sp == 3 || (cls == .d && sp != 0) || (fbFa fb == some .lc16 && sp == 1) || ((fbAt fb 0x38 4 != 0) != (sp == 1)) then 5
      else if !(match cls with
          | .i => fbOutf fb == some .i32
          | .d => fbOutf fb == some .f64
          | _ => [some Fmt.f32, some .f16, some .bf16, some .e4m3, some .e5m2].contains (fbOutf fb)) || 5 ≤ omode ||
          ((cls == .i || cls == .d) && (omode != 0 || bitOf fb 39)) then 6
      else if fbCtl fb 19 3 == 0 || fbCtl fb 19 3 == 7 then 7
      else if strideBad (fbAt fb 8 4) || strideBad (fbAt fb 0xC 4) || strideBad (fbAt fb 0x10 4) || addrBad (fbOutBase fb) || addrBad (fbCnt fb) then 8
      else if cls == .d && 32 < fbRows fb then 9
      else 0

/-! ## Scratchpad ranges of a task (R217, R221, R237) -/

/-- A range of scratchpad bytes: block, offset, length. -/
structure SRange where
  blk : Nat
  off : Int
  len : Nat
  deriving DecidableEq, Repr

/-- Whether a range lies in its block's allocation. -/
def SRange.ok (s : State) (r : SRange) : Bool := match blockAt s r.blk with
  | some b => decide (0 ≤ r.off) && spadHas b r.off.toNat r.len
  | none => false

def SRange.meets (a b : SRange) : Bool :=
  a.blk == b.blk && decide (a.off < b.off + b.len) && decide (b.off < a.off + a.len)

/-- Whether a scratchpad word of a range has an uncorrected error (20 R456). -/
def SRange.poisoned (s : State) (r : SRange) : Bool := match blockAt s r.blk with
  | some b => b.poison.any (fun p => p.2 && decide (r.off / 4 ≤ (p.1 : Int)) && decide ((p.1 : Int) * 4 < r.off + r.len))
  | none => false

/-- A byte of an operand. -/
def tileByte (s : State) (t : TileAddr) (o : Int) : Nat := match blockAt s t.blk with
  | some b => (b.spad.look 0 ((t.off : Int) + o).toNat).toNat
  | none => 0

/-- Bit `k` of a bitmap, and the kept elements below it. -/
def keepBit (s : State) (t : TileAddr) (o : Int) (k : Nat) : Bool := natBit (tileByte s t (o + (k / 8 : Nat))) (k % 8)
def keepBelow (s : State) (t : TileAddr) (o : Int) (k : Nat) : Nat := ((List.range k).filter (keepBit s t o)).length

/-- Bytes of a row of `n` kept elements; LC16 keeps whole codes. -/
def keptBytes (f : Fmt) (n : Nat) : Nat := if f = .lc16 then 2 * ((n + 7) / 8) else (n * elemBits f + 7) / 8

/-- Bytes of a stored row of A (R221): dense, the kept half of a structured one, the kept elements of a bitmap one. -/
def storedA (s : State) (fb : BitVec 512) (a : TileAddr) (k : Nat) : Nat :=
  let f := (fbFa fb).getD .none
  match fbSparse fb with
  | 1 => rowBytes f (k / 2)
  | 2 => keptBytes f (keepBelow s a (fbS fb 0x1C) k)
  | _ => rowBytes f k

/-- Bytes of a stored row of B. -/
def storedB (s : State) (fb : BitVec 512) (b : TileAddr) (k : Nat) : Nat :=
  let f := (fbFb fb).getD .none
  if fbSparse fb = 2 then keptBytes f (keepBelow s b (fbS fb 0x20) k) else rowBytes f k

/-- The ranges of values, scales and metadata a task reads. -/
def taskReads (s : State) (fb : BitVec 512) (a b : TileAddr) (kb nt : Nat) : List SRange :=
  let k := 32 * kb
  let at_ := fun (t : TileAddr) (d : Int) (n : Nat) => SRange.mk t.blk ((t.off : Int) + d) n
  let rowsA := List.range (fbRows fb)
  let rowsB := (List.range nt).flatMap (fun t => (List.range (fbCols fb)).map (fun j => 64 * t + j))
  let sp := fbSparse fb
  let la := storedA s fb a k
  let lb := storedB s fb b k
  rowsA.map (fun (i : Nat) => at_ a (i * fbAt fb 8 4 : Nat) la) ++
  rowsB.map (fun (i : Nat) => at_ b (i * fbAt fb 0xC 4 : Nat) lb) ++
  (if fbCtl fb 12 2 = 0 then [] else rowsA.map (fun (i : Nat) => at_ a (fbS fb 0x14 + (i * fbAt fb 0x24 2 : Nat)) (k / blockLen fb))) ++
  (if fbCtl fb 14 2 = 0 then [] else rowsB.map (fun (i : Nat) => at_ b (fbS fb 0x18 + (i * fbAt fb 0x26 2 : Nat)) (k / blockLen fb))) ++
  (if sp = 1 then rowsA.map (fun (i : Nat) => at_ a (fbS fb 0x1C + (i * fbAt fb 0x38 4 : Nat)) (k / 8))
   else if sp = 2 then [at_ a (fbS fb 0x1C) (k / 8), at_ b (fbS fb 0x20) (k / 8)] else [])

/-- Rounded up to a multiple of 64. -/
def up64 (n : Nat) : Nat := (n + 63) / 64 * 64

/-- Bytes `tcmp` and `tbmp` write: values and metadata (R231, R232). -/
def tcmpSize (f : Fmt) (k rows : Nat) : Nat := up64 (rowBytes f (k / 2) * rows) + k / 8 * rows
def tbmpSize (f : Fmt) (k rows : Nat) : Nat := up64 (k / 8) + rows * rowBytes f k

def TileWork.reads (s : State) : TileWork → List SRange
  | .tmma fb a b kb _ _ nt _ _ _ => taskReads s fb a b kb nt
  | .tcmp src _ kb rows f _ | .tbmp src _ kb rows f _ => [⟨src.blk, src.off, rows * rowBytes f (32 * kb)⟩]
  | .tmc src _ n _ => [⟨src.blk, src.off, n⟩]
  | _ => []

/-- Whether a byte an operation reads has an uncorrected error (R240). -/
def TileWork.poisoned (s : State) (x : TileWork) : Bool := (x.reads s).any (SRange.poisoned s)

def TileWork.writes : TileWork → List SRange
  | .tcmp _ dst kb rows f _ => [⟨dst.blk, dst.off, tcmpSize f (32 * kb) rows⟩]
  | .tbmp _ dst kb rows f _ => [⟨dst.blk, dst.off, tbmpSize f (32 * kb) rows⟩]
  | .tmc _ off n dsts => dsts.map (fun b => ⟨b, off, n⟩)
  | _ => []

/-- Whether a record `y` conflicts with an earlier one `x` (R237). -/
def tileConflict (s : State) (x y : TileWork) : Bool :=
  x.buffers.any (fun b => y.buffers.contains b) ||
  (match x, y with
    | .tfmt n _, .tfmt m _ => n == m
    | .tmma _ _ _ _ _ _ _ fr _ _, .tfmt m _ => fr == m
    | _, _ => false) ||
  x.writes.any (fun r => (y.reads s ++ y.writes).any (fun q => r.meets q)) ||
  (x.reads s).any (fun r => y.writes.any (fun q => r.meets q))

/-- The unit that runs a record (R216): an engine, the buffer port or the cluster port, with how many run at once. -/
def TileWork.unit : TileWork → Nat
  | .tmma _ _ _ _ _ _ _ _ _ _ | .tcmp _ _ _ _ _ _ | .tbmp _ _ _ _ _ _ => 0
  | .tmc _ _ _ _ => 2
  | _ => 1
def unitCount (u : Nat) : Nat := if u = 0 then 4 else 1

/-- The next record to start: the oldest that is ready and whose unit is free. -/
def startable (s : State) (q : List TileRec) : Option TileRec :=
  let busy := fun u => (q.filter (fun r => r.running && r.work.unit == u)).length
  q.find? (fun r => !r.running && busy r.work.unit < unitCount r.work.unit &&
    (q.takeWhile (fun e => e.id != r.id)).all (fun e => !tileConflict s e.work r.work))

/-! ## Reading operands (R221) -/

/-- Element `p` of the row at offset `o`, `w` bits each, packed from the lowest. -/
def tileElem (s : State) (t : TileAddr) (o : Int) (w p : Nat) : Nat :=
  let lo := p * w
  let n := (lo % 8 + w + 7) / 8
  ((List.range n).foldl (fun x i => x + tileByte s t (o + (lo / 8 + i : Nat)) * 256 ^ i) 0) / 2 ^ (lo % 8) % 2 ^ w

/-- The value of element `p` of a row. -/
def tileVal (s : State) (ctx : Nat) (f : Fmt) (t : TileAddr) (o : Int) (p : Nat) : FVal :=
  if f = .lc16 then
    let c := tileElem s t o 16 (p / 8)
    lc16Elem (latticeOf s ctx (c / 256)) c (p % 8)
  else if f = .i8 then .ofInt (toSigned 8 (tileElem s t o 8 p))
  else decodeElem f (tileElem s t o (elemBits f) p)

/-- The product of A row `i` and B row `n` at k (R221, R222, R232): a structured row's dropped element is zero, and a k outside the
intersection of two bitmaps gives a zero product. -/
def tileProduct (s : State) (ctx : Nat) (fb : BitVec 512) (a b : TileAddr) (i n k : Nat) : FVal :=
  let fa := (fbFa fb).getD .none
  let fbm := (fbFb fb).getD .none
  let oa : Int := (i * fbAt fb 8 4 : Nat)
  let ob : Int := (n * fbAt fb 0xC 4 : Nat)
  match fbSparse fb with
  | 1 =>
    let nib := tileElem s a (fbS fb 0x1C + (i * fbAt fb 0x38 4 : Nat)) 4 (k / 4)
    let av := if nib % 4 = k % 4 then tileVal s ctx fa a oa (2 * (k / 4))
      else if nib / 4 = k % 4 then tileVal s ctx fa a oa (2 * (k / 4) + 1) else .zero false
    FVal.mul av (tileVal s ctx fbm b ob k)
  | 2 =>
    let ma := fbS fb 0x1C
    let mb := fbS fb 0x20
    if keepBit s a ma k && keepBit s b mb k then
      FVal.mul (tileVal s ctx fa a oa (keepBelow s a ma k)) (tileVal s ctx fbm b ob (keepBelow s b mb k))
    else .zero false
  | _ => FVal.mul (tileVal s ctx fa a oa k) (tileVal s ctx fbm b ob k)

/-- A scale byte's value; 1 where there is none. -/
def tileScale (s : State) (t : TileAddr) (kind : Nat) (o : Int) : FVal :=
  match kind with
  | 1 => decodeE8m0 (tileByte s t o)
  | 2 => decodeElem .e4m3 (tileByte s t o)
  | _ => .ofInt 1

/-! ## The engine (R228, 08 R189, R190) -/

/-- The group value G: the group sum times the block scales, rounded once into f32; an exact zero is +0. -/
def groupValue (ps : List FVal) (sa sb : FVal) : FVal :=
  let x := FVal.mul (FVal.mul (groupSum ps) sa) sb
  if x.isZero then .zero false else ofF32 (toF32 x)

/-- One group added to an accumulator element's bits. -/
def addGroup (s : State) (ctx : Nat) (fb : BitVec 512) (a b : TileAddr) (i n g : Nat) (x : Nat) : Nat :=
  let len := groupLen fb
  let ps := (List.range len).map (fun d => tileProduct s ctx fb a b i n (g * len + d))
  match fbClass fb with
  | some .i => wrapTo 32 (ps.foldl (fun (t : Int) p => t + p.unitsAt 0) (x : Int))
  | some .d => toF64 (ps.foldl (FVal.add false) (ofF64 x))
  | _ =>
    let sa := tileScale s a (fbCtl fb 12 2) (fbS fb 0x14 + (i * fbAt fb 0x24 2 + g : Nat))
    let sb := tileScale s b (fbCtl fb 14 2) (fbS fb 0x18 + (n * fbAt fb 0x26 2 + g : Nat))
    toF32 (FVal.add false (ofF32 x) (groupValue ps sa sb))

/-- The groups of tile `t` from `lo` on and below `lim` added to a buffer. -/
def runGroups (s : State) (ctx : Nat) (fb : BitVec 512) (a b : TileAddr) (t lo lim : Nat) (x : Tab DWord) : Tab DWord :=
  (List.range (fbRows fb)).foldl (fun x i => (List.range (fbCols fb)).foldl (fun x j =>
    let e := 64 * i + j
    x.put 0 e (BitVec.ofNat 64 (((List.range lim).drop lo).foldl (fun v g => addGroup s ctx fb a b i (64 * t + j) g v) (x.look 0 e).toNat))) x) x

/-- Groups of a task. -/
def groupCount (fb : BitVec 512) (kb : Nat) : Nat := 32 * kb / groupLen fb

/-- An accumulator element's exact value. -/
def accVal (f : AccFmt) (x : Nat) : FVal :=
  match f with
  | .f32 => ofF32 x
  | .i32 => .ofInt (toSigned 32 x)
  | .f64 => ofF64 x

/-- The bits written out for element (i, j) of tile `t`. -/
def outBits (fb : BitVec 512) (t i j : Nat) (x : Nat) : Nat :=
  match fbClass fb with
  | some .i | some .d => x
  | _ => (deliverTo ((fbOutf fb).getD .f32) (rmodeOf (fbCtl fb 36 3)) (bitOf fb 39)
      (ditherD i j ((fbCtl fb 22 8 + t) % 256)) (ofF32 x)).bits

/-! ## Completing records -/

def tileRec (s : State) (c id : Nat) : Option TileRec := (s.core c).tileQ.find? (fun r => r.id == id)

def setAcc (s : State) (c b : Nat) (f : Acc → Acc) : State :=
  let core := s.core c
  s.setCore c { core with accs := core.accs.put {} b (f (core.accs.look {} b)) }

/-- A record leaves the queue: its error goes to the buffers it names, or to the core's bank, and its operation completes. -/
def endTile (s : State) (c : Nat) (r : TileRec) (err : Nat) : State :=
  let core := s.core c
  let s := s.setCore c { core with tileQ := core.tileQ.filter (fun x => x.id != r.id) }
  let s := if err = 0 then s
    else if r.work.buffers.isEmpty then coreRecord s c (1 + freeNat s 9 % 3) r.ctx errEngine none
    else r.work.buffers.foldl (fun s b => setAcc s c b (fun a => { a with err := err })) s
  settleWays (endOp s r.wave r.pend none) r.blk

/-- Poison the buffers of a task's tiles from `t` on (R240). -/
def poisonFrom (s : State) (c acc nt t : Nat) : State :=
  ((List.range nt).filter (fun i => t ≤ i)).foldl (fun s i => setAcc s c (acc + i) (fun a => { a with poison := true })) s

/-- The buffer of a tile as a task starts it. -/
def startAcc (a : Acc) (accum : Bool) : Acc := if accum then a else { a with data := [], poison := false }

/-- The lines of a store that cannot complete are written as poisoned data (R240). -/
def poisonStore (s : State) (c ctx va n : Nat) : State :=
  (storeAddrs s c ctx va n).foldl (fun s a => if isPeer s a then s else { s with poison := s.poison.put false (physNorm s a / 32) true }) s

/-- The elements of an output tile. -/
def outElems (fb : BitVec 512) : List (Nat × Nat) := (List.range (fbRows fb)).flatMap (fun i => (List.range (fbCols fb)).map (fun j => (i, j)))

/-- Write the first `lim` elements of a tile out: every store that its page takes; the error of the first that fails, 0 where none
does. -/
def writeOut (s : State) (c k ctx : Nat) (fb : BitVec 512) (ooff t lim : Nat) (x : Tab DWord) : State × Nat :=
  let size := outSize ((fbOutf fb).getD .f32)
  ((outElems fb).take lim).foldl (fun (acc : State × Nat) p =>
    let va := fbOutBase fb + ooff + p.1 * fbAt fb 0x10 4 + (64 * t + p.2) * size
    match engStore acc.1 (agWave k) {} c ctx va size (outBits fb t p.1 p.2 (x.look 0 (64 * p.1 + p.2)).toNat) (64 * p.1 + p.2) with
    | .done s => (s, acc.2)
    | .refused s => (poisonStore s c ctx va size, if acc.2 = 0 then 5 else acc.2)
    | .fault s => (s, if acc.2 = 0 then 4 else acc.2)) (s, 0)

/-- The buffer of a tile as its groups from `g` on find it: as the task starts it, or as an earlier run left it (R241). -/
def groupAcc (s : State) (c buf g : Nat) (accum : Bool) : Acc :=
  let x := (s.core c).accs.look {} buf
  if g = 0 then startAcc x accum else x

/-- Run the tiles of a task from group `g` of tile `t`, `n` tiles to run; answers the first error, with the buffers of the tile in
progress and of those not yet produced poisoned (R240). -/
def runTiles (c : Nat) (r : TileRec) (fb : BitVec 512) (a b : TileAddr) (kb ooff acc : Nat) (accum wout : Bool) :
    Nat → Nat → Nat → State → State × Nat
  | 0, _, _, s => (s, 0)
  | n + 1, t, g, s =>
    let x := groupAcc s c (acc + t) g accum
    let x := { x with data := runGroups s r.ctx fb a b t g (groupCount fb kb) x.data }
    let s := setAcc s c (acc + t) (fun _ => x)
    let (s, e) := if wout then writeOut s c r.wave r.ctx fb ooff t 4096 x.data else (s, 0)
    if e = 0 then runTiles c r fb a b kb ooff acc accum wout n (t + 1) 0 s
    else (poisonFrom s c acc r.work.buffers.length t, e)

/-- A running task comes to the end of group `g` of tile `t`, the tiles before it produced. -/
def runTo (c : Nat) (r : TileRec) (fb : BitVec 512) (a b : TileAddr) (kb ooff acc : Nat) (accum wout : Bool) (t g : Nat) (s : State) : State × Nat :=
  match runTiles c r fb a b kb ooff acc accum wout (t - r.tdone) r.tdone r.gdone s with
  | (s, e) =>
    if e != 0 then (s, e)
    else
      let g0 := if t = r.tdone then r.gdone else 0
      let x := groupAcc s c (acc + t) g0 accum
      (setAcc s c (acc + t) (fun _ => { x with data := runGroups s r.ctx fb a b t g0 g x.data }), 0)

/-- The completion counter's indivisible add at its home, a release at CSCOPE (R228): error 6 where it faults. -/
def addCounter (s : State) (c k ctx : Nat) (fb : BitVec 512) : State × Nat :=
  let va := fbCnt fb
  let scope := fbCtl fb 19 3
  if va = 0 then (s, 0) else
  let s := engRelease s k scope
  match engLocs s c ctx va 8 true 900 with
  | (s, .error _) => (s, 6)
  | (s, .ok ls) => match locBytes s ls 50000 with
    | (_, true) => (s, 6)
    | (bs, false) =>
      let me := engWho s k
      match engStore s (agWave k) { rels := engRel s k scope :: carried s me scope s.clock ls, atom := some (me, scope) } c ctx va 8
          (bytesNat bs + 1) 901 with
      | .done s => (s, 0)
      | .refused s => (s, 6)
      | .fault s => (s, 6)

/-- The lines a task will store to that the host may hold. -/
def taskHeld (s : State) (c ctx : Nat) (fb : BitVec 512) (ooff nt : Nat) (wout : Bool) : List Nat :=
  let size := outSize ((fbOutf fb).getD .f32)
  let rows := if wout then (List.range (fbRows fb)).flatMap (fun i => (List.range nt).flatMap (fun t =>
    storeAddrs s c ctx (fbOutBase fb + ooff + i * fbAt fb 0x10 4 + 64 * t * size) (fbCols fb * size))) else []
  rows ++ (if fbCnt fb = 0 then [] else storeAddrs s c ctx (fbCnt fb) 8)

end Sys2Proof.Machine
end

