-- ==== Sys2Proof/Machine/Tile.lean ====
section
/-! DEFINITION. The tile words and the events of the tile queue (10 R214 to R240). -/

namespace Sys2Proof.Machine

/-! ## Issue -/

/-- A scalar or constant operand as a 64-bit integer, once for the wave (R223). -/
def scaOpnd (v : View) (t : TOp) (o : Opnd) : Nat := srcBits v t .n64 o v.once

/-- A record enters the queue with its operation. -/
def enqueueTile (t : TOp) (dst : List RegRef) (work : TileWork) (s : State) (k : Nat) (w : Wave) : Eff :=
  let c := coreOf k
  let peers := ((work.reads s ++ work.writes).map (·.blk)).eraseDups.filterMap (fun b => (blockAt s b).map (fun x => (b, x.launch, x.index)))
  let r : TileRec := { id := s.nextId, wave := k, pend := w.nextId, blk := w.block, ctx := ctxOf s w, work := work, peers := peers }
  let s := s.setCore c { s.core c with tileQ := (s.core c).tileQ ++ [r] }
  issuePend { s with nextId := s.nextId + 1 } k w t .tile dst (.engine r.id)

/-- Issue a tile word: a full queue or flag makes it wait (R215). -/
def tileIssue (g : Wave → Gate) (t : TOp) (s : State) (body : State → Nat → Wave → View → Eff) : Res :=
  waveDo s g (fun s k w =>
    if 32 ≤ (s.core (coreOf k)).tileQ.length || !flagRoom w (attOf w t) then .hold s else body s k w (waveView s k w))

def tileDo (op : Nat) (t : TOp) (s : State) (body : State → Nat → Wave → View → Eff) : Res :=
  tileIssue (opGate op t false noSees) t s body

def tileTrap (cause : Nat) : Eff := .trap { cause := cause }

def execTfmt (t : TOp) (s : State) : Res :=
  tileDo 0x1C0 t s (fun s k w v =>
    let a := scaOpnd v t t.a
    if 16 ≤ t.imm.toNat then tileTrap 0x104
    else if a % 64 != 0 then tileTrap 0x102
    else
      let n := t.imm.toNat
      let core := s.core (coreOf k)
      let s := s.setCore (coreOf k) { core with fregs := core.fregs.put {} n { core.fregs.look {} n with state := .loading, reason := 0 } }
      enqueueTile t [] (.tfmt n (BitVec.ofNat 64 a)) s k w)

/-- A tile operand address, or a placeholder that no range check accepts. -/
def tileBase (s : State) (blk a : Nat) : Option TileAddr := (tileAddr s blk a).map (fun p => { blk := p.1, off := p.2 })

/-- The shape checks of R227 step 4, A at `a` where its address names a block. -/
def tmmaShapeBad (s : State) (fb : BitVec 512) (a : Option TileAddr) (kb ooff nt : Nat) (wout : Bool) : Bool :=
  let k := 32 * kb
  kb == 0 || (wout && fbOutBase fb == 0) || ooff % 8 != 0 ||
  decide (fbAt fb 8 4 < storedA s fb (a.getD ⟨2 ^ 60, 0⟩) k) ||
  decide (fbAt fb 0xC 4 < rowBytes ((fbFb fb).getD .none) k) ||
  (wout && decide (fbAt fb 0x10 4 < ((nt - 1) * 64 + fbCols fb) * outSize ((fbOutf fb).getD .f32)))

def execTmma (t : TOp) (s : State) : Res :=
  tileDo 0x1C1 t s (fun s k w v =>
    let c := coreOf k
    let core := s.core c
    let a := scaOpnd v t t.a
    let b := scaOpnd v t t.b
    let sc := scaOpnd v t t.c
    let im := t.imm
    let acc := fieldOf im 0 4
    let fr := fieldOf im 4 4
    let nt := fieldOf im 8 2 + 1
    let accum := bitOf im 10
    let wout := bitOf im 11
    let reg := core.fregs.look {} fr
    let fb := reg.block
    let kb := sc % 2 ^ 16
    let ooff := sc / 2 ^ 16 % 2 ^ 32
    let bufs := (List.range nt).map (fun i => acc + i)
    let cls := fbClass fb
    let fmt := (cls.map TileClass.acc).getD .f32
    if reg.state == .loading then .hold s
    else if 2 ^ 32 ≤ a || 2 ^ 32 ≤ b || 2 ^ 48 ≤ sc || im.toNat / 2 ^ 12 != 0 then tileTrap 0x104
    else if reg.state != .ready then tileTrap 0x100
    else if 15 < acc + nt - 1 || (accum && bufs.any (fun i => (core.accs.look {} i).fmt != fmt)) then tileTrap 0x101
    else if tmmaShapeBad s fb (tileBase s w.block a) kb ooff nt wout then tileTrap 0x103
    else match tileBase s w.block a, tileBase s w.block b with
      | some ta, some tb =>
        if !(taskReads s fb ta tb kb nt).all (fun r => r.ok s) then tileTrap 0x102
        else
          let s := if accum then s else bufs.foldl (fun s i => setAcc s c i (fun x => { x with fmt := fmt })) s
          enqueueTile t [] (.tmma fb ta tb kb ooff acc nt fr accum wout) s k w
      | _, _ => tileTrap 0x102)

/-- Declared formats of buffers by code (R213). -/
def accFmtOf : Nat → AccFmt
  | 1 => .i32
  | 2 => .f64
  | _ => .f32

def execTzero (t : TOp) (s : State) : Res :=
  tileDo 0x1C2 t s (fun s k w v =>
    let a := scaOpnd v t t.a
    let mask := BitVec.ofNat 16 a
    let f := a / 2 ^ 16 % 4
    if a / 2 ^ 18 != 0 then tileTrap 0x104
    else if f = 3 || mask = 0 then tileTrap 0x101
    else
      let s := ((List.range 16).filter (fun i => bitOf mask i)).foldl (fun s i => setAcc s (coreOf k) i (fun x => { x with fmt := accFmtOf f })) s
      enqueueTile t [] (.tzero mask) s k w)

/-- Whether some registers of a run are still to be written by an earlier operation (02 R41). -/
def runBusy (s : State) (k : Nat) (w : Wave) (regs : List RegRef) : Bool :=
  let homes := (homeKeys s k w).filterMap (waveAt s)
  let busy := pendingRegs (w :: homes)
  regs.any (fun r => busy.contains r)

def accRows : AccFmt → Nat
  | .f64 => 32
  | _ => 64

/-- Registers per row (R230). -/
def rowRegs (f : AccFmt) (cv : Nat) : Nat := if f = .f64 then 4 else if cv = 0 then 2 else 1

def execTrd (t : TOp) (s : State) : Res :=
  tileDo 0x1C3 t s (fun s k w v =>
    let a := scaOpnd v t t.a
    let buf := a % 16
    let row0 := a / 2 ^ 4 % 64
    let n := a / 2 ^ 10 % 64 + 1
    let cv := a / 2 ^ 16 % 4
    let mode := a / 2 ^ 18 % 8
    let sat := natBit a 21
    let phase := a / 2 ^ 22 % 256
    let f := ((s.core (coreOf k)).accs.look {} buf).fmt
    let d := opndIx t.d
    let m := n * rowRegs f cv
    let run := (List.range m).map (fun i => RegRef.v (w.phys (d + i)))
    if a / 2 ^ 30 != 0 || cv = 3 || 4 < mode then tileTrap 0x104
    else if accRows f < row0 + n || (cv != 0 && f != .f32) || (cv == 0 && (mode != 0 || sat || phase != 0)) then tileTrap 0x101
    else if w.bud < d + m || (f == .f64 && d % 2 == 1) then tileTrap 0x105
    else if runBusy s k w run then .hold s
    else enqueueTile t run (.trd buf row0 n cv mode sat phase ((List.range m).map (fun i => w.phys (d + i)))) s k w)

/-- The first fault of reading a run: parity, then tags, register by register (R230, 02 R34). -/
def runFaults (s : State) (k : Nat) (w : Wave) (v : View) (i n : Nat) : Option Trapped :=
  let homes := (homeKeys s k w).filterMap (waveAt s)
  match (List.range n).find? (fun j => homes.any (fun x => x.parityBad (.v (w.phys (i + j))))) with
  | some j => some { cause := 0x0C3, detail := i + j }
  | none => tagCheck v w ((List.range n).map (fun j => (i + j, false)))

/-- The registers `twr` reads. -/
def twrRun (w : Wave) (t : TOp) : List RegRef :=
  let a := waveSca w t t.a
  (runRegs w (opndIx t.b) ((a / 2 ^ 10 % 64 + 1) * rowRegs (accFmtOf (a / 2 ^ 16 % 4)) 0)).map (fun i => .v (w.phys i))

def execTwr (t : TOp) (s : State) : Res :=
  tileIssue (fun w => { opGate 0x1C4 t false noSees w with tags := [], sees := w.observes (twrRun w t) })
    t s (fun s k w v =>
    let c := coreOf k
    let a := scaOpnd v t t.a
    let buf := a % 16
    let row0 := a / 2 ^ 4 % 64
    let n := a / 2 ^ 10 % 64 + 1
    let fc := a / 2 ^ 16 % 4
    let f := accFmtOf fc
    let old := ((s.core c).accs.look {} buf).fmt
    let b := opndIx t.b
    let m := n * rowRegs f 0
    if a / 2 ^ 18 != 0 || fc = 3 then tileTrap 0x104
    else if accRows f < row0 + n then tileTrap 0x101
    else if w.bud < b + m || (f == .f64 && b % 2 == 1) then tileTrap 0x105
    else if runBusy s k w ((List.range m).map (fun i => RegRef.v (w.phys (b + i)))) then .hold s
    else match runFaults s k w v b m with
      | some e => .trap e
      | none =>
        let rows := (List.range m).map (fun i => (Vector.ofFn (fun l => BitVec.ofNat 32 (v.vec (b + i) l.val)) : Vector Word 32))
        enqueueTile t [] (.twr buf row0 n (f != old) rows) (setAcc s c buf (fun x => { x with fmt := f })) k w)

/-- Formats `tcmp` and `tbmp` accept. -/
def packFmts : List Fmt := [.e4m3, .e5m2, .e3m2, .e2m3, .e2m1, .f16, .bf16, .i8]

/-- The checks that `tcmp` and `tbmp` share (R231, R232). -/
def compressEff (t : TOp) (size : Fmt → Nat → Nat → Nat) (work : TileAddr → TileAddr → Nat → Nat → Fmt → Nat → TileWork)
    (s : State) (k : Nat) (w : Wave) (v : View) : Eff :=
  let a := scaOpnd v t t.a
  let b := scaOpnd v t t.b
  let kb := b % 2 ^ 16
  let rows := b / 2 ^ 16 % 64 + 1
  if b / 2 ^ 28 != 0 then tileTrap 0x104
  else match fmtOf (b / 2 ^ 22 % 64) with
    | none => tileTrap 0x103
    | some f =>
      if !packFmts.contains f || kb = 0 then tileTrap 0x103
      else match tileRange s w.block (a % 2 ^ 32) (rows * rowBytes f (32 * kb)), tileRange s w.block (a / 2 ^ 32) (size f (32 * kb) rows) with
        | some src, some dst => enqueueTile t (opndRegs w 1 t.d) (work src dst kb rows f (opndIx t.d)) s k w
        | _, _ => tileTrap 0x102

def execTcmp (t : TOp) (s : State) : Res := tileDo 0x1C5 t s (compressEff t tcmpSize .tcmp)
def execTbmp (t : TOp) (s : State) : Res := tileDo 0x1C6 t s (compressEff t tbmpSize .tbmp)

def execTmc (t : TOp) (s : State) : Res :=
  tileDo 0x1C7 t s (fun s k w v =>
    let a := scaOpnd v t t.a
    let b := scaOpnd v t t.b
    let off := b % 2 ^ 20
    let n := b / 2 ^ 20 % 2 ^ 20
    let ranks := (List.range 8).filter (fun i => bitOf t.imm i)
    if b / 2 ^ 40 != 0 || 2 ^ 8 ≤ t.imm.toNat || 2 ^ 32 ≤ a then tileTrap 0x104
    else if n = 0 || n % 64 != 0 || ranks.isEmpty then tileTrap 0x103
    else
      let dsts := ranks.map (fun r => tileRange s w.block (2 ^ 23 + r * 2 ^ 20 + off) n)
      match tileRange s w.block a n with
      | none => tileTrap 0x102
      | some src =>
        if dsts.any (·.isNone) then tileTrap 0x102
        else enqueueTile t [] (.tmc src off n (dsts.filterMap (fun d => d.map (·.blk)))) s k w)

/-! ## tstat, tcan (R213, R214, R235, R236) -/

def AccFmt.code : AccFmt → Nat
  | .f32 => 0
  | .i32 => 1
  | .f64 => 2

/-- Status of a buffer. -/
def bufStatus (core : Core) (b : Nat) : Nat :=
  let x := core.accs.look {} b
  let mine := core.tileQ.filter (fun r => r.work.buffers.contains b)
  x.fmt.code + x.poison.toNat * 4 + (mine.any (·.running)).toNat * 8 + mine.length * 16 + x.err * 2 ^ 16

def fregStatus (r : FReg) : Nat :=
  (match r.state with
    | .empty => 0
    | .loading => 1
    | .ready => 2
    | .invalid => 3) + r.reason * 4

def execTstat (t : TOp) (s : State) : Res :=
  opDo 0x1C8 t s (fun s k w =>
    let a := scaOpnd (waveView s k w) t t.a
    let core := s.core (coreOf k)
    if 32 ≤ a then tileTrap 0x104
    else .done (writeScaAt s k (opndIx t.d) (if a < 16 then bufStatus core a else fregStatus (core.fregs.look {} (a - 16)))))

/-- Whether a record is a `tmma` that names a buffer of a mask. -/
def tcanHits (mask : Nat) (r : TileRec) : Bool := match r.work with
  | .tmma _ _ _ _ _ _ _ _ _ _ => r.work.buffers.any (natBit mask)
  | _ => false

def execTcan (t : TOp) (s : State) : Res :=
  opDo 0x1C9 t s (fun s k w =>
    let a := scaOpnd (waveView s k w) t t.a
    let c := coreOf k
    if 2 ^ 16 ≤ a then tileTrap 0x104
    else
      let core := s.core c
      let idle := core.tileQ.filter (fun r => tcanHits a r && !r.running)
      let core := cancelTiles core (fun r => tcanHits a r && !r.running)
      let s := s.setCore c { core with tileQ := core.tileQ.map (fun r => if tcanHits a r then { r with cancelled := true } else r) }
      .done (idle.foldl (fun s r => settleWays (endOp s r.wave r.pend none) r.blk) s))

/-! ## Events of the queue -/

/-- The scheduler starts the oldest ready record that a unit is free for. -/
def execTileRecordStart (c : Nat) (s : State) : Res :=
  let core := s.core c
  match startable s core.tileQ with
  | none => .next s
  | some r => .next (s.setCore c { core with tileQ := core.tileQ.map (fun x => if x.id = r.id then { x with running := true } else x) })

/-- A running record whose earlier accesses are performed. -/
def runningRec (s : State) (c id : Nat) : Option TileRec := match tileRec s c id with
  | some r => if r.running && forkReady s r.wave r.pend then some r else none
  | none => none

/-- The bytes of a format block at a generic address, as the block's wave loads them; none where they are not readable (R220). -/
def readBlock (s : State) (r : TileRec) (a : Nat) : State × Option (List Byte) :=
  match contextAt s r.ctx with
  | none => (s, none)
  | some x =>
    let lw := x.lwin.toNat
    if lw ≤ a && a < lw + 2 ^ 24 then
      match tileRange s r.blk (a - lw) 64 with
      | some t => (s, if t.blk = r.blk && !SRange.poisoned s ⟨t.blk, t.off, 64⟩ then some ((List.range 64).map (fun i => BitVec.ofNat 8 (tileByte s t (i : Nat)))) else none)
      | none => (s, none)
    else match plainRead s r.wave r.ctx a 64 0 with
      | (s, .ok x) => (s, some ((numBytes 64 x).map (BitVec.ofNat 8)))
      | (s, .error _) => (s, none)

def execTfmtLoadEnd (c id : Nat) (s : State) : Res :=
  match runningRec s c id with
  | some r => (match r.work with
    | .tfmt n addr =>
      (match readBlock s r addr.toNat with
        | (s, got) =>
          let fb := (got.map (fun bs => BitVec.ofNat 512 (bytesNat bs))).getD 0
          let reason := match got, contextAt s r.ctx with
            | some _, some x => blockReason x fb
            | _, _ => 1
          let core := s.core c
          let later := core.tileQ.any (fun q => q.id != id && (match q.work with
            | .tfmt m _ => m == n
            | _ => false))
          let reg : FReg := if later then { core.fregs.look {} n with state := .loading, reason := 0 }
            else if reason = 0 then { state := .ready, block := fb } else { state := .invalid, reason := reason, block := fb }
          let s := s.setCore c { core with fregs := core.fregs.put {} n reg }
          .next (endTile s c r 0))
    | _ => .next s)
  | none => .next s

/-- Whether a block whose scratchpad a record names has finished or is lost: its key serves no block, or another one (R233). -/
def peerGone (s : State) (r : TileRec) : Bool :=
  r.peers.any (fun p => !(blockAt s p.1).any (fun b => b.launch == p.2.1 && b.index == p.2.2))

/-- The tile a task is in when it comes to stop, a free choice. -/
def stopTile (s : State) (r : TileRec) (nt : Nat) : Nat := r.tdone + freeNat s 20 % max 1 (nt - r.tdone)

/-- The group boundary of tile `t` it stops at, a free choice past what it has summed. -/
def stopGroup (s : State) (r : TileRec) (t groups : Nat) : Nat :=
  let g0 := if t = r.tdone then r.gdone else 0
  g0 + freeNat s 21 % (groups - g0 + 1)

/-- A context save stops a running task at a group boundary, a free choice, with TDONE and GDONE its progress; one whose write-out
fails on the way ends. A task with lines that the host may hold to write first goes no further than its present tile (R241). -/
def pauseTask (c : Nat) (s : State) (r : TileRec) : State :=
  match r.work with
  | .tmma fb a b kb ooff acc nt _ accum wout =>
    if !r.running || r.cancelled || peerGone s r then s
    else
      let t := if (needSnoop s (taskHeld s c r.ctx fb ooff nt wout)).isSome then r.tdone else stopTile s r nt
      let g := stopGroup s r t (groupCount fb kb)
      let s := if r.tdone < t && wout then escape s r.blk else s
      let (s, e) := runTo c r fb a b kb ooff acc accum wout t g s
      if e != 0 then endTile s c r e
      else s.setCore c { s.core c with tileQ := (s.core c).tileQ.map (fun x => if x.id = r.id then { x with tdone := t, gdone := g } else x) }
  | _ => s

/-- Every tile operation of a core stops for a context save. -/
def pauseTiles (s : State) (c : Nat) : State :=
  let s := (s.core c).tileQ.foldl (pauseTask c) s
  s.setCore c { s.core c with tileQ := (s.core c).tileQ.map (fun r => { r with running := false }) }

/-- A running task runs to its end, or to the tile, a free choice, in which a scratchpad byte it reads reports an uncorrected error
(R240). -/
def execTmmaTaskComplete (c : Nat) (e : RecEnd) (s : State) : Res :=
  match runningRec s c e.id with
  | some r => (match r.work with
    | .tmma fb a b kb ooff acc nt _ accum wout =>
      if r.cancelled then .next s
      else match needSnoop s (taskHeld s c r.ctx fb ooff nt wout) with
        | some s => .next s
        | none =>
          if peerGone s r then .next (endTile (poisonFrom s c acc nt r.tdone) c r 3)
          else
            let s := if wout || fbCnt fb != 0 then escape s r.blk else s
            if e.err || r.work.poisoned s then
              let t := stopTile s r nt
              let (s, e) := runTiles c r fb a b kb ooff acc accum wout (t - r.tdone) r.tdone r.gdone s
              .next (endTile (if e = 0 then poisonFrom s c acc nt t else s) c r (if e = 0 then 2 else e))
            else
            let (s, e) := runTiles c r fb a b kb ooff acc accum wout (nt - r.tdone) r.tdone r.gdone s
            if e != 0 then .next (endTile s c r e)
            else
              let (s, e) := addCounter s c r.wave r.ctx fb
              .next (endTile s c r e)
    | _ => .next s)
  | none => .next s

/-- A cancelled running task stops at a group boundary, a free choice: the tiles before it are produced, the one it stops in is partly
summed, or summed and partly written out, and every buffer of the task is poisoned. -/
def execTmmaCancelStop (c id : Nat) (s : State) : Res :=
  match runningRec s c id with
  | some r => (match r.work with
    | .tmma fb a b kb ooff acc nt _ accum wout =>
      if !r.cancelled then .next s
      else match needSnoop s (taskHeld s c r.ctx fb ooff nt wout) with
        | some s => .next s
        | none =>
          let t := stopTile s r nt
          let g := stopGroup s r t (groupCount fb kb)
          let s := if wout then escape s r.blk else s
          let (s, e) := if peerGone s r then (s, 3) else runTo c r fb a b kb ooff acc accum wout t g s
          let s := if e = 0 && wout && g == groupCount fb kb
            then (writeOut s c r.wave r.ctx fb ooff t (freeNat s 22 % 4097) ((s.core c).accs.look {} (acc + t)).data).1 else s
          .next (endTile (poisonFrom s c acc nt 0) c r 1)
    | _ => .next s)
  | none => .next s

def execTzeroComplete (c id : Nat) (s : State) : Res :=
  match runningRec s c id with
  | some r => (match r.work with
    | .tzero _ => .next (endTile (r.work.buffers.foldl (fun s b => setAcc s c b (fun x => { x with data := [], poison := false })) s) c r 0)
    | _ => .next s)
  | none => .next s

/-- Lane `l` of register `j` of a `trd` run of `n` rows in `m` registers (R230). -/
def trdLane (x : Acc) (row0 n cv mode : Nat) (sat : Bool) (phase m j l : Nat) : Nat :=
  let per := m / n
  let i := row0 + j / per
  let at_ := fun (col : Nat) => (x.data.look 0 (64 * i + col)).toNat
  let conv := fun (f : Fmt) (e : Nat) =>
    (deliverTo f (rmodeOf mode) sat (ditherD i (2 * l + e) phase) (ofF32 (at_ (2 * l + e)))).bits % 2 ^ 16
  let f : Fmt := if cv = 1 then .f16 else .bf16
  if per = 1 then conv f 0 + conv f 1 * 2 ^ 16
  else if per = 2 then at_ (32 * (j % 2) + l) % 2 ^ 32
  else at_ (32 * (j % 4 / 2) + l) / 2 ^ (32 * (j % 2)) % 2 ^ 32

/-- Home waves of an operation's lanes. -/
def opHomes (s : State) (k id : Nat) : List (Option Nat) := match (waveAt s k).bind (fun w => w.pend.find? (fun p => p.id == id)) with
  | some p => p.homes
  | none => []

def execTrdComplete (c id : Nat) (s : State) : Res :=
  match runningRec s c id with
  | some r => (match r.work with
    | .trd buf row0 n cv mode sat phase dst =>
      let x := (s.core c).accs.look {} buf
      let homes := opHomes s r.wave r.pend
      let tag := if x.poison then tagP else tagE
      .next (endTile (((List.range dst.length).zip dst).foldl (fun s p =>
        writeLanes s r.wave homes p.2 ((List.range 32).map (fun l => (l, trdLane x row0 n cv mode sat phase dst.length p.1 l))) tag false) s) c r 0)
    | _ => .next s)
  | none => .next s

/-- The elements of a row held in the registers of a `twr`. -/
def twrRow (rows : List (Vector Word 32)) (per q : Nat) : List (Nat × DWord) :=
  let reg := fun j l => (((rows.getD (per * q + j) (Vector.replicate 32 0)).toList[l]?).getD 0 : Word)
  (List.range 64).map (fun col => (col,
    if per = 2 then (reg (col / 32) (col % 32)).zeroExtend 64
    else BitVec.ofNat 64 ((reg (2 * (col / 32)) (col % 32)).toNat + (reg (2 * (col / 32) + 1) (col % 32)).toNat * 2 ^ 32)))

def execTwrComplete (c id : Nat) (s : State) : Res :=
  match runningRec s c id with
  | some r => (match r.work with
    | .twr buf row0 n clear rows =>
      let x := (s.core c).accs.look {} buf
      let data : Tab DWord := (List.range n).foldl (fun (d : Tab DWord) q =>
        (twrRow rows (rows.length / n) q).foldl (fun (d : Tab DWord) p => Tab.put 0 d (64 * (row0 + q) + p.1) p.2) d)
        (if clear then [] else x.data)
      .next (endTile (setAcc s c buf (fun x => { x with data := data, poison := false })) c r 0)
    | _ => .next s)
  | none => .next s

/-! ## Compression and copies (R231, R232, R234)

`err` says that a scratchpad byte read reports an uncorrected error for a cause of its own, beside those known to be bad (R240). -/

/-- The value of element `p` of dense row `i` of a source. -/
def srcVal (s : State) (f : Fmt) (t : TileAddr) (i k p : Nat) : FVal := tileVal s 0xFFFF f t ((i * rowBytes f k : Nat) : Int) p
def srcElemBits (s : State) (f : Fmt) (t : TileAddr) (i k p : Nat) : Nat := tileElem s t ((i * rowBytes f k : Nat) : Int) (elemBits f) p

/-- Whether `a` ranks above `b` by magnitude: NaN above every number. -/
def magAbove (a b : FVal) : Bool :=
  let mag := fun (x : FVal) => match x with
    | .fin _ n d e => FVal.fin false n d e
    | .inf _ => FVal.inf false
    | .nan => .nan
  if a.isNan then !b.isNan else if b.isNan then false else decide (0 < FVal.cmp (mag a) (mag b))

/-- Positions of the two elements of a group that are kept, ascending. -/
def keepTwo (vs : List FVal) : Nat × Nat :=
  let above := fun i => ((List.range 4).filter (fun j =>
    magAbove (vs.getD j .nan) (vs.getD i .nan) || (j < i && !magAbove (vs.getD i .nan) (vs.getD j .nan)))).length
  match (List.range 4).filter (fun i => above i < 2) with
  | a :: b :: _ => (a, b)
  | _ => (0, 1)

/-- Elements of `w` bits packed into bytes. -/
def packElems (w : Nat) (es : List Nat) : List Byte :=
  let x := es.foldr (fun e n => e % 2 ^ w + n * 2 ^ w) 0
  (List.range ((es.length * w + 7) / 8)).map (fun i => BitVec.ofNat 8 (x / 256 ^ i))

def spadPut (s : State) (blk off : Nat) (bs : List Byte) : State :=
  spadWrite s blk ((List.range bs.length).zip bs |>.map (fun p => (off + p.1, p.2)))

/-- Store an operation's scalar result and end it. -/
def endTileSca (s : State) (c : Nat) (r : TileRec) (d x : Nat) : State :=
  let keys := match waveAt s r.wave with
    | some w => homeKeys s r.wave w
    | none => []
  endTile (keys.foldl (fun s h => modWave s h (fun w => w.writeSca d (BitVec.ofNat 64 x))) s) c r 0

/-- A unit that writes another block's scratchpad leaves its own (18 R424). -/
def escapeTo (s : State) (blk : Nat) (dsts : List Nat) : State := if dsts.any (fun d => d != blk) then escape s blk else s

def execTcmpComplete (c : Nat) (e : RecEnd) (s : State) : Res :=
  match runningRec s c e.id with
  | some r => (match r.work with
    | .tcmp src dst kb rows f d =>
      let k := 32 * kb
      if peerGone s r then .next (endTile s c r 3)
      else if e.err || r.work.poisoned s then .next (endTile s c r 2)
      else
        let groups := List.range (k / 4)
        let vals := fun i q => (List.range 4).map (fun j => srcVal s f src i k (4 * q + j))
        let row := fun i => groups.map (fun q => (q, keepTwo (vals i q)))
        let rowOut := fun i => (packElems (elemBits f) ((row i).flatMap (fun p =>
            [srcElemBits s f src i k (4 * p.1 + p.2.1), srcElemBits s f src i k (4 * p.1 + p.2.2)])),
          packElems 4 ((row i).map (fun p => p.2.1 + 4 * p.2.2)),
          ((row i).filter (fun p => (List.range 4).any (fun j => j != p.2.1 && j != p.2.2 && !((vals i p.1).getD j .nan).isZero))).length)
        let outs := (List.range rows).map (fun i => (i, rowOut i))
        let cb := rowBytes f (k / 2)
        let moff := up64 (cb * rows)
        let s := outs.foldl (fun s p => spadPut (spadPut s dst.blk (dst.off + p.1 * cb) p.2.1) dst.blk (dst.off + moff + p.1 * (k / 8)) p.2.2.1) s
        .next (endTileSca (escapeTo s r.blk [dst.blk]) c r d (outs.foldl (fun n p => n + p.2.2.2) 0))
    | _ => .next s)
  | none => .next s

def execTbmpComplete (c : Nat) (e : RecEnd) (s : State) : Res :=
  match runningRec s c e.id with
  | some r => (match r.work with
    | .tbmp src dst kb rows f d =>
      let k := 32 * kb
      if peerGone s r then .next (endTile s c r 3)
      else if e.err || r.work.poisoned s then .next (endTile s c r 2)
      else
        let keep := (List.range k).filter (fun p => (List.range rows).any (fun i => !(srcVal s f src i k p).isZero))
        let outs := (List.range rows).map (fun i => (i, packElems (elemBits f) (keep.map (fun p => srcElemBits s f src i k p))))
        let map := packElems 1 ((List.range k).map (fun p => (keep.contains p).toNat))
        let bm := up64 (k / 8)
        let s := outs.foldl (fun s p => spadPut s dst.blk (dst.off + bm + p.1 * rowBytes f k) p.2) (spadPut s dst.blk dst.off map)
        .next (endTileSca (escapeTo s r.blk [dst.blk]) c r d keep.length)
    | _ => .next s)
  | none => .next s

def execTmcComplete (c : Nat) (e : RecEnd) (s : State) : Res :=
  match runningRec s c e.id with
  | some r => (match r.work with
    | .tmc src off n dsts =>
      if peerGone s r then .next (endTile s c r 3)
      else if e.err || r.work.poisoned s then .next (endTile s c r 2)
      else
        let bs := (List.range n).map (fun i => BitVec.ofNat 8 (tileByte s src (i : Nat)))
        .next (endTile (dsts.foldl (fun s d => spadPut s d off bs) (escapeTo s r.blk dsts)) c r 0)
    | _ => .next s)
  | none => .next s

end Sys2Proof.Machine
end

