-- ==== Sys2Proof/Machine/Xbar.lean ====
section
/-! DEFINITION. Crossbar arrays (11 R244 to R264). -/

namespace Sys2Proof.Machine

/-! ## Arrays and their queues -/

def xarr (s : State) (c x : Nat) : XArr := (s.core c).arrays.look {} x
def setXarr (s : State) (c x : Nat) (a : XArr) : State := s.setCore c { s.core c with arrays := (s.core c).arrays.put {} x a }

/-- Whether a release of the array is pending (R252). -/
def XArr.releasing (a : XArr) : Bool := a.queue.any (fun r => r.work == .xrel)

/-- Records queued or running. -/
def XArr.pending (a : XArr) : Nat := (a.queue.filter (fun r => r.work != .xrel)).length

/-- Whether words of a context may name the array. -/
def XArr.owned (a : XArr) (ctx : Nat) : Bool := a.owner == some ctx && !a.releasing

/-- Issue an operation that takes a record in array `x`. -/
def enqueueX (t : TOp) (dst : List RegRef) (work : XWork) (x : Nat) (a : XArr) (s : State) (k : Nat) (w : Wave) : Eff :=
  let r : XRec := { id := s.nextId, wave := k, pend := w.nextId, work := work }
  let s := setXarr s (coreOf k) x { a with queue := a.queue ++ [r] }
  issuePend { s with nextId := s.nextId + 1 } k w t .xbar dst (.engine r.id)

/-- Whether a word that needs a record waits. -/
def xFull (w : Wave) (t : TOp) (a : XArr) : Bool := 8 ≤ a.pending || !flagRoom w (attOf w t)

def xTrap (cause : Nat) : Eff := .trap { cause := cause }

/-! ## xown, xrel (R252) -/

def execXown (t : TOp) (s : State) : Res :=
  opDo 0x200 t s (fun s k w =>
    let av := waveSca w t t.a
    let c := coreOf k
    let a := xarr s c av
    let ctx := ctxOf s w
    if 2 ≤ av then xTrap 0x113
    else if a.owner == some ctx then (if a.releasing then .hold s else .done s)
    else if a.owner.isSome then xTrap 0x110
    else .done (setXarr s c av { a with owner := some ctx, state := .empty, drift := 0, dreg := 0, derr := 0, dref := 0 }))

def execXrel (t : TOp) (s : State) : Res :=
  opDo 0x201 t s (fun s k w =>
    let av := waveSca w t t.a
    let c := coreOf k
    let a := xarr s c av
    if 2 ≤ av then xTrap 0x113
    else if !a.owned (ctxOf s w) then xTrap 0x111
    else .done (setXarr { s with nextId := s.nextId + 1 } c av { a with queue := a.queue ++ [{ id := s.nextId, wave := k, pend := 0, work := .xrel }] }))

/-! ## xprog, xverify, xcal, xref (R253, R254, R257) -/

def execXprog (t : TOp) (s : State) : Res :=
  opDo 0x202 t s (fun s k w =>
    let av := waveSca w t t.a
    let img := waveSca w t t.b
    let a := xarr s (coreOf k) av
    if 2 ≤ av || img % 64 != 0 then xTrap 0x113
    else if !a.owned (ctxOf s w) then xTrap 0x111
    else if xFull w t a then .hold s
    else enqueueX t [] (.xprog (BitVec.ofNat 64 img)) av { a with state := .programming } s k w)

def XArr.idle (a : XArr) : Bool := a.state == .empty || a.state == .failed

def execXverify (t : TOp) (s : State) : Res :=
  opDo 0x203 t s (fun s k w =>
    let av := waveSca w t t.a
    let img := waveSca w t t.b
    let a := xarr s (coreOf k) av
    if 2 ≤ av || img % 64 != 0 then xTrap 0x113
    else if !a.owned (ctxOf s w) then xTrap 0x111
    else if a.idle then xTrap 0x112
    else if xFull w t a then .hold s
    else enqueueX t (opndRegs w 1 t.d) (.xverify (BitVec.ofNat 64 img) (opndIx t.d)) av a s k w)

def execXcal (t : TOp) (s : State) : Res :=
  opDo 0x206 t s (fun s k w =>
    let av := waveSca w t t.a
    let a := xarr s (coreOf k) av
    if 2 ≤ av then xTrap 0x113
    else if !a.owned (ctxOf s w) then xTrap 0x111
    else if a.idle then xTrap 0x112
    else if xFull w t a then .hold s
    else enqueueX t [] .xcal av a s k w)

def execXref (t : TOp) (s : State) : Res :=
  opDo 0x207 t s (fun s k w =>
    let av := waveSca w t t.a
    let a := xarr s (coreOf k) av
    if 2 ≤ av then xTrap 0x113
    else if !a.owned (ctxOf s w) then xTrap 0x111
    else if a.idle then xTrap 0x112
    else if xFull w t a then .hold s
    else enqueueX t (opndRegs w 1 t.d) (.xref (w.phys (opndIx t.d))) av a s k w)

/-! ## xmv, xmva (R255) -/

/-- Input x[r] of a run of four registers. -/
def xInput (v : View) (i r : Nat) : Int := toSigned 8 (v.vec (i + r / 128) (r % 128 / 4) / 256 ^ (r % 4) % 256)

/-- The gate of a product: its inputs and accumulators observed and read, its run written. -/
def productGate (t : TOp) (acc : Bool) (w : Wave) : Gate :=
  let a := runRegs w (opndIx t.a) 4
  let d := runRegs w (opndIx t.d) 8
  let vr := fun (l : List Nat) => l.map (fun i => RegRef.v (w.phys i))
  { reads := vr a ++ opndRegs w 1 t.b ++ opndRegs w 1 t.c ++ (if acc then vr d else [])
    writes := vr d
    tags := a.map (fun i => (i, false)) }

def productEff (t : TOp) (acc : Bool) (s : State) (k : Nat) (w : Wave) : Eff :=
  let v := waveView s k w
  let av := waveSca w t t.b
  let sh := if acc then waveSca w t t.c else 0
  let a := xarr s (coreOf k) av
  let d := opndIx t.d
  let i := opndIx t.a
  let dst := (List.range 8).map (fun j => w.phys (d + j))
  if 2 ≤ av || 16 ≤ sh then xTrap 0x113
  else if !a.owned (ctxOf s w) then xTrap 0x111
  else if a.idle then xTrap 0x112
  else if w.bud < i + 4 || w.bud < d + 8 then xTrap 0x114
  else if acc && (List.range 8).any (fun j => tagIsP (v.tag (d + j))) then
    .trap { cause := 0x0C1, fresh := (List.range 8).any (fun j => tagIsP (v.tag (d + j)) && w.freshPoison.contains (w.phys (d + j))) }
  else if xFull w t a then .hold s
  else
    let x := (List.range 512).map (xInput v i)
    let regs := dst.map (fun p => RegRef.v p)
    if acc then
      let accs := (List.range 8).map (fun j => (Vector.ofFn (fun l => BitVec.ofNat 32 (v.vec (d + j) l.val)) : Vector Word 32))
      enqueueX t regs (.xmva x accs ((List.range 8).map (fun j => v.tag (d + j))) sh dst d) av a s k w
    else enqueueX t regs (.xmv x dst d) av a s k w

def execXmv (t : TOp) (s : State) : Res := waveDo s (productGate { t with c := .k 0 } false) (productEff t false)
def execXmva (t : TOp) (s : State) : Res := waveDo s (productGate t true) (productEff t true)

/-! ## xstat, xfix, xbnd (R258, R260) -/

def ArrState.code : ArrState → Nat
  | .empty => 0
  | .programming => 1
  | .ready => 2
  | .failed => 3

def xstatWord (a : XArr) (view : Bool) : Nat :=
  if view then a.dreg + a.derr * 2 ^ 8 + a.dref * 2 ^ 16
  else a.state.code + a.pending * 2 ^ 6 + a.sh * 2 ^ 10 + a.err * 2 ^ 16 + a.drift * 2 ^ 24 + a.pcount * 2 ^ 32 + a.tempc.toNat * 2 ^ 48

def execXstat (t : TOp) (s : State) : Res :=
  opDo 0x208 t s (fun s k w =>
    let av := waveSca w t t.a
    let a := xarr s (coreOf k) (av % 2)
    if 4 ≤ av then xTrap 0x113
    else if !a.owned (ctxOf s w) then xTrap 0x111
    else .done (writeScaAt s k (opndIx t.d) (xstatWord a (natBit av 1))))

/-- All 32 lanes copied with tag E: the acceptance of a bound. -/
def execXfix (t : TOp) (s : State) : Res :=
  opDo 0x209 t s (fun s k w =>
    let v := waveView s k w
    .done (writeVecAt s k { reg := opndIx t.d, vals := (List.range 32).map (fun l => (l, v.vec (opndIx t.a) l)), tag := tagE }))

def execXbnd (t : TOp) (s : State) : Res :=
  opDo 0x20A t s (fun s k w => .done (writeScaAt s k (opndIx t.d) ((waveView s k w).tag (opndIx t.a)).toNat))

/-! ## Events: releases, programming, calibration -/

/-- The record at the head of an array's queue. -/
def xHead (s : State) (c x : Nat) : Option XRec := (xarr s c x).queue.head?

/-- The head record completes: it leaves, and its operation ends with a cause held for its observers, if it has one. -/
def endX (s : State) (c x : Nat) (r : XRec) : State :=
  let a := xarr s c x
  endOp (setXarr s c x { a with queue := a.queue.drop 1 }) r.wave r.pend none

def execXrelTakesEffect (c x : Nat) (s : State) : Res :=
  let a := xarr s c x
  match xHead s c x with
  | some r => if r.work == .xrel then .next (setXarr s c x { a with queue := a.queue.drop 1, owner := none, state := .empty }) else .next s
  | none => .next s

/-- The weight image at an address: ERR 1 to 3, or SH, the CRC and the weight bytes (R248, R253). -/
def readWeights (s : State) (c ctx img : Nat) : State × Except Nat (Nat × Nat × List Byte) :=
  match engRead s c ctx img 0x40 0 with
  | (s, .error _) => (s, .error 1)
  | (s, .ok h) =>
    let w1 := natAt h 4 4
    if natAt h 0 4 != 0x7AB05841 || 6 ≤ w1 % 8 || w1 / 8 % 32 != 0 || w1 / 2 ^ 8 % 256 != 1 || w1 / 2 ^ 16 != 0 || natAt h 0xC 52 != 0 then (s, .error 2)
    else match engRead s c ctx (img + 0x40) 131072 1 with
      | (s, .error _) => (s, .error 1)
      | (s, .ok ws) =>
        let crc := crc32c (ws.map (·.toNat))
        if crc != natAt h 8 4 then (s, .error 3) else (s, .ok (w1 % 8, crc, ws))

def weightAt (ws : List Byte) (r col : Nat) : Int := toSigned 8 (((ws.drop (256 * r + col)).head?).getD 0).toNat

def rowBad (ws : List Byte) (r : Nat) : Bool := (List.range 256).any (fun col => decide (15 < (weightAt ws r col).natAbs))

/-- The cells with rows [lo, hi) programmed from an image. -/
def programRows (cells : Tab Int) (ws : List Byte) (lo hi : Nat) : Tab Int :=
  cells.filter (fun p => p.1 < 256 * lo) ++
  ((List.range (256 * (hi - lo))).filterMap (fun i =>
    let q := 256 * lo + i
    let v := weightAt ws (q / 256) (q % 256)
    if v = 0 then none else some (q, v))) ++
  cells.filter (fun p => 256 * hi ≤ p.1)

/-- The corrections a calibration computes, a gain and an offset for each column: free values. -/
def freeCorr (s : State) (i : Nat := 0) : List (Nat × Nat) :=
  (List.range 256).map (fun c => (freeNat s (100000 * i + 2 * c + 40000), freeNat s (100000 * i + 2 * c + 40001)))

/-- An array fails: STATE and ERR, and every record queued behind is marked up to the next programming (R255, R257). -/
def XArr.fail (a : XArr) (e : Nat) : XArr :=
  let isProg := fun (r : XRec) => match r.work with
    | .xprog _ => true
    | _ => false
  let q := a.queue.drop 1
  let n := q.findIdx isProg
  { a with state := .failed, err := e, prog := 0, queue := a.queue.take 1 ++ (q.take n).map (fun r => { r with failed := true }) ++ q.drop n }

/-- A calibration (R257): corrections, TEMPC, DRIFT; one that fails leaves the array FAILED. -/
def XArr.calibrate (a : XArr) (ok : Bool) (corr : List (Nat × Nat)) (temp : BitVec 16) : XArr :=
  let a := { a with corr := corr, tempc := temp, drift := 0, calibrated := true }
  if ok then a else a.fail 6

/-- Energies of the table, in units of 0.1 nJ (R267). -/
def joulesXmv : Nat := 42
def joulesXmva : Nat := 43
def joulesXcal : Nat := 360000
def joulesRow : Nat := 28000
def joulesVerifyRow : Nat := 3000

/-- The array of a record, when the record is at its head and the accesses before it are performed. -/
def xReady (s : State) (c x : Nat) : Option XRec := match xHead s c x with
  | some r => if forkReady s r.wave r.pend then some r else none
  | none => none

def xCtx (s : State) (c x : Nat) : Nat := (xarr s c x).owner.getD 0xFFFF

/-- Number `n` of the levels other than `w` (R253). -/
def otherLevel (w : Int) (n : Nat) : Int := if (n : Int) - 15 < w then (n : Int) - 15 else (n : Int) - 14

/-- A row whose write-verify rounds end with cells that miss their levels: which they are, one at least, and the levels they hold are
free (R253). -/
def missRowAt (s : State) (cells : Tab Int) (ws : List Byte) (r : Nat) : Tab Int :=
  (List.range 256).foldl (fun t col =>
    if col = freeNat s 60000 % 256 || freeBit s (60001 + col)
    then t.put 0 (256 * r + col) (otherLevel (weightAt ws r col) (freeNat s (60257 + col) % 30)) else t)
    (programRows cells ws r (r + 1))

/-- Programming runs from PROG on; `missRow` is a row with a cell that misses its level (R253). -/
def execXprogComplete (c x : Nat) (missRow : Option Nat) (calOk : Bool) (temp : BitVec 16) (s : State) : Res :=
  match xReady s c x with
  | none => .next s
  | some r => match r.work with
    | .xprog img =>
      let fail := fun (s : State) (a : XArr) (e : Nat) => endX (setXarr s c x (a.fail e)) c x r
      (match readWeights s c (xCtx s c x) img.toNat with
        | (s, .error e) => .next (fail s (xarr s c x) e)
        | (s, .ok (sh, crc, ws)) =>
          let a := xarr s c x
          let rows := (List.range 512).drop a.prog
          match rows.find? (fun r => rowBad ws r || missRow == some r) with
          | some r =>
            -- a row whose cells miss their level is written before the miss is found, a row out of range is not
            let hi := if rowBad ws r then r else r + 1
            let cells := programRows a.cells ws a.prog r
            .next (fail (chargeCore s c ((hi - a.prog) * joulesRow)) { a with cells := if rowBad ws r then cells else missRowAt s cells ws r }
              (if rowBad ws r then 4 else 5))
          | none =>
            let b := { a with state := .ready, cells := programRows a.cells ws a.prog 512, image := img, icrc := BitVec.ofNat 32 crc, sh := sh
                              pcount := min 65535 (a.pcount + 1), prog := 0 }
            .next (endX (setXarr (chargeCore s c ((512 - a.prog) * joulesRow + joulesXcal)) c x (b.calibrate calOk (freeCorr s) temp)) c x r))
    | _ => .next s

def execXverifyComplete (c x : Nat) (s : State) : Res :=
  match xReady s c x with
  | none => .next s
  | some r => match r.work with
    | .xverify img d =>
      (match readWeights s c (xCtx s c x) img.toNat with
        | (s, .error e) =>
          let s := setXarr s c x { xarr s c x with err := e }
          .next (endX (writeScaAt s r.wave d (2 ^ 64 - 1)) c x r)
        | (s, .ok (_, _, ws)) =>
          let cells := (xarr s c x).cells
          let n := ((List.range 131072).filter (fun i => cells.look 0 i != weightAt ws (i / 256) (i % 256))).length
          .next (endX (writeScaAt (chargeCore s c (512 * joulesVerifyRow)) r.wave d n) c x r))
    | _ => .next s

def execXcalComplete (c x : Nat) (calOk : Bool) (temp : BitVec 16) (s : State) : Res :=
  match xHead s c x with
  | none => .next s
  | some r => match r.work with
    | .xcal =>
      let a := xarr s c x
      .next (endX (if r.failed then s else setXarr (chargeCore s c joulesXcal) c x (a.calibrate calOk (freeCorr s) temp)) c x r)
    | _ => .next s

/-! ## Products (R246, R247, R255, R256) -/

def exactCol (a : XArr) (x : List Int) (col : Nat) : Int :=
  ((List.range 512).zip x).foldl (fun t p => t + a.cells.look 0 (256 * p.1 + col) * p.2) 0

/-- A delivered column: within the bound of the exact result unless the product drifted, then digitised to 16 bits; and whether it
saturated. `delta` is how far the array lies from the result rounded down. -/
def column (a : XArr) (x : List Int) (drifted : Bool) (col : Nat) (delta : Int) : Int × Bool :=
  let e := exactCol a x col
  let q := (2 : Int) ^ a.sh
  let b : Int := if a.calibrated then 4 else 8
  let y := e / q + delta
  let y := if drifted && !a.calibrated then y else max (-((-e) / q) - b) (min (e / q + b) y)
  (max (-32768) (min 32767 y), decide (y < -32768) || decide (32767 < y))

/-- n / d to the nearest integer, ties to even. -/
def roundHalfEven (n d : Int) : Int :=
  let q := n / d
  if 2 * (n % d) < d || (2 * (n % d) = d && q % 2 = 0) then q else q + 1

/-- The expected result of reference column j (R247). -/
def refExp (sh : Nat) (x : List Int) (j : Nat) : Int :=
  let sum := fun m => (((List.range 512).zip x).filter (fun p => p.1 % 8 = m)).foldl (fun t p => t + p.2) (0 : Int)
  roundHalfEven (15 * (sum j - sum (7 - j))) ((2 : Int) ^ sh)

/-- The errors of the eight references, as measured, against their expected results. -/
def refErrs (sh : Nat) (x meas : List Int) : List Int := (List.range 8).map (fun j => meas.getD j 0 - refExp sh x j)

/-- The reference with the largest error, the lowest of equals. -/
def worstRef (l : List Int) : Nat × Nat :=
  ((List.range 8).zip l).foldl (fun (m : Nat × Nat) p => if m.2 < p.2.natAbs then (p.1, p.2.natAbs) else m) (0, 0)

/-- The registers a product writes: values by lane and tag of each. -/
def productRegs (ys : List (Int × Bool)) (accs : Option (List (Vector Word 32) × List Byte × Nat)) (poison : Bool) : List (List (Nat × Nat) × Byte) :=
  (List.range 8).map (fun k =>
    let lane := fun l =>
      let y := (ys.getD (32 * k + l) (0, false)).1
      match accs with
      | none => (y, y)
      | some (vs, _, s) =>
        let v := toSigned 32 (((vs.getD k (Vector.replicate 32 0)).toList[l]?).getD 0).toNat + y * (2 : Int) ^ s
        (v, clampTo true 32 v)
    let ls := (List.range 32).map (fun l => (l, lane l))
    let past := (List.range 32).any (fun l => (ys.getD (32 * k + l) (0, false)).2) || ls.any (fun p => p.2.1 != p.2.2)
    let beta := match accs with
      | none => Bnd.mk 8 0
      | some (_, ts, s) => (tagBound (ts.getD k tagE)).add (Bnd.mk 8 s)
    (ls.map (fun p => (p.1, wrapTo 32 p.2.2)), if poison || past then tagP else boundTag beta))

/-- A product completes: results and tags, and a drift held for its observers and recorded (R256). -/
def completeProduct (s : State) (c x : Nat) (r : XRec) (xs : List Int) (accs : Option (List (Vector Word 32) × List Byte × Nat))
    (dst : List Nat) (dreg : Nat) (delta refMeas : List Int) : State :=
  let s := chargeCore s c (if accs.isSome then joulesXmva else joulesXmv)
  let a := xarr s c x
  let failed := r.failed
  let errs := refErrs a.sh xs refMeas
  let drifted := !failed && errs.any (fun e => decide (8 < e.natAbs))
  let ys := (List.range 256).map (fun col => column a xs (drifted || failed) col (delta.getD col 0))
  let regs := productRegs ys accs (drifted || failed)
  let homes := ((waveAt s r.wave).bind (fun w => w.pend.find? (fun p => p.id == r.pend))).elim [] (·.homes)
  let flag := ((waveAt s r.wave).bind (fun w => w.pend.find? (fun p => p.id == r.pend))).bind (·.flag)
  let s := (dst.zip regs).foldl (fun s p => writeLanes s r.wave homes p.1 p.2.1 p.2.2 false) s
  let w := worstRef errs
  let a' := { a with calibrated := a.calibrated && failed }
  let a' := if drifted then { a' with drift := min 255 (a.drift + 1), dreg := dreg, derr := min 255 w.2, dref := w.1 } else a'
  let s := endX (setXarr s c x a') c x r
  if drifted then modWave s r.wave (fun w => { w with deferred := w.deferred ++
    [{ cause := 0x115, detail := x, regs := [], flag := flag, cls := .xbar, origin := some r.id, run := dst.map w.unphys }] }) else s

def execXmvComplete (c x : Nat) (delta refMeas : List Int) (s : State) : Res :=
  match xHead s c x with
  | none => .next s
  | some r => match r.work with
    | .xmv xs dst dreg => .next (completeProduct s c x r xs none dst dreg delta refMeas)
    | .xmva xs accs tags sh dst dreg => .next (completeProduct s c x r xs (some (accs, tags, sh)) dst dreg delta refMeas)
    | _ => .next s

/-- A reference product: the errors, the temperature, zeros; on a FAILED array zeros of class P (R257). -/
def execXrefComplete (c x : Nat) (refMeas : List Int) (temp : BitVec 16) (s : State) : Res :=
  match xHead s c x with
  | none => .next s
  | some r => match r.work with
    | .xref p =>
      let a := xarr s c x
      let failed := r.failed
      let s := if failed then s else chargeCore s c joulesXmv
      let errs := refErrs a.sh ((List.range 512).map (fun r => if r % 8 < 4 then 64 else 0)) refMeas
      let val := fun l => if failed || 8 < l then 0 else if l = 8 then wrapTo 32 temp.toInt else wrapTo 32 (errs.getD l 0)
      let homes := ((waveAt s r.wave).bind (fun w => w.pend.find? (fun q => q.id == r.pend))).elim [] (·.homes)
      let s := writeLanes s r.wave homes p ((List.range 32).map (fun l => (l, val l))) (if failed then tagP else tagE) false
      .next (endX (setXarr s c x { a with calibrated := a.calibrated && failed }) c x r)
    | _ => .next s

end Sys2Proof.Machine
end

