-- ==== Sys2Proof/Machine/Save.lean ====
section
/-! DEFINITION. The context switch: saving, restoring and removing a context (18 R417 to R419, 19 R433, 03 R66, 04 R98, 05 R123,
10 R241, 11 R265, 15 R348, 16 R360, R363, 17 R397). -/

namespace Sys2Proof.Machine

/-! ## What belongs to a context -/

def ctxWaves (s : State) (ctx : Nat) : List (Nat × Wave) :=
  s.waves.filterMap (fun p => match p.2 with
    | some w => if ctxOf s w == ctx then some (p.1, w) else none
    | none => none)

def ctxBlocks (s : State) (ctx : Nat) : List (Nat × Block) :=
  s.blocks.filterMap (fun p => match p.2 with
    | some b => if b.ctx == ctx then some (p.1, b) else none
    | none => none)

def ctxCores (s : State) (ctx : Nat) : List Nat := s.cores.filterMap (fun p => if p.2.ctx == some ctx then some p.1 else none)

/-- A scarab with what the reserved rows of its channel hold of it while it is in self-refresh (17 R399). -/
def wholeScarab (s : State) (k : Nat) : Scarab :=
  let x := scarabAt s k
  if x.state != .selfRefresh then x
  else
    let y := (s.scRows.look none k).getD {}
    { x with state := .running, vregs := y.vregs, sregs := y.sregs, exec := y.exec, mregs := y.mregs, maskStack := y.maskStack
             flagCnt := y.flagCnt, flagOpen := y.flagOpen, open_ := y.open_, pcHdr := y.pcHdr, pcPos := y.pcPos }

def ctxScarabs (s : State) (ctx : Nat) : List (Nat × Scarab) := s.scarabs.filter (fun p => p.2.bound && p.2.ctx == ctx)

/-- Barriers that blocks of a context use. -/
def ctxBars (s : State) (bs : List (Nat × Block)) : List (Nat × Barrier) :=
  s.bars.filterMap (fun p => match p.2 with
    | some y => if bs.any (fun b => y.members.any (fun m => m / 32 == b.1)) then some (p.1, y) else none
    | none => none)

/-! ## CONTEXT_SAVE (R417) -/

/-- Whether a wave has nothing outstanding but records of engines. -/
def waveQuiet (w : Wave) : Bool :=
  w.pend.all (fun p => match p.work with
    | .engine _ => true
    | _ => false) &&
  (match w.hold with
    | .dictWait _ | .dictFailed _ => false
    | _ => true)

/-- Whether a core has stopped: no dictionary load, no register row on its way, the cox's stores drained. -/
def coreQuiet (s : State) (c : Nat) : Bool :=
  (s.core c).slots.all (fun p => p.2.state != .loading) &&
  (s.core c).tileQ.all (fun r => match r.work with
    | .trd _ _ _ _ _ _ _ _ | .twr _ _ _ _ _ => false
    | _ => true) && (coxAt s c).sbuf.isEmpty

/-- Whether a scarab stands at a clause boundary with no row operation or `colsend` outstanding (17 R397). -/
def scarabQuiet (x : Scarab) : Bool :=
  x.clause.all (fun c => c.pos == 0) && x.pend.all (fun p => match p.work with
    | .collRecv _ _ _ _ _ => true
    | _ => false)

def ctxQuiet (s : State) (ctx : Nat) : Bool :=
  (ctxWaves s ctx).all (fun p => waveQuiet p.2 && !p.2.fencing) && (ctxBlocks s ctx).all (fun p => !p.2.rolling) && (ctxCores s ctx).all (coreQuiet s) && (ctxScarabs s ctx).all (fun p => scarabQuiet p.2)

/-- Waits return to their words: `waitm` and `nap`, a barrier, a meeting, a page the driver is to map; a halt stays. -/
def returnWaits (met : Bool) (w : Wave) : Wave :=
  { w with
    hold := (match w.hold with
      | .waitm | .parked | .nap _ | .growth _ => .no
      | .meeting => if met then .no else .meeting
      | h => h)
    polls := 0, watch := [], polled := none, barWait := none, rdst := [] }

/-- The registers and stack entries of a wave go to their spill slots, but those of a shadowed block (R422). -/
def spillAll (s : State) (k : Nat) (w : Wave) : State :=
  if shadowedAt s w.block then s
  else
    let keep := fun (s : State) (r : Except Trapped State) => match r with
      | .ok t => t
      | .error _ => s
    let s := (residentRegs w).foldl (fun s n => keep s (spillReg s k n)) s
    (List.range (onChip w)).foldl (fun s _ => keep s (spillEntry s k)) s

/-- The clause a wave is in is kept as a resume point alone, to be decoded again on restore (03 R65, 02 R43); a trap entry that
waits for the driver keeps it. -/
def forgetClause (w : Wave) : Wave :=
  match w.hold with
  | .entryGrowth _ _ _ _ => w
  | _ => { (if w.clause.any (fun c => c.pos != 0) then markHead w else w) with clause := none }

def saveWave (s : State) (k : Nat) : State :=
  match waveAt s k with
  | none => s
  | some w =>
    let met := (blockAt s w.block).any (fun b => b.meeting.contains w.num)
    let s := sendClears s k w
    let w := forgetClause (returnWaits met w)
    spillAll (setWave s k w) k w

/-- A core whose context has left: its arrays stay programmed and owned (R265). -/
def leaveCore (ctx : Nat) (x : Core) : Core :=
  { x with slots := [], accs := [], fregs := [], tileQ := [], copies := [], chains := [], heldEvents := [], ctx := none
           arrays := x.arrays.map (fun p => if p.2.owner == some ctx then (p.1, { p.2 with queue := [] }) else p) }

/-- A running programming stops at a row boundary, a free one, with the rows below it written (R265). -/
def pauseArray (ctx c n : Nat) (s : State) : State :=
  let a := xarr s c n
  if a.owner != some ctx then s
  else match xReady s c n with
    | some r => (match r.work with
      | .xprog img => (match readWeights s c ctx img.toNat with
        | (_, .error _) => s
        | (s, .ok (_, _, ws)) =>
          let lim := ((List.range 512).drop a.prog).findIdx (rowBad ws)
          let p := a.prog + freeNat s (28 + n) % (lim + 1)
          setXarr (chargeCore s c ((p - a.prog) * joulesRow)) c n { a with cells := programRows a.cells ws a.prog p, prog := p })
      | _ => s)
    | none => s

/-- Move every part of a context into the save area. -/
def saveContext (s : State) (ctx : Nat) : State :=
  let s := (ctxWaves s ctx).foldl (fun s p => saveWave s p.1) s
  let s := (ctxBlocks s ctx).foldl (fun s p => setBlock s p.1 { p.2 with meeting := [], missed := [] }) s
  let cs := ctxCores s ctx
  let s := cs.foldl (fun s c => pauseChains (pauseCopies (pauseTiles s c) c) c) s
  let s := cs.foldl (fun s c => pauseArray ctx c 1 (pauseArray ctx c 0 s)) s
  let bs := ctxBlocks s ctx
  let ws := ctxWaves s ctx
  let bars := ctxBars s bs
  let scs := (ctxScarabs s ctx).map (fun p => (p.1, wholeScarab s p.1))
  let v : Saved := { ctx := ctx, cores := cs.map (fun c => (c, s.core c, coxAt s c)), waves := ws, blocks := bs, bars := bars, scarabs := scs }
  let s := ws.foldl (fun s p => { s with waves := s.waves.put none p.1 none }) s
  let s := bs.foldl (fun s p => { dropSpadKeys s p.1 with blocks := s.blocks.put none p.1 none }) s
  let s := bars.foldl (fun s p => { s with bars := s.bars.put none p.1 none }) s
  let s := cs.foldl (fun s c => setCox (s.setCore c (leaveCore ctx (s.core c))) c {}) s
  let s := scs.foldl (fun s p => setScarab { s with scRows := s.scRows.put none p.1 none } p.1 { p.2 with state := .saved, pend := [], msgs := [] }) s
  { s with saved := s.saved ++ [v] }

/-- A context stops, and once nothing of it is in flight it is saved. -/
def execContextSave (ctx : Nat) (s : State) : Res :=
  match contextAt s ctx with
  | none => .next s
  | some k =>
    if s.sys.anchorLost || s.saved.any (fun v => v.ctx == ctx) then .next s
    else if !k.saving then .next { s with contexts := s.contexts.put none ctx (some { k with saving := true }) }
    else .next (if ctxQuiet s ctx then saveContext s ctx else s)

/-! ## Other cores (R418) -/

/-- Where a core's part of a context goes. -/
def moveCore (m : List (Nat × Nat)) (c : Nat) : Nat := ((m.find? (fun p => p.1 == c)).map (·.2)).getD c

/-- A wave or block key on the new core. -/
def moveKey (m : List (Nat × Nat)) (k : Nat) : Nat := moveCore m (k / 64) * 64 + k % 64

def moveMember (m : List (Nat × Nat)) (x : Nat) : Nat := if 2 ^ 100 ≤ x then x else moveKey m (x / 32) * 32 + x % 32
def moveBarKey (m : List (Nat × Nat)) (k : Nat) : Nat := if k < 2 ^ 40 then moveKey m (k / 128) * 128 + k % 128 else k

def moveBar (m : List (Nat × Nat)) (p : Nat × Barrier) : Nat × Barrier :=
  (moveBarKey m p.1, { p.2 with members := p.2.members.map (moveMember m), arrived := p.2.arrived.map (moveMember m)
                                gone := p.2.gone.map (moveMember m) })

def moveHomes (m : List (Nat × Nat)) (h : Vector (Option Nat) 32) : Vector (Option Nat) 32 := h.map (fun o => o.map (moveKey m))

def moveWave (m : List (Nat × Nat)) (w : Wave) : Wave :=
  { w with
    block := moveKey m w.block
    barArrived := w.barArrived.map (fun p => (moveBarKey m p.1, p.2))
    comp := w.comp.map (fun c => { c with homes := moveHomes m c.homes })
    pend := w.pend.map (fun p => { p with homes := p.homes.map (fun o => o.map (moveKey m)) }) }

def moveBlock (m : List (Nat × Nat)) (b : Block) : Block :=
  { b with
    groups := b.groups.map (fun g => { g with
      homes := g.homes.map (moveKey m)
      waves := g.waves.map (fun c => { c with carrier := moveKey m c.carrier, homes := moveHomes m c.homes }) })
    mailbox := b.mailbox.map (fun x => (moveKey m x.1, x.2))
    mates := b.mates.map (fun p => (p.1, moveCore m (p.2 - 1) + 1))
    waysPend := b.waysPend.map (fun p => (p.1, moveKey m p.2.1, p.2.2))
    shadow := b.shadow.map (fun h => { h with
      waves := h.waves.map (fun p => (moveKey m p.1, moveWave m p.2))
      bars := h.bars.map (moveBar m) }) }

def moveAddr (m : List (Nat × Nat)) (a : TileAddr) : TileAddr := { a with blk := moveKey m a.blk }

def moveTileWork (m : List (Nat × Nat)) : TileWork → TileWork
  | .tmma fb a b kb ooff acc nt fr accum wout => .tmma fb (moveAddr m a) (moveAddr m b) kb ooff acc nt fr accum wout
  | .tcmp src dst kb rows fmt d => .tcmp (moveAddr m src) (moveAddr m dst) kb rows fmt d
  | .tbmp src dst kb rows fmt d => .tbmp (moveAddr m src) (moveAddr m dst) kb rows fmt d
  | .tmc src off bytes dsts => .tmc (moveAddr m src) off bytes (dsts.map (moveKey m))
  | w => w

def moveTile (m : List (Nat × Nat)) (r : TileRec) : TileRec :=
  { r with wave := moveKey m r.wave, blk := moveKey m r.blk, work := moveTileWork m r.work, peers := r.peers.map (fun p => (moveKey m p.1, p.2)) }

def moveCopy (m : List (Nat × Nat)) (r : CopyRec) : CopyRec := { r with wave := moveKey m r.wave, blk := moveKey m r.blk }

/-- A chain, the threads of its appends on the new cores. -/
def moveChain (m : List (Nat × Nat)) (ch : Chain) : Chain :=
  { ch with issued := ch.issued.map (fun x => { x with blk := moveKey m x.blk, who := { x.who with die := moveKey m x.blk / 2048 } }) }

def moveArr (m : List (Nat × Nat)) (a : XArr) : XArr := { a with queue := a.queue.map (fun r => { r with wave := moveKey m r.wave }) }

/-! ## CONTEXT_RESTORE (R418) -/

/-- Whether the cores named qualify for a saved context; one where another context owns an array that is to be claimed ends the
context (11 R265; assumption 117). -/
def restoreFits (s : State) (v : Saved) (m : List (Nat × Nat)) : Bool :=
  m.map (·.1) == v.cores.map (·.1) && (m.map (·.2)).Nodup &&
  s.sys.pwr == 0 && v.cores.all (fun p =>
    let c := moveCore m p.1
    let core := s.core c
    c < 256 && core.ctx.isNone && (coxAt s c).ctx.isNone && !(s.die (c / 32)).lost &&
    !(s.islands.look none (islandOf c)).any (fun i => i.gated) && !(s.islands.look none (c / 32 * 2 + 1)).any (fun i => i.gated) &&
    p.2.1.slots.all (fun q => (core.slots.look {} q.1).state == .empty)) &&
  v.blocks.all (fun a => v.blocks.all (fun b => a.2.cluster != b.2.cluster || moveCore m (a.1 / 64) / 32 == moveCore m (b.1 / 64) / 32)) &&
  v.scarabs.all (fun p =>
    let x := scarabAt s p.1
    !x.bound && s.sys.chans.look .on p.1 == .on)

/-- The dictionaries of a core's part, loaded again and compared; or the image that has changed with its slot. -/
def reloadSlots (c ctx : Nat) : State → List (Nat × DictSlot) → Except (Nat × DWord) State
  | s, [] => .ok s
  | s, (n, x) :: r =>
    let put := fun (s : State) (x : DictSlot) => s.setCore c { s.core c with slots := (s.core c).slots.put {} n x }
    if x.state != .ready then reloadSlots c ctx (put s x) r
    else match loadDict s c ctx x.image.toNat with
      | (s, l) =>
        if l.status = 0 && BitVec.ofNat 32 l.icrc == x.icrc then reloadSlots c ctx (put s { x with entries := l.entries }) r
        else .error (n, x.image)

/-- An array on another core: programmed again from its image and calibrated, one programming more of the array there; or the image that
has changed. Whether its programming and its calibration succeed, and the temperature, are free. -/
def reprogram (s : State) (c ctx n : Nat) (a : XArr) : Except DWord State :=
  let put := fun (s : State) (a : XArr) => setXarr s c n a
  let b := xarr s c n
  let j := 2 * c + n + 1
  let a := { a with cells := b.cells, pcount := b.pcount, prog := 0 }
  if a.state != .ready then .ok (put s a)
  else match readWeights s c ctx a.image.toNat with
    | (s, .ok (_, crc, ws)) =>
      if BitVec.ofNat 32 crc != a.icrc || (List.range 512).any (rowBad ws) || freeBit s (100000 * j + 60600) then .error a.image
      else .ok (put (chargeCore s c (512 * joulesRow + joulesXcal)) ({ a with cells := programRows [] ws 0 512, pcount := min 65535 (a.pcount + 1) }.calibrate
        (!freeBit s (100000 * j + 60601)) (freeCorr s j) (BitVec.ofNat 16 (freeNat s (100000 * j + 60602)))))
    | (_, .error _) => .error a.image

/-- The arrays of a core's part; or the array whose image has changed or that another context owns, with its image (R265). -/
def restoreArrays (m : List (Nat × Nat)) (old c ctx : Nat) : State → List (Nat × XArr) → Except (Nat × DWord) State
  | s, [] => .ok s
  | s, (n, a) :: r =>
    if a.owner != some ctx then restoreArrays m old c ctx s r
    else if (xarr s c n).owner.any (fun o => o != ctx) then .error (n, a.image)
    else if old = c then restoreArrays m old c ctx (setXarr s c n { xarr s c n with queue := (moveArr m a).queue }) r
    else match reprogram s c ctx n (moveArr m a) with
      | .error e => .error (n, e)
      | .ok s => restoreArrays m old c ctx s r

/-- The arrays a context owns on the cores it leaves become unowned, before any is claimed. -/
def freeArrays (m : List (Nat × Nat)) (ctx : Nat) (s : State) (p : Nat × Core × Cox) : State :=
  if moveCore m p.1 = p.1 then s
  else p.2.1.arrays.foldl (fun s q =>
    if q.2.owner == some ctx then setXarr s p.1 q.1 { xarr s p.1 q.1 with owner := none, state := .empty, queue := [] } else s) s

/-- A part of every saved core comes back in turn, or its core with the error. -/
def eachCore (m : List (Nat × Nat)) (f : State → Nat → Nat → Core → Except (Nat × DWord) State) :
    State → List (Nat × Core × Cox) → Except (Nat × Nat × DWord) State
  | s, [] => .ok s
  | s, (old, core, _) :: r => match f s old (moveCore m old) core with
    | .error e => .error (moveCore m old, e)
    | .ok s => eachCore m f s r

/-- The dictionaries of every core first, then the arrays (R417); or the core, the slot or array, and the image that has changed. -/
def restoreImages (m : List (Nat × Nat)) (ctx : Nat) (s : State) (l : List (Nat × Core × Cox)) : Except (Nat × Nat × DWord) State :=
  match eachCore m (fun s _ c core => reloadSlots c ctx s core.slots) s l with
  | .error e => .error e
  | .ok s => eachCore m (fun s old c core => restoreArrays m old c ctx s core.arrays) s l

/-- A core takes the engine records, buffers and cox of a saved context; chains on another core name it (R363). -/
def restoreCore (m : List (Nat × Nat)) (ctx : Nat) (s : State) (p : Nat × Core × Cox) : State :=
  let c := moveCore m p.1
  let o := p.2.1
  let s := s.setCore c { s.core c with
    accs := o.accs, fregs := o.fregs, tileQ := o.tileQ.map (moveTile m), copies := o.copies.map (moveCopy m), chains := o.chains.map (moveChain m)
    heldEvents := o.heldEvents, ctx := some ctx }
  let s := if c = p.1 then s else o.chains.foldl (fun s ch => engPoke s {} c ctx (ch.hdr.toNat + 0x28) 8 (ctx + c * 2 ^ 16 + 2 ^ 24)) s
  -- its instruction cache is invalidated (04 R79)
  setCox (freshSight s (agCox c)) c { p.2.2 with icache := [] }

/-- A restored wave, its registers read back from their spill slots. -/
def restoreWave (m : List (Nat × Nat)) (s : State) (p : Nat × Wave) : State :=
  let k := moveKey m p.1
  let w := moveWave m p.2
  let s := setWave (freshSight s (agWave k)) k w
  if shadowedAt s w.block then s
  else (residentRegs w).foldl (fun s n => match refillReg s k n with
    | .ok t => t
    | .error _ => s) s

/-- Everything but dictionaries and arrays. -/
def restoreRest (s : State) (v : Saved) (m : List (Nat × Nat)) : State :=
  let s := v.blocks.foldl (fun s p => setBlock s (moveKey m p.1) (moveBlock m p.2)) s
  let s := v.bars.foldl (fun s p => let q := moveBar m p; { s with bars := s.bars.put none q.1 (some q.2) }) s
  let s := v.waves.foldl (restoreWave m) s
  let s := v.cores.foldl (restoreCore m v.ctx) s
  let s := v.scarabs.foldl (fun s p => setScarab (freshSight s (agScarab p.1)) p.1 p.2) s
  -- the L1 of a core gives its scratchpads their ways (01 R16)
  let s := v.cores.foldl (fun s p => convertWays s (moveCore m p.1)) s
  { s with saved := s.saved.filter (fun x => x.ctx != v.ctx)
           contexts := s.contexts.map (fun p => (p.1, p.2.map (fun k => if p.1 = v.ctx then { k with saving := false } else k))) }

/-- A context that cannot resume: its launch completes with class 7, which carries the slot or array number (03 R66, 11 R265). -/
def dropSaved (s : State) (v : Saved) (l c n : Nat) (image : DWord) : State :=
  let s := loseOps s v
  let s := { s with saved := s.saved.filter (fun x => x.ctx != v.ctx) }
  let s := v.scarabs.foldl (fun s p => endScarab s p.1) s
  modLaunch (inBand s l { cls := 7, unit := 1, unitIx := c, addr := image, num := n }) l (fun x => { x with unplaced := [], rowBlocks := [], toEnd := 0 })

def execContextRestore (ctx : Nat) (cores : List (Nat × Nat)) (s : State) : Res :=
  match contextAt s ctx, s.saved.find? (fun v => v.ctx == ctx) with
  | some k, some v =>
    let runs := (launchAt s k.launch).any (fun x => (slotOf s x.queue).any (fun q => !q.2.suspended))
    if s.sys.anchorLost || !runs || !restoreFits s v cores then .next s
    else match restoreImages cores ctx (v.cores.foldl (freeArrays cores ctx) s) v.cores with
      | .error (c, n, image) => .next (dropSaved s v k.launch c n image)
      | .ok s => .next (restoreRest s v cores)
  | _, _ => .next s

/-! ## CONTEXT_REMOVE (R433) -/

/-- What a core loses with a context that is removed. -/
def clearCore (ctx : Nat) (x : Core) : Core :=
  let x := { x with arrays := x.arrays.map (fun p => if p.2.owner == some ctx then (p.1, { p.2 with owner := none, state := .empty, queue := [] }) else p) }
  if x.ctx == some ctx then
    { x with slots := [], accs := [], fregs := [], tileQ := [], copies := [], chains := [], heldEvents := [], ctx := none }
  else x

/-- A completed launch's context leaves every core, and its translations every TLB. -/
def removeContext (s : State) (ctx : Nat) : State :=
  let cs := ctxCores s ctx
  let s := cs.foldl (fun s c => setCox s c {}) s
  let s := { s with cores := s.cores.map (fun p => (p.1, clearCore ctx p.2)), contexts := s.contexts.put none ctx none }
  tlbiDrop s ctx none

def execContextRemove (ctx : Nat) (s : State) : Res :=
  match contextAt s ctx with
  | none => .next s
  | some k =>
    -- the stores its coxes have retired since reach their homes first (04 R90)
    if !(launchAt s k.launch).any (fun x => x.state == .completed && x.ctx == ctx) || s.sys.anchorLost then .next s
    else if coxesDrained s ctx then .next (removeContext s ctx)
    else .next { s with contexts := s.contexts.put none ctx (some { k with saving := true }) }

end Sys2Proof.Machine
end

