-- ==== Sys2Proof/Machine/Sync.lean ====
section
/-! DEFINITION. Named barriers and waits (15 R343 to R351). -/

namespace Sys2Proof.Machine

/-! ## Barriers (R346, R347) -/

/-- Name and parity of OPMOD. -/
def barName (t : TOp) : Nat := t.opmod.toNat % 128

def setBar (s : State) (key : Nat) (x : Barrier) : State := { s with bars := s.bars.put none key (some x) }

/-- Causes 0x140, 0x143, 0x142 and 0x141 in their order. -/
def barFault (w : Wave) (x : Option Barrier) (arrives waits : Bool) : Option Nat :=
  let me := w.block * 32 + w.num
  match x with
  | none => some 0x140
  | some x =>
    if arrives && !x.members.contains me then some 0x140
    else if w.comp.isSome then some 0x143
    else if arrives && x.arrived.contains me then some 0x142
    else if (arrives || waits) && x.broken then some 0x141
    else none

/-- Issue a barrier word: `f` gets the block, the barrier's key and the barrier. -/
def barDo (t : TOp) (s : State) (g : Wave → Gate) (f : State → Nat → Wave → Nat → Option Barrier → Eff) : Res :=
  waveDo s g (fun s k w => match blockAt s w.block with
    | none => .trap { cause := 0x140 }
    | some b =>
      let key := barKey w.block b (barName t)
      f s k w key (s.bars.look none key))

/-- The wave arrives: a release that a cluster or grid barrier makes visible, and the phase completes with the last. -/
def arriveAt (s : State) (w : Wave) (key : Nat) (x : Barrier) : State :=
  let s := if 2 ^ 40 ≤ key then modBlock (escape s w.block) w.block (fun b => { b with crossed := (key :: b.crossed).eraseDups }) else s
  let y := settleBarrier { x with arrived := x.arrived ++ [w.block * 32 + w.num] }
  let s := setBar s key y
  if y.phase != x.phase then phaseDone s key else s

def execBarv (t : TOp) (s : State) : Res :=
  barDo t s (fun _ => {}) (fun s k w key x => match barFault w x true false, x with
    | some c, _ => .trap { cause := c }
    | none, some x =>
      let n := barScope (barName t)
      if fenceBusy w.pend 2 n || portPending s k n then .hold s else .done (arriveAt (releaseWork s (agWave k) n) w key x)
    | none, none => .trap { cause := 0x140 })

/-- Leave a wait: an acquire at the level's scope that synchronises with the arrivals of the latest phase (R347). -/
def leaveBar (s : State) (k : Nat) (w : Wave) (n : Nat) (x : Option Barrier) : Eff :=
  let s := setWave s k { w with barWait := none, barOpen := false, barArrived := none }
  .done (acquireAt (joinTo s (agWave k) (x.elim 0 (·.at_))) (agWave k) (coreOf k) (ctxOf s w) (barScope n))

/-- Whether every member has exited: each phase completes as it begins (R345). -/
def Barrier.deserted (x : Barrier) : Bool := !x.broken && x.members.length != 0 && x.members.all (fun m => x.gone.contains m)

def execBarw (t : TOp) (s : State) : Res :=
  barDo t s (fun _ => {}) (fun s k w key x =>
    if w.barOpen then leaveBar s k w (barName t) x
    else match barFault w x false true, x with
    | some c, _ => .hold (raiseWord (setWave s k { w with barWait := none }) k { cause := c })
    | none, some x =>
      if x.phase != bitOf t.opmod 7 then leaveBar s k w (barName t) (some x)
      else if x.deserted then leaveBar (setBar s key { x with phase := !x.phase }) k w (barName t) (some x)
      else .hold (setWave s k { w with barWait := some key })
    | none, none => .trap { cause := 0x140 })

/-- Arrives once, then waits for the phase to end. -/
def execBars (t : TOp) (s : State) : Res :=
  barDo t s (fun _ => {}) (fun s k w key x =>
    let here := match w.barArrived with
      | some (j, p) => if j = key then some p else none
      | none => none
    if w.barOpen then leaveBar s k w (barName t) x
    else match barFault w x here.isNone true, x with
    | some c, _ => .hold (raiseWord (setWave s k { w with barWait := none, barArrived := none }) k { cause := c })
    | none, some x => (match here with
      | some p => if x.phase == p then .hold (setWave s k { w with barWait := some key }) else leaveBar s k w (barName t) (some x)
      | none =>
        let n := barScope (barName t)
        if fenceBusy w.pend 2 n || portPending s k n then .hold s
        else
          let w := { w with barArrived := some (key, x.phase), barWait := some key }
          .hold (arriveAt (releaseWork (setWave s k w) (agWave k) n) w key x))
    | none, none => .trap { cause := 0x140 })

/-- Phase, arrivals of the phase, and members that have neither arrived nor exited. A member that has exited counts as arrived. -/
def barqValue (x : Barrier) : Nat :=
  x.phase.toNat + ((x.members.filter (fun m => x.arrived.contains m || x.gone.contains m)).length % 2 ^ 31) * 2 +
    (x.members.filter (fun m => !x.arrived.contains m && !x.gone.contains m)).length * 2 ^ 32

def execBarq (t : TOp) (s : State) : Res :=
  barDo t s (fun _ => { writes := [.s (opndIx t.d)] }) (fun s k w _ x => match barFault w x false false, x with
    | some c, _ => .trap { cause := c }
    | none, some x => .done (writeScaAt s k (opndIx t.d) (barqValue x))
    | none, none => .trap { cause := 0x140 })

/-! ## waitm (R349, R350) -/

def waitCond (c a b : Nat) : Bool :=
  match c with
  | 0 => a == b
  | 1 => a != b
  | 2 => decide (a < b)
  | 3 => decide (a ≤ b)
  | 4 => decide (b < a)
  | _ => decide (b ≤ a)

/-- The lines an access names, as watch numbers. -/
def watchLines (s : State) (ls : List (Nat × List Loc)) : List Nat :=
  (ls.flatMap (fun p => p.2.map (fun x => match x with
    | .phys a _ _ => physNorm s a / 128
    | .spad b o => spadLine b o))).eraseDups

/-- The unit that watches a line: a home slice, or a core's scratchpad unit. -/
def watchUnit (l : Nat) : Nat :=
  if 2 ^ 60 ≤ l then 2 ^ 20 + (l - 2 ^ 60) / 2 ^ 20 / 64 else homeStack (l * 128) * 8 + homeSlice (l * 128)

/-- Watches a unit holds. -/
def watchCount (s : State) (u : Nat) : Nat :=
  s.waves.foldl (fun n p => match p.2 with
    | some w => if w.hold == .parked then n + (w.watch.filter (fun l => watchUnit l == u)).length else n
    | none => n) 0

/-- Park a wave, with watches on its lines where their units have room for all of them. -/
def parkWave (s : State) (k : Nat) (w : Wave) (ls : List Nat) : State :=
  let room := (ls.map watchUnit).eraseDups.all (fun u => watchCount s u + (ls.filter (fun l => watchUnit l == u)).length ≤ 1024)
  setWave s k { w with hold := .parked, polls := 0, watch := if room then ls else [] }

/-- A failed poll: the wave polls again, or after 64 of them is parked, by the unit that served the last of them: `current` says that
that poll saw what its bytes now hold. One that is parked stays so (R350). -/
def waitAgain (s : State) (k : Nat) (w : Wave) (ls : List Nat) (current : Bool) : State :=
  if w.hold == .parked then s
  else if 63 ≤ w.polls && current then parkWave s k w ls
  else setWave s k { w with hold := .waitm, polls := min 63 (w.polls + 1), watch := [] }

/-- The wave goes on past its `waitm`. -/
def waitDone (t : TOp) (s : State) (k : Nat) (w : Wave) : Eff :=
  let s := modWave s k (fun w => { w with hold := .no, polled := none })
  .done (if bitOf t.opmod 3 then acquireAt s (agWave k) (coreOf k) (ctxOf s w) (t.opmod.toNat / 16) else s)

/-- One poll of checked addresses: every active lane's condition at once. -/
def waitPoll (t : TOp) (s : State) (k : Nat) (w : Wave) (ls : List (Nat × List Loc)) : Eff :=
  let v := waveView s k w
  let parts := loadParts ls
  if olderConflict s w.pend w.nextId parts || portBlocked s k 0 parts then .hold s
  else match readParts s k (ctxOf s w) 2 (installs s (coreOf k)) parts with
    | (s, gs) =>
      if gs.any (fun g => g.2.bad) then
        .hold (raiseWord (modWave (coreRecord s (coreOf k) 3 (ctxOf s w) errData (firstPhys parts)) k (fun w => { w with polled := none })) k
          { cause := 0x086 })
      else if gs.all (fun g => waitCond (t.opmod.toNat % 8) g.2.val (srcBits v t t.fmt t.c g.1)) then waitDone t s k w
      else match waveAt s k with
        | some w => .hold (waitAgain s k w (watchLines s ls)
            (((List.range ls.length).zip ls).all (fun p => (gs[p.1]?).any (fun g => holdsNow s p.2.2 g.2.val))))
        | none => .hold s

/-- The word's first turn checks its addresses (R349) and polls; while 15 other waves poll it is parked at once (R350). -/
def waitmEff (t : TOp) (s : State) (k : Nat) (w : Wave) : Eff :=
  match w.polled with
  | some ls => waitPoll t s k w ls
  | none =>
    let v := waveView s k w
    let n := fmtBits t.fmt / 8
    let lanes := v.active.map (fun l => (l, accAddr v t 0 false l))
    match checkLanes s k w { size := n, align := n, read := true } lanes with
    | (_, .error e) => .trap e
    | (s, .ok []) => waitDone t s k w
    | (s, .ok ls) =>
      let w := { w with polled := some ls }
      if pollersFull s k then .hold (parkWave s k w (watchLines s ls)) else waitPoll t (setWave s k w) k w ls

def execWaitm (t : TOp) (s : State) : Res := opDo 0x2C4 t s (waitmEff t)

/-- The next poll of a wave that waits, of one parked without a watch, or of one whose line another package holds. -/
def execWaitmPoll (k : Nat) (s : State) : Res :=
  match waveAt s k with
  | none => .next s
  | some w =>
    if w.hold == .waitm || (w.hold == .parked && (w.watch.isEmpty || w.watch.any (fun l => isPeer s (l * 128)))) then
      match w.clause.bind clauseInstr with
      | some (.word (.waitm t)) => .next (finish s k (waitmEff t s k w))
      | _ => .next s
    else .next s

/-! ## waitf, nap (R351) -/

def execWaitf (t : TOp) (s : State) : Res :=
  let f := t.opmod.toNat % 16
  waveDo s (fun w => { sees := fun d => d.flag == some f && !w.flagPending f })
    (fun s k w => if w.flagPending f then .hold s else .done (joinEngines s (agWave k)))

def execNap (t : TOp) (s : State) : Res :=
  opDo 0x2C6 t s (fun s k w =>
    let a := toSigned 64 (srcBits (waveView s k w) t .n64 t.a 0) + toSigned 32 t.imm.toNat
    let n := (max 0 (min a (2 ^ 20))).toNat
    if n = 0 then .done s else .hold (setWave s k { w with hold := .nap n }))

def execNapExpire (k : Nat) (s : State) : Res :=
  match waveAt s k with
  | none => .next s
  | some w => match w.hold with
    | .nap _ => .next (retireWord (setWave s k { w with hold := .no }) k)
    | _ => .next s

end Sys2Proof.Machine
end

