-- ==== Sys2Proof/Machine/System.lean ====
section
/-! DEFINITION. Events of the package: replays, meters and the power cap, accounts, power states, security and debug states, reset, the
loss of dies, and writes to management registers (01 R20 to R24, 18 R426, 20 R449 to R460). -/

namespace Sys2Proof.Machine

/-! ## Replays (18 R426) -/

def island (s : State) (n : Nat) : Island := (s.islands.look none n).getD (defaultIsland n)
def setIsland (s : State) (n : Nat) (x : Island) : State := { s with islands := s.islands.put none n (some x) }

/-- A corrected record of an island: its compute die's, or the first base die's of its pair. -/
def islandRecord (s : State) (n : Nat) : State :=
  if n < 16 then writeRecord s (256 + n / 2) (mkRecord s 1 2 (n / 2 * 32) 0xFFFF errStorm (n / 2) none)
  else stackRecord s (2 * (n - 16)) 1 3 (2 * (n - 16) * 16) errStorm none

/-- One replay; the one that reaches LIMIT in its window is a storm: a step of 25 MHz down. -/
def execTimingReplay (n : Nat) (s : State) : Res :=
  let x := island s n
  if 24 ≤ n || x.gated then .next s
  else
    let x := { x with count := min 65535 (x.count + 1) }
    if (island s n).count < max 1 x.limit && max 1 x.limit ≤ x.count then
      .next (islandRecord (setIsland s n { x with steps := min 255 (x.steps + 1), storms := min 65535 (x.storms + 1)
                                                  mhz := BitVec.ofNat 16 (x.mhz.toNat - 25) }) n)
    else .next (setIsland s n x)

def execReplayWindowEnd (n : Nat) (s : State) : Res :=
  if 24 ≤ n then .next s else .next (setIsland s n { island s n with count := 0 })

def execReplayStepUp (n : Nat) (s : State) : Res :=
  let x := island s n
  if 24 ≤ n || x.steps = 0 then .next s
  else .next (setIsland s n { x with steps := x.steps - 1, mhz := BitVec.ofNat 16 (x.mhz.toNat + 25) })

/-! ## Meters, accounts, the cap (20 R450 to R452) -/

/-- The driver begins a new accounting period. -/
def execAcctuseWrite (n : Nat) (v : DWord) (s : State) : Res :=
  if 128 ≤ n || s.sys.anchorLost then .next s else .next { s with acctUse := s.acctUse.put 0 n (fieldOf v 0 48) }

/-- CAPCFG's fields; a locked register keeps its value. -/
def execCapcfgWrite (v : DWord) (s : State) : Res :=
  if bitOf s.sys.capcfg 63 || s.sys.anchorLost then .next s
  else .next { s with sys := { s.sys with capcfg := BitVec.ofNat 64 (fieldOf v 63 1 * 2 ^ 63 + fieldOf v 0 48) } }

/-- WATTS in force. -/
def capWatts (v : DWord) : Nat := let w := fieldOf v 0 16; if w = 0 || 2800 < w then 2800 else w

/-- An island's part of the design allocation (01 R15). -/
def allocation (n : Nat) : Nat := if n < 16 then 100 else 130

/-- The shares of the islands: the cap in proportion to the allocation weighted by planned work, none for a gated island. -/
def shares (s : State) (weights : List Nat) : List Nat :=
  let w := (List.range 24).map (fun n => if (island s n).gated then 0 else allocation n * (weights[n]?).getD 0)
  let total := w.foldl (· + ·) 0
  w.map (fun x => capWatts s.sys.capcfg * x / max 1 total)

/-- Energy of meters 0 to 24 in µJ. -/
def totalEnergy (s : State) : Nat := (List.range 25).foldl (fun n i => n + (s.meters.look 0 i).toNat) 0

/-- WINDOW in ms. -/
def capWindow (v : DWord) : Nat := max 1 (fieldOf v 32 8)

/-- Energy at the start of the rolling window: at the last tick that lies a whole window back, or none since package reset. -/
def windowStart (s : State) : Nat :=
  ((s.sys.hist.filter (fun h => h.1 + capWindow s.sys.capcfg * 1200000 ≤ s.time)).getLast?).elim 0 (·.2)

/-- The clock and voltage of an island: its own, or while throttled whatever keeps it within its share, not below 400 MHz. -/
def throttleIsland (s : State) (on : Bool) (n : Nat) (x : Island) : Island :=
  let base := (Config.islandMhz n).toNat - 25 * x.steps
  let f := if on && decide (400 < base) then 400 + freeNat s (700000 + n) % (base - 400 + 1) else base
  { x with mhz := BitVec.ofNat 16 f, mv := if on then BitVec.ofNat 16 (freeNat s (710000 + n)) else Config.islandMv n
           duty := on && decide (f ≤ 400) && freeBit s (720000 + n) }

/-- The rolling sum is taken: the window's measurement sets or clears THROTTLING and ADMITSTOP (assumption 60). -/
def judgeWindow (s : State) : State :=
  if s.sys.anchorLost then s else
  let total := totalEnergy s
  let used := total - windowStart s
  let ms := capWindow s.sys.capcfg
  let ewin := fieldOf s.sys.capcfg 16 16
  let past := decide (capWatts s.sys.capcfg * 1000 * ms < used) || (ewin != 0 && decide (ewin * 10 ^ 6 < used))
  let old := s.sys.hist.filter (fun h => h.1 + ms * 1200000 ≤ s.time)
  let sys := { s.sys with
    avgw := min 65535 (used / (1000 * ms)), throttling := past, admitStop := past
    hist := (old.getLast?).toList ++ s.sys.hist.filter (fun h => s.time < h.1 + ms * 1200000) ++ [(s.time, total)]
    throttles := if past && !s.sys.throttling then min 65535 (s.sys.throttles + 1) else s.sys.throttles }
  if past = s.sys.throttling then { s with sys := sys }
  else { s with sys := sys, islands := (List.range 24).map (fun n => (n, some (throttleIsland s past n (island s n)))) }

/-- Cores of an island, and channels of one of a pair of stacks. -/
def islandCores (n : Nat) : List Nat := if n < 16 then (List.range 16).map (fun i => n * 16 + i) else []
def islandChans (n : Nat) : List Nat := if n < 16 then [] else (List.range 32).map (fun i => (n - 16) * 32 + i)

/-- Contexts on an island. -/
def islandCtxs (s : State) (n : Nat) : List Nat :=
  (islandCores n).filterMap (fun c => (s.core c).ctx) ++
  (islandChans n).filterMap (fun k => let x := scarabAt s k; if x.bound then some x.ctx else none)

/-- The parts of an island's energy that its contexts take: what the activity counts divide is measured, so each part is free and all of them
make up the whole (R451, assumption 109). -/
def divideEnergy (s : State) : Nat → List Nat → List (Nat × Nat)
  | _, [] => []
  | e, [c] => [(c, e)]
  | e, c :: r => let x := freeNat s (740000 + c) % (e + 1); (c, x) :: divideEnergy s (e - x) r

/-- A meter takes the energy of its island, in µJ: what its engines charged, whole µJ of it, and the rest, which is measured. It is divided
among the contexts on the island, and the rolling sum follows. -/
def execMeterTick (n energy : Nat) (s : State) : Res :=
  if 25 ≤ n then .next s
  else
    let e := energy + s.charged.look 0 n / 10000
    .next (judgeWindow { s with
      meters := s.meters.put 0 n (s.meters.look 0 n + BitVec.ofNat 64 e)
      charged := s.charged.put 0 n (s.charged.look 0 n % 10000)
      ctxMeter := (if n < 24 then divideEnergy s e (islandCtxs s n).eraseDups else []).foldl (fun t p => t.put 0 p.1 (t.look 0 p.1 + p.2)) s.ctxMeter })

/-- The 100 µs distribution: every island gets its share, and while throttled keeps within it. -/
def execCapDistribute (weights : List Nat) (s : State) : Res :=
  if s.sys.anchorLost then .next s
  else
    let sh := shares s weights
    .next { s with islands := (List.range 24).map (fun n =>
      (n, some (throttleIsland s s.sys.throttling n { island s n with limw := (sh[n]?).getD 0 % 65536 }))) }

/-! ## Registers as software reads them -/

/-- ISLVF: a gated island reads no clock and no voltage. -/
def islvf (s : State) (n : Nat) : Nat :=
  let x := island s n
  x.limw * 2 ^ 48 + (if x.gated then 0 else x.mv.toNat * 2 ^ 16 + x.mhz.toNat)

/-- ISLREPLAY. -/
def islreplay (s : State) (n : Nat) : Nat :=
  let x := island s n
  x.count * 2 ^ 48 + x.limit * 2 ^ 32 + x.steps * 2 ^ 24 + x.storms

/-- CAPST. -/
def capst (s : State) : Nat :=
  s.sys.avgw * 2 ^ 48 + s.sys.throttles * 2 ^ 32 + s.sys.admitStop.toNat * 2 + s.sys.throttling.toNat

def Sys.conf (x : Sys) : Bool := !x.running.isEmpty

/-- PWR of SECST: A1 while an island is gated. -/
def pwrState (s : State) : Nat :=
  if s.sys.pwr = 0 then (if s.islands.any (fun p => p.2.any (fun i => i.gated)) then 1 else 0) else s.sys.pwr

/-- SECST. -/
def secst (s : State) : Nat := s.sys.conf.toNat * 2 ^ 6 + pwrState s * 2 ^ 4 + s.sys.dbg * 2 ^ 2 + s.sys.life

def PortState.code : PortState → Nat
  | .down => 0
  | .training => 1
  | .up => 2
  | .draining => 3
  | .drained => 4

/-- PORTST. -/
def portst (s : State) (n : Nat) : Nat :=
  let p := s.ports.look {} n
  p.timeouts * 2 ^ 48 + p.retries * 2 ^ 32 + p.failLane.toNat * 2 ^ 20 + p.spare.toNat * 2 ^ 19 + p.state.code * 2 ^ 16 + p.pool.toNat

def ScarabState.code : ScarabState → Nat
  | .idle => 0
  | .running => 1
  | .selfRefresh => 2
  | .stopped => 3
  | .saved => 4

/-- SCSTAT (17 R400). -/
def scstat (s : State) (k : Nat) : Nat :=
  let x := scarabAt s k
  x.ctx % 2 ^ 16 * 2 ^ 48 + x.block % 2 ^ 16 * 2 ^ 32 + x.cause % 2 ^ 9 * 2 ^ 23 + x.msgs.length * 2 ^ 18 + x.open_.length * 2 ^ 13 + x.state.code

/-! ## Security and debug states (R453, R454) -/

/-- Whether the table of R454 allows a lifecycle, debug and power state together; `halted` says that a halted block would be on a
gated island. -/
def stateAllowed (life dbg pwr : Nat) (session conf halted : Bool) : Bool :=
  if dbg != 2 then true
  else if 2 ≤ pwr then false
  else match life with
    | 1 => session
    | 2 => session && !conf
    | _ => !(pwr == 1 && halted)

/-- Whether a block of the cores of an island is halted. -/
def haltedOn (s : State) (n : Nat) : Bool :=
  n < 16 && s.blocks.any (fun p => p.1 / 64 / 16 == n && p.2.any (fun b => b.halted))

def haltedGated (s : State) : Bool := (List.range 16).any (fun n => (island s n).gated && haltedOn s n)

/-- A request to the security processor completes with a status: 4 where it is refused, which changes nothing else (R454, R455). -/
def answered (s : State) (status : Nat) : State := { s with sys := { s.sys with answer := status } }

/-- A debug request; a mode that DBG has no name for changes nothing. -/
def execDebugRequest (mode : BitVec 2) (s : State) : Res :=
  if mode = 3 || s.sys.anchorLost then .next s
  else if !stateAllowed s.sys.life mode.toNat (pwrState s) s.sys.session s.sys.conf (haltedGated s) then .next (answered s 4)
  else .next (answered { s with sys := { s.sys with dbg := mode.toNat } } 0)

/-- A confidential guest is bound only in Deployed, and not under halt-and-inspect. -/
def execTdispBind (vf : Nat) (s : State) : Res :=
  if 128 ≤ vf || s.sys.anchorLost || s.sys.running.contains vf then .next s
  else if s.sys.life != 2 || s.sys.dbg = 2 then .next (answered s 4)
  else .next (answered { s with sys := { s.sys with running := s.sys.running ++ [vf] } } 0)

def execTdispRunExit (vf : Nat) (s : State) : Res :=
  if s.sys.anchorLost then .next s
  else .next { s with sys := { s.sys with running := s.sys.running.filter (fun v => v != vf) } }

def execSpdmSession (on : Bool) (s : State) : Res :=
  if s.sys.anchorLost then .next s else .next { s with sys := { s.sys with session := on } }

/-- The bytes of the package's own stacks are gone; what lies in second-tier memory stays. -/
def eraseStacks (s : State) : State :=
  let pool := fun (a : Nat) => decide (2 ^ 51 ≤ a)
  { s with mem := s.mem.filter (fun p => pool p.1), poison := s.poison.filter (fun p => pool (p.1 * 32))
           md := s.md.filter (fun p => pool (p.1 * 64)), grades := s.grades.filter (fun p => pool (p.1 * 64)), scRows := []
           hist := s.hist.filter (fun p => (pool p.1 && decide (p.1 < 2 ^ 52)) || (decide (2 ^ 61 ≤ p.1) && pool ((p.1 - 2 ^ 61) / 8 * 64)))
           dirty := s.dirty.filter (fun p => pool (p.1 * 128))
           cores := s.cores.map (fun p => (p.1, { p.2 with l1 := [], fills := [], icache := [] }))
           dies := s.dies.map (fun p => (p.1, { p.2 with cache := [] })) }

/-- The lifecycle moves one step by a signed command; entering Returned erases the stacks and the save areas. -/
def execLifecycleAdvance (signed : Bool) (s : State) : Res :=
  if !signed || 3 ≤ s.sys.life || s.sys.anchorLost then .next s
  else
    let s := { s with sys := { s.sys with life := s.sys.life + 1 } }
    .next (if s.sys.life = 3 then { eraseStacks s with saved := [] } else s)

/-! ## Power requests (R455) -/

/-- PWRREQ of a request with a status. -/
def reqWord (kind index chan target status : Nat) : DWord :=
  BitVec.ofNat 64 (target + chan * 2 ^ 8 + index * 2 ^ 12 + kind * 2 ^ 20 + status * 2 ^ 24)

def withStatus (s : State) (kind index chan target status : Nat) : State :=
  { s with sys := { s.sys with pwrreq := reqWord kind index chan target status } }

/-- A power request: ignored while another is in progress; else refused with a status, begun by `start` while it is not ready, or
done. -/
def powerDo (kind index chan target : Nat) (s : State) (refuse : Option Nat) (ready : Bool) (start done : State → State) : Res :=
  let now := fieldOf s.sys.pwrreq 24 8
  if s.sys.anchorLost || (now == 1 && s.sys.pwrreq != reqWord kind index chan target 1) then .next s
  else match refuse with
    | some e => .next (withStatus s kind index chan target e)
    | none => if ready then .next (withStatus (done s) kind index chan target 0)
        else .next (withStatus (start s) kind index chan target 1)

/-- Status 4 where the table refuses the power state that a request would reach. -/
def refused454 (s : State) (pwr : Nat) (halted : Bool) : Option Nat :=
  if stateAllowed s.sys.life s.sys.dbg pwr s.sys.session s.sys.conf halted then none else some 4

/-- The contexts that satisfy `p` stop, to be saved. -/
def stopContexts (s : State) (p : Nat → Bool) : State :=
  { s with contexts := s.contexts.map (fun q => (q.1, q.2.map (fun k => if p q.1 then { k with saving := true } else k))) }

/-- A channel enters self-refresh: its scarab writes a live wave's state to the reserved rows of the channel and closes its rows; what it
waits for and its messages stay in base-die SRAM (17 R399). -/
def refreshChannel (s : State) (k : Nat) : State :=
  let x := scarabAt s k
  let s := if x.state == .running
    then setScarab { s with scRows := s.scRows.put none k (some x) } k
      { x with state := .selfRefresh, clause := none, vregs := [], sregs := [], exec := 0, mregs := [], maskStack := [], flagCnt := []
               flagOpen := [], open_ := [], pcHdr := 0, pcPos := 0 }
    else s
  { s with sys := { s.sys with chans := s.sys.chans.put .on k .selfRefresh } }

/-- A channel returns to service: its scarab restores the state its rows hold, reopens the banks and resumes. -/
def returnChannel (s : State) (k : Nat) : State :=
  let s := if (scarabAt s k).state == .selfRefresh
    then takeMessages (setScarab { s with scRows := s.scRows.put none k none } k (wholeScarab s k)) k else s
  { s with sys := { s.sys with chans := s.sys.chans.put .on k .on } }

def offChannel (s : State) (k : Nat) : State := { s with sys := { s.sys with chans := s.sys.chans.put .on k .off } }

/-- Channels of a stack. -/
def stackChans (n : Nat) : List Nat := (List.range 16).map (fun c => n * 16 + c)

/-- Whether the live scarabs of some channels stand at a boundary as for a save. -/
def chansQuiet (s : State) (ks : List Nat) : Bool := ks.all (fun k => let x := scarabAt s k; x.state != .running || scarabQuiet x)

/-- Status 2 where a channel holds a live scarab wave (17 R400). -/
def liveScarab (s : State) (ks : List Nat) : Option Nat := if ks.any (fun k => (scarabAt s k).bound) then some 2 else none

/-- Status 5 for an index or a channel out of range. -/
def outOf (bad : Bool) (e : Option Nat) : Option Nat := if bad then some 5 else e

/-- Gate an island once its contexts are saved: its caches lose their copies. -/
def execIslandGate (n : Nat) (s : State) : Res :=
  let off := fun (s : State) =>
    let s := (islandCores n).foldl (fun s c => s.setCore c { s.core c with l1 := [], fills := [], icache := [], tlb := [] }) s
    let s := if n < 16 && n % 2 == 1 then s.setDie (n / 2) { s.die (n / 2) with cache := [], tlb := [] } else s
    setIsland s n { island s n with gated := true }
  powerDo 1 n 0 1 s (outOf (24 ≤ n) (refused454 s 1 (haltedOn s n))) (islandCtxs s n).isEmpty
    (fun s => stopContexts s (islandCtxs s n).contains) off

def execIslandReturn (n : Nat) (s : State) : Res :=
  powerDo 1 n 0 0 s (outOf (24 ≤ n) none) true id (fun s => setIsland s n { island s n with gated := false })

def execStackSelfRefresh (n : Nat) (s : State) : Res :=
  powerDo 2 n 0 2 s (outOf (16 ≤ n) none) (chansQuiet s (stackChans n)) id (fun s => (stackChans n).foldl refreshChannel s)

def execStackReturn (n : Nat) (s : State) : Res :=
  powerDo 2 n 0 0 s (outOf (16 ≤ n) none) true id (fun s => (stackChans n).foldl returnChannel s)

def execStackPowerOff (n : Nat) (s : State) : Res :=
  powerDo 2 n 0 3 s (outOf (16 ≤ n) (liveScarab s (stackChans n))) true id (fun s => (stackChans n).foldl offChannel s)

def execChannelSelfRefresh (n ch : Nat) (s : State) : Res :=
  powerDo 3 n ch 2 s (outOf (16 ≤ n || 16 ≤ ch) none) (chansQuiet s [n * 16 + ch]) id (fun s => refreshChannel s (n * 16 + ch))

def execChannelReturn (n ch : Nat) (s : State) : Res :=
  powerDo 3 n ch 0 s (outOf (16 ≤ n || 16 ≤ ch) none) true id (fun s => returnChannel s (n * 16 + ch))

def execChannelPowerOff (n ch : Nat) (s : State) : Res :=
  powerDo 3 n ch 3 s (outOf (16 ≤ n || 16 ≤ ch) (liveScarab s [n * 16 + ch])) true id (fun s => offChannel s (n * 16 + ch))

def allChans : List Nat := List.range 256

/-- Whether every context is saved: none on a core, and no scarab wave. -/
def allSaved (s : State) : Bool := s.cores.all (fun p => p.2.ctx.isNone) && s.scarabs.all (fun p => !p.2.bound)

/-- A2: on-chip stores zeroed, dirty lines written back first, every channel in self-refresh. -/
def execPkgA2 (s : State) : Res :=
  let sleep := fun (s : State) =>
    let s := flushDirty s
    let s := { s with cores := s.cores.map (fun p => (p.1, { p.2 with l1 := [], fills := [], icache := [], accs := [], fregs := [] }))
                      dies := s.dies.map (fun p => (p.1, { p.2 with cache := [] })) }
    let s := allChans.foldl refreshChannel s
    { s with sys := { s.sys with pwr := 2 } }
  powerDo 0 0 0 2 s (refused454 s 2 false) (allSaved s)
    (fun s => stopContexts s (fun c => s.cores.any (fun p => p.2.ctx == some c) || s.scarabs.any (fun p => p.2.bound && p.2.ctx == c))) sleep

/-- An array without an owner, its cells and its count of programmings as they are (11 R245, R266). -/
def XArr.blank (a : XArr) : XArr := { cells := a.cells, pcount := a.pcount }

/-- A3: refused while a queue is mapped or a context is unsaved, or a scarab is live. -/
def execPkgA3 (s : State) : Res :=
  let unsaved := s.contexts.any (fun p => p.2.isSome && !s.saved.any (fun v => v.ctx == p.1))
  let why := match refused454 s 3 false with
    | some e => some e
    | none => if s.qslots.any (fun p => p.2.isSome) || unsaved then some 3 else liveScarab s allChans
  powerDo 0 0 0 3 s why true id (fun s =>
    let s := (List.range 24).foldl (fun s n => setIsland s n { island s n with gated := true }) s
    let s := { s with cores := s.cores.map (fun p => (p.1, { p.2 with l1 := [], fills := [], icache := [], accs := [], fregs := []
                                                                      arrays := p.2.arrays.map (fun a => (a.1, a.2.blank)) }))
                      dies := s.dies.map (fun p => (p.1, { p.2 with cache := [] })) }
    let s := allChans.foldl offChannel s
    { s with sys := { s.sys with pwr := 3 } })

/-- A0: every island and channel back in service; from A2 and A3 the links train again. -/
def execPkgA0 (s : State) : Res :=
  powerDo 0 0 0 0 s none true id (fun s =>
    let s := (List.range 24).foldl (fun s n => setIsland s n { island s n with gated := false }) s
    let s := allChans.foldl returnChannel s
    let s := if s.sys.pwr = 0 then s
      else { s with ports := s.ports.map (fun p => (p.1, if p.2.state == .down then p.2 else { p.2 with state := .training })) }
    { s with sys := { s.sys with pwr := 0 } })

/-- Whether a request is one the table of targets lists. -/
def reqListed (v : DWord) : Bool :=
  let ix := fieldOf v 12 8
  let ch := fieldOf v 8 4
  let t := fieldOf v 0 3
  match fieldOf v 20 4 with
  | 0 => ix == 0 && ch == 0 && (t == 0 || t == 2 || t == 3)
  | 1 => decide (ix < 24) && ch == 0 && (t == 0 || t == 1)
  | 2 => decide (ix < 16) && ch == 0 && (t == 0 || t == 2 || t == 3)
  | 3 => decide (ix < 16) && (t == 0 || t == 2 || t == 3)
  | _ => false

/-- A malformed request completes with STATUS 5. -/
def execPwrreqMalformed (v : DWord) (s : State) : Res :=
  if reqListed v then .next s
  else powerDo (fieldOf v 20 4) (fieldOf v 12 8) (fieldOf v 8 4) (fieldOf v 0 3) s (some 5) true id id

/-! ## Reset (R457) -/

/-- What the cores keep without power: the cells of their arrays, and how often each was programmed (11 R245, R266). -/
def keptCores (s : State) : Tab Core :=
  (s.cores.filter (fun p => !p.2.arrays.isEmpty)).map (fun p => (p.1, { arrays := p.2.arrays.map (fun a => (a.1, a.2.blank)) }))

/-- The package comes up as `State.reset`, its lifecycle, bring-up sizes and place in its domain as they were, its ports in the roles that
bring-up configuration sets, which are free (01 R14, assumption 79), links in training;
second-tier memory holds what reached it. An image that fails verification leaves only the management interface. -/
def execPackageReset (verified : Bool) (s : State) : Res :=
  let r := State.reset
  let pool := eraseStacks { s with
    mem := s.dirty.foldl (fun m p => (List.range 128).foldl (fun m i =>
      m.put 0 (p.1 * 128 + i) (BitVec.ofNat 8 ((p.2.getD 0).toNat / 256 ^ i))) m) s.mem
    md := s.dirty.foldl (fun t p => [0, 1].foldl (fun t j =>
      t.put 0 (2 * p.1 + j) (BitVec.ofNat 64 ((p.2.getD 0).toNat / 2 ^ (1024 + 64 * j)))) t) s.md }
  let t := { r with tick := s.tick, agenda := s.agenda, cur := s.cur, mem := pool.mem, md := pool.md, poison := pool.poison, grades := pool.grades, pkg := s.pkg, slGiB := s.slGiB, mcGiB := s.mcGiB
                    cores := keptCores s
                    sys := { r.sys with life := s.sys.life, bootFailed := !verified, measure := Config.firmware s.tick } }
  .next (if verified then { t with ports := t.ports.map (fun p => (p.1, { p.2 with pool := freeBit s (730000 + p.1), state := .training })) }
    else { t with coxes := [(256, { lmlim := 16, stopped := true }), (257, { lmlim := 16, stopped := true })] })

/-! ## The loss of dies (01 R21 to R23) -/

/-- Stores, atomics and regions in flight from a wave: each applied whole or not at all, of an atomic or a region the first lanes, a free
choice. -/
def flushFree (s : State) (k : Nat) (w : Wave) : State :=
  w.pend.foldl (fun s p =>
    let i := 800000 + 64 * k + p.id
    if !freeBit s i then s
    else match p.work with
      | .store _ _ false => waveStoreApply s k p.id
      | .atomic _ _ _ _ _ | .region _ _ _ _ => (match execAtomicPerform k p.id ⟨false, freeNat s i / 2 % 33⟩ s with
        | .next s => s
        | _ => s)
      | _ => s) s

/-- What the engines of a core have sent: of running copies a free part of the segments, of chains and tile tasks what they come to by
a free boundary. -/
def flushEngines (s : State) (c : Nat) : State :=
  let s := ((s.core c).copies.filter (copyRuns s c)).foldl (fun s r => (runCopy s c (copyJob s r) false (some 7)).1) s
  (s.core c).tileQ.foldl (pauseTask c) (pauseChains s c)

/-- A launch with blocks on a failed die: in-band class 10, no further placement; its other blocks run on. That the unit index is the
die's, in the form of the STATUS map, is the model's choice (assumption 77). -/
def loseLaunch (s : State) (die l : Nat) : State :=
  modLaunch (inBand s l { cls := 10, unit := 2, unitIx := die * 32, addr := 0 }) l (fun x =>
    { x with unplaced := [], failedDies := x.failedDies ++ [die]
             toEnd := (blocksOf s l).foldl (fun (n : Nat) p => if p.1 / 2048 = die then n else n + 1 + p.2.withdrawn.length) 0 })

/-- A compute die fails. -/
def execComputeDieFailure (die : Nat) (s : State) : Res :=
  if 8 ≤ die || (s.die die).lost then .next s
  else
    let ws := s.waves.filterMap (fun p => match p.2 with
      | some w => if dieOf p.1 = die then some (p.1, w) else none
      | none => none)
    let s := ws.foldl (fun s p => flushFree s p.1 p.2) s
    let s := (List.range 32).foldl (fun s i => flushEngines s (die * 32 + i)) s
    let s := (List.range 32).foldl (fun s i => (coxAt s (die * 32 + i)).sbuf.foldl (fun s p =>
      if freeBit s (900000 + 64 * i + p.id) then coxStoreApply s (die * 32 + i) p.id else s) s) s
    let here := fun (b : Nat) => b / 2048 == die
    let ls := ((s.blocks.filter (fun p => here p.1)).filterMap (fun p => p.2.map (·.launch))).eraseDups
    let s := ls.foldl (fun s l => loseLaunch s die l) s
    let own := fun (k : Nat) => decide (k < 2 ^ 40) && here (k / 128)
    let bars := (s.bars.filter (fun p => !own p.1)).map (fun p => (p.1, p.2.map (fun y =>
      if 2 ^ 40 ≤ p.1 && y.members.any (fun m => here (m / 32)) then { y with broken := true } else y)))
    let s := { s with
      bars := bars
      waves := s.waves.filter (fun p => dieOf p.1 != die)
      blocks := s.blocks.filter (fun p => !here p.1)
      cores := s.cores.filter (fun p => p.1 / 32 != die)
      coxes := s.coxes.filter (fun p => p.1 / 32 != die)
      packets := s.packets.filter (fun q => dieOf q.wave != die) }
    .next (s.setDie die { lost := true })

/-- The anchor die is lost: no host port, no umpire, no management; the islands keep their limits, and the completion records an umpire
held back are written. -/
def execAnchorDieLoss (s : State) : Res :=
  let held := s.umps.flatMap (fun p => (p.2.map (·.kept)).getD [])
  .next { s with hostLines := [], snoops := [], complQ := s.complQ ++ held
                 umps := s.umps.map (fun p => (p.1, p.2.map (fun u => { u with holding := false, kept := [] })))
                 sys := { s.sys with anchorLost := true, session := false } }

/-- A stack base die is lost: its memory reads as an uncorrected error everywhere, the routes through its two ports are withdrawn, and
new launches are refused. The anchor die's bank and the unit that name the stack in the record are the model's choice
(assumption 78). -/
def execStackBaseDieLoss (stack : Nat) (s : State) : Res :=
  if 16 ≤ stack || s.sys.stacksLost.contains stack then .next s
  else
    let s := { s with sys := { s.sys with stacksLost := s.sys.stacksLost ++ [stack], refuseLaunches := true }
                      ports := s.ports.map (fun p => if p.1 / 2 = stack then (p.1, { p.2 with state := .down }) else p) }
    .next (writeRecord s 280 (mkRecord s 3 3 (stack * 16) 0xFFFF errLost (32 + stack) none))

/-! ## Registers (00 R4, R459) -/

/-- Writing 1 to VALID frees an error record. -/
def execErrorRecordFree (bank n : Nat) (s : State) : Res :=
  if s.sys.anchorLost then .next s
  else .next { s with banks := s.banks.put [] bank ((s.banks.look [] bank).filter (fun r => r.slot != n)) }

/-- The bits of PEERRT that can be written. -/
def peerrtMask : Word := 0x9F9F9F9F

/-- A write to a management register, which the loss of the anchor die makes impossible (01 R22): its RW fields take the value; read-only ones and reserved bits keep theirs. -/
def execRegisterWrite (r : MgmtReg) (v : DWord) (s : State) : Res :=
  if s.sys.anchorLost then .next s else
  match r with
  | .peerto => .next { s with peerto := fieldOf v 0 20 }
  | .peerrt p => .next (if p < 256 then { s with peerrt := s.peerrt.put 0 p (v.setWidth 32 &&& peerrtMask) } else s)
  | .acctbud n => .next (if n < 128 then { s with acctBud := s.acctBud.put 0 n (fieldOf v 0 48) } else s)
  | .mscwbase n => .next (if n < 64 then { s with mscw := s.mscw.put {} n { s.mscw.look {} n with base := v &&& 0x000FFFFFFFE00000 } } else s)
  | .islreplay n => .next (if n < 24 then setIsland s n { island s n with limit := fieldOf v 32 16 } else s)
  | .portctl n => .next (if bitOf v 0 then drainPort s n else retrainPort s n)
  -- an entry of an interface's queue table, which it writes through BAR2 (R449)
  | .queuePtr vf i => .next (match activeUmp s with
    | some (_, u) => if vf < 128 && i < 128 then umpWrite s (u.qtab.toNat + 8 * (128 * vf + i)) 8 v.toNat else s
    | none => s)
  | .readOnly => .next s

end Sys2Proof.Machine
end

