-- ==== Sys2Proof/Machine/Dispatch.lean ====
section
/-! DEFINITION. One arm per instruction: the meaning it has. -/

namespace Sys2Proof.Machine

def exec (i : Instr) (s : State) : Host.Outcome State Fault Refusal :=
  match i with
  | .nop => Sys2Proof.Machine.execNop s
  | .bra x => Sys2Proof.Machine.execBra x s
  | .brsZ x a => Sys2Proof.Machine.execBrsZ x a s
  | .brsNz x a => Sys2Proof.Machine.execBrsNz x a s
  | .brmAny x m => Sys2Proof.Machine.execBrmAny x m s
  | .brmAll x m => Sys2Proof.Machine.execBrmAll x m s
  | .brmNone x m => Sys2Proof.Machine.execBrmNone x m s
  | .brd x m => Sys2Proof.Machine.execBrd x m s
  | .brdCmp x m => Sys2Proof.Machine.execBrdCmp x m s
  | .jmpt c b a => Sys2Proof.Machine.execJmpt c b a s
  | .jmpi b a => Sys2Proof.Machine.execJmpi b a s
  | .call n x => Sys2Proof.Machine.execCall n x s
  | .calli n a => Sys2Proof.Machine.execCalli n a s
  | .ret => Sys2Proof.Machine.execRet s
  | .join => Sys2Proof.Machine.execJoin s
  | .exit => Sys2Proof.Machine.execExit s
  | .dsel n => Sys2Proof.Machine.execDsel n s
  | .ifence => Sys2Proof.Machine.execIfence s
  | .yield => Sys2Proof.Machine.execYield s
  | .trap x => Sys2Proof.Machine.execTrap x s
  | .add t => Sys2Proof.Machine.execAdd t s
  | .sub t => Sys2Proof.Machine.execSub t s
  | .addc t => Sys2Proof.Machine.execAddc t s
  | .subb t => Sys2Proof.Machine.execSubb t s
  | .mul t => Sys2Proof.Machine.execMul t s
  | .mulh t => Sys2Proof.Machine.execMulh t s
  | .mad t => Sys2Proof.Machine.execMad t s
  | .div t => Sys2Proof.Machine.execDiv t s
  | .rem t => Sys2Proof.Machine.execRem t s
  | .min t => Sys2Proof.Machine.execMin t s
  | .max t => Sys2Proof.Machine.execMax t s
  | .abs t => Sys2Proof.Machine.execAbs t s
  | .neg t => Sys2Proof.Machine.execNeg t s
  | .and t => Sys2Proof.Machine.execAnd t s
  | .or t => Sys2Proof.Machine.execOr t s
  | .xor t => Sys2Proof.Machine.execXor t s
  | .andn t => Sys2Proof.Machine.execAndn t s
  | .not t => Sys2Proof.Machine.execNot t s
  | .shl t => Sys2Proof.Machine.execShl t s
  | .shr t => Sys2Proof.Machine.execShr t s
  | .sra t => Sys2Proof.Machine.execSra t s
  | .rotl t => Sys2Proof.Machine.execRotl t s
  | .fsh t => Sys2Proof.Machine.execFsh t s
  | .bfe t => Sys2Proof.Machine.execBfe t s
  | .bfi t => Sys2Proof.Machine.execBfi t s
  | .popc t => Sys2Proof.Machine.execPopc t s
  | .clz t => Sys2Proof.Machine.execClz t s
  | .ctz t => Sys2Proof.Machine.execCtz t s
  | .brev t => Sys2Proof.Machine.execBrev t s
  | .bperm t => Sys2Proof.Machine.execBperm t s
  | .clmul t => Sys2Proof.Machine.execClmul t s
  | .clmulh t => Sys2Proof.Machine.execClmulh t s
  | .cmp t => Sys2Proof.Machine.execCmp t s
  | .sel t => Sys2Proof.Machine.execSel t s
  | .mov t => Sys2Proof.Machine.execMov t s
  | .movi t => Sys2Proof.Machine.execMovi t s
  | .lea t => Sys2Proof.Machine.execLea t s
  | .shfl t => Sys2Proof.Machine.execShfl t s
  | .bcast t => Sys2Proof.Machine.execBcast t s
  | .ballot t => Sys2Proof.Machine.execBallot t s
  | .wred t => Sys2Proof.Machine.execWred t s
  | .scan t => Sys2Proof.Machine.execScan t s
  | .mand t => Sys2Proof.Machine.execMand t s
  | .mor t => Sys2Proof.Machine.execMor t s
  | .mxor t => Sys2Proof.Machine.execMxor t s
  | .mnot t => Sys2Proof.Machine.execMnot t s
  | .mpop t => Sys2Proof.Machine.execMpop t s
  | .fadd t => Sys2Proof.Machine.execFadd t s
  | .fsub t => Sys2Proof.Machine.execFsub t s
  | .fmul t => Sys2Proof.Machine.execFmul t s
  | .fma t => Sys2Proof.Machine.execFma t s
  | .fmin t => Sys2Proof.Machine.execFmin t s
  | .fmax t => Sys2Proof.Machine.execFmax t s
  | .fcmp t => Sys2Proof.Machine.execFcmp t s
  | .fclass t => Sys2Proof.Machine.execFclass t s
  | .frcp t => Sys2Proof.Machine.execFrcp t s
  | .frsq t => Sys2Proof.Machine.execFrsq t s
  | .fsqrt t => Sys2Proof.Machine.execFsqrt t s
  | .fexp2 t => Sys2Proof.Machine.execFexp2 t s
  | .flog2 t => Sys2Proof.Machine.execFlog2 t s
  | .fsin t => Sys2Proof.Machine.execFsin t s
  | .fcos t => Sys2Proof.Machine.execFcos t s
  | .ftanh t => Sys2Proof.Machine.execFtanh t s
  | .fdot2 t => Sys2Proof.Machine.execFdot2 t s
  | .fdot4 t => Sys2Proof.Machine.execFdot4 t s
  | .fscale t => Sys2Proof.Machine.execFscale t s
  | .fround t => Sys2Proof.Machine.execFround t s
  | .cvt t => Sys2Proof.Machine.execCvt t s
  | .pack t => Sys2Proof.Machine.execPack t s
  | .unpack t => Sys2Proof.Machine.execUnpack t s
  | .tfmt t => Sys2Proof.Machine.execTfmt t s
  | .tmma t => Sys2Proof.Machine.execTmma t s
  | .tzero t => Sys2Proof.Machine.execTzero t s
  | .trd t => Sys2Proof.Machine.execTrd t s
  | .twr t => Sys2Proof.Machine.execTwr t s
  | .tcmp t => Sys2Proof.Machine.execTcmp t s
  | .tbmp t => Sys2Proof.Machine.execTbmp t s
  | .tmc t => Sys2Proof.Machine.execTmc t s
  | .tstat t => Sys2Proof.Machine.execTstat t s
  | .tcan t => Sys2Proof.Machine.execTcan t s
  | .xown t => Sys2Proof.Machine.execXown t s
  | .xrel t => Sys2Proof.Machine.execXrel t s
  | .xprog t => Sys2Proof.Machine.execXprog t s
  | .xverify t => Sys2Proof.Machine.execXverify t s
  | .xmv t => Sys2Proof.Machine.execXmv t s
  | .xmva t => Sys2Proof.Machine.execXmva t s
  | .xcal t => Sys2Proof.Machine.execXcal t s
  | .xref t => Sys2Proof.Machine.execXref t s
  | .xstat t => Sys2Proof.Machine.execXstat t s
  | .xfix t => Sys2Proof.Machine.execXfix t s
  | .xbnd t => Sys2Proof.Machine.execXbnd t s
  | .ld t => Sys2Proof.Machine.execLd t s
  | .st t => Sys2Proof.Machine.execSt t s
  | .ldg t => Sys2Proof.Machine.execLdg t s
  | .stg t => Sys2Proof.Machine.execStg t s
  | .ldt t => Sys2Proof.Machine.execLdt t s
  | .stt t => Sys2Proof.Machine.execStt t s
  | .stmc t => Sys2Proof.Machine.execStmc t s
  | .pf t => Sys2Proof.Machine.execPf t s
  | .cinv t => Sys2Proof.Machine.execCinv t s
  | .cwb t => Sys2Proof.Machine.execCwb t s
  | .spcfg t => Sys2Proof.Machine.execSpcfg t s
  | .palias t => Sys2Proof.Machine.execPalias t s
  | .mdld t => Sys2Proof.Machine.execMdld t s
  | .mdst t => Sys2Proof.Machine.execMdst t s
  | .fence t => Sys2Proof.Machine.execFence t s
  | .fjoin t => Sys2Proof.Machine.execFjoin t s
  | .amo t => Sys2Proof.Machine.execAmo t s
  | .cas t => Sys2Proof.Machine.execCas t s
  | .red t => Sys2Proof.Machine.execRed t s
  | .amonib t => Sys2Proof.Machine.execAmonib t s
  | .aregLd t => Sys2Proof.Machine.execAregLd t s
  | .aregSt t => Sys2Proof.Machine.execAregSt t s
  | .aregGo t => Sys2Proof.Machine.execAregGo t s
  | .barv t => Sys2Proof.Machine.execBarv t s
  | .barw t => Sys2Proof.Machine.execBarw t s
  | .bars t => Sys2Proof.Machine.execBars t s
  | .barq t => Sys2Proof.Machine.execBarq t s
  | .waitm t => Sys2Proof.Machine.execWaitm t s
  | .waitf t => Sys2Proof.Machine.execWaitf t s
  | .nap t => Sys2Proof.Machine.execNap t s
  | .cpy t => Sys2Proof.Machine.execCpy t s
  | .cpy2 t => Sys2Proof.Machine.execCpy2 t s
  | .cpyg t => Sys2Proof.Machine.execCpyg t s
  | .chapp t => Sys2Proof.Machine.execChapp t s
  | .chseq t => Sys2Proof.Machine.execChseq t s
  | .evpost t => Sys2Proof.Machine.execEvpost t s
  | .rst t => Sys2Proof.Machine.execRst t s
  | .rstf t => Sys2Proof.Machine.execRstf t s
  | .rfence t => Sys2Proof.Machine.execRfence t s
  | .getwork t => Sys2Proof.Machine.execGetwork t s
  | .srd t => Sys2Proof.Machine.execSrd t s
  | .swr t => Sys2Proof.Machine.execSwr t s
  | .eret t => Sys2Proof.Machine.execEret t s
  | .eretSkip t => Sys2Proof.Machine.execEretSkip t s
  | .brk t => Sys2Proof.Machine.execBrk t s
  | .tlbiCtx t => Sys2Proof.Machine.execTlbiCtx t s
  | .tlbiPage t => Sys2Proof.Machine.execTlbiPage t s
  | .tlbiRange t => Sys2Proof.Machine.execTlbiRange t s
  | .erd t => Sys2Proof.Machine.execErd t s
  | .ctxs t => Sys2Proof.Machine.execCtxs t s
  | .ctxr t => Sys2Proof.Machine.execCtxr t s
  | .hlt t => Sys2Proof.Machine.execHlt t s
  | .rowact t => Sys2Proof.Machine.execRowact t s
  | .rowpre t => Sys2Proof.Machine.execRowpre t s
  | .rowld t => Sys2Proof.Machine.execRowld t s
  | .rowst t => Sys2Proof.Machine.execRowst t s
  | .colsend t => Sys2Proof.Machine.execColsend t s
  | .colrecv t => Sys2Proof.Machine.execColrecv t s
  | .colred t => Sys2Proof.Machine.execColred t s
  | .mif t => Sys2Proof.Machine.execMif t s
  | .melse t => Sys2Proof.Machine.execMelse t s
  | .mend t => Sys2Proof.Machine.execMend t s
  | .coxAdd d a b => Sys2Proof.Machine.execCoxAdd d a b s
  | .coxSub d a b => Sys2Proof.Machine.execCoxSub d a b s
  | .coxAnd d a b => Sys2Proof.Machine.execCoxAnd d a b s
  | .coxOr d a b => Sys2Proof.Machine.execCoxOr d a b s
  | .coxXor d a b => Sys2Proof.Machine.execCoxXor d a b s
  | .sll d a b => Sys2Proof.Machine.execSll d a b s
  | .srl d a b => Sys2Proof.Machine.execSrl d a b s
  | .coxSra d a b => Sys2Proof.Machine.execCoxSra d a b s
  | .slt d a b => Sys2Proof.Machine.execSlt d a b s
  | .sltn d a b => Sys2Proof.Machine.execSltn d a b s
  | .coxMul d a b => Sys2Proof.Machine.execCoxMul d a b s
  | .coxMulh d a b => Sys2Proof.Machine.execCoxMulh d a b s
  | .coxDiv d a b => Sys2Proof.Machine.execCoxDiv d a b s
  | .coxRem d a b => Sys2Proof.Machine.execCoxRem d a b s
  | .addi d a x => Sys2Proof.Machine.execAddi d a x s
  | .andi d a x => Sys2Proof.Machine.execAndi d a x s
  | .ori d a x => Sys2Proof.Machine.execOri d a x s
  | .xori d a x => Sys2Proof.Machine.execXori d a x s
  | .slli d a sc => Sys2Proof.Machine.execSlli d a sc s
  | .srli d a sc => Sys2Proof.Machine.execSrli d a sc s
  | .srai d a sc => Sys2Proof.Machine.execSrai d a sc s
  | .ext d a p l => Sys2Proof.Machine.execExt d a p l s
  | .ins d a p l => Sys2Proof.Machine.execIns d a p l s
  | .lui d x => Sys2Proof.Machine.execLui d x s
  | .apc d x => Sys2Proof.Machine.execApc d x s
  | .ldB d a x => Sys2Proof.Machine.execLdB d a x s
  | .ldH d a x => Sys2Proof.Machine.execLdH d a x s
  | .ldW d a x => Sys2Proof.Machine.execLdW d a x s
  | .ldD d a x => Sys2Proof.Machine.execLdD d a x s
  | .ldBn d a x => Sys2Proof.Machine.execLdBn d a x s
  | .ldHn d a x => Sys2Proof.Machine.execLdHn d a x s
  | .ldWn d a x => Sys2Proof.Machine.execLdWn d a x s
  | .stB b a x => Sys2Proof.Machine.execStB b a x s
  | .stH b a x => Sys2Proof.Machine.execStH b a x s
  | .stW b a x => Sys2Proof.Machine.execStW b a x s
  | .stD b a x => Sys2Proof.Machine.execStD b a x s
  | .coxAmo d a b o sc z r => Sys2Proof.Machine.execCoxAmo d a b o sc z r s
  | .coxFence sc r => Sys2Proof.Machine.execCoxFence sc r s
  | .beq a b x => Sys2Proof.Machine.execBeq a b x s
  | .bne a b x => Sys2Proof.Machine.execBne a b x s
  | .blt a b x => Sys2Proof.Machine.execBlt a b x s
  | .bge a b x => Sys2Proof.Machine.execBge a b x s
  | .bltn a b x => Sys2Proof.Machine.execBltn a b x s
  | .bgen a b x => Sys2Proof.Machine.execBgen a b x s
  | .jal d x => Sys2Proof.Machine.execJal d x s
  | .jalr d a x => Sys2Proof.Machine.execJalr d a x s
  | .csrr d c => Sys2Proof.Machine.execCsrr d c s
  | .csrw a c => Sys2Proof.Machine.execCsrw a c s
  | .coxTrap x => Sys2Proof.Machine.execCoxTrap x s
  | .coxEret => Sys2Proof.Machine.execCoxEret s
  | .wfe a => Sys2Proof.Machine.execWfe a s
  | .evq d => Sys2Proof.Machine.execEvq d s
  | .hdr a x => Sys2Proof.Machine.execHdr a x s
  | .cmpw d a b n => Sys2Proof.Machine.execCmpw d a b n s
  | .emw a => Sys2Proof.Machine.execEmw a s
  | .emw2 a b => Sys2Proof.Machine.execEmw2 a b s
  | .emc d a => Sys2Proof.Machine.execEmc d a s
  | .ems d a => Sys2Proof.Machine.execEms d a s
  | .emsC d a => Sys2Proof.Machine.execEmsC d a s
  | .dld d a n => Sys2Proof.Machine.execDld d a n s
  | .spawn d a b => Sys2Proof.Machine.execSpawn d a b s
  | .stk d a x => Sys2Proof.Machine.execStk d a x s
  | .qmap d a b => Sys2Proof.Machine.execQmap d a b s
  | .qunmap d a => Sys2Proof.Machine.execQunmap d a s
  | .kscan d a => Sys2Proof.Machine.execKscan d a s
  | .japp d a => Sys2Proof.Machine.execJapp d a s
  | .jsync d a b => Sys2Proof.Machine.execJsync d a b s
  | .lpost d a => Sys2Proof.Machine.execLpost d a s
  | .lcan d a l => Sys2Proof.Machine.execLcan d a l s
  | .hold a => Sys2Proof.Machine.execHold a s
  | .clauseStart g => Sys2Proof.Machine.execClauseStart g s
  | .pathSwitch k => Sys2Proof.Machine.execPathSwitch k s
  | .compactionMeetingTimeout b => Sys2Proof.Machine.execCompactionMeetingTimeout b s
  | .privateGrowthResolved k mapped => Sys2Proof.Machine.execPrivateGrowthResolved k mapped s
  | .issueAgePromote k => Sys2Proof.Machine.execIssueAgePromote k s
  | .napExpire k => Sys2Proof.Machine.execNapExpire k s
  | .wfeTimeout c => Sys2Proof.Machine.execWfeTimeout c s
  | .loadDataReturn g id err => Sys2Proof.Machine.execLoadDataReturn g id err s
  | .storeAck g id => Sys2Proof.Machine.execStoreAck g id s
  | .storeApplyHome g id => Sys2Proof.Machine.execStoreApplyHome g id s
  | .cacheFill c line => Sys2Proof.Machine.execCacheFill c line s
  | .atomicPerform k id done => Sys2Proof.Machine.execAtomicPerform k id done s
  | .waitmPoll k => Sys2Proof.Machine.execWaitmPoll k s
  | .blockFinish b => Sys2Proof.Machine.execBlockFinish b s
  | .dictLoadEnd c n => Sys2Proof.Machine.execDictLoadEnd c n s
  | .tileRecordStart c => Sys2Proof.Machine.execTileRecordStart c s
  | .tfmtLoadEnd c id => Sys2Proof.Machine.execTfmtLoadEnd c id s
  | .tmmaTaskComplete c r => Sys2Proof.Machine.execTmmaTaskComplete c r s
  | .tmmaCancelStop c id => Sys2Proof.Machine.execTmmaCancelStop c id s
  | .tzeroComplete c id => Sys2Proof.Machine.execTzeroComplete c id s
  | .trdComplete c id => Sys2Proof.Machine.execTrdComplete c id s
  | .twrComplete c id => Sys2Proof.Machine.execTwrComplete c id s
  | .tcmpComplete c r => Sys2Proof.Machine.execTcmpComplete c r s
  | .tbmpComplete c r => Sys2Proof.Machine.execTbmpComplete c r s
  | .tmcComplete c r => Sys2Proof.Machine.execTmcComplete c r s
  | .xrelTakesEffect c x => Sys2Proof.Machine.execXrelTakesEffect c x s
  | .xprogComplete c x missRow calOk temp => Sys2Proof.Machine.execXprogComplete c x missRow calOk temp s
  | .xverifyComplete c x => Sys2Proof.Machine.execXverifyComplete c x s
  | .xmvComplete c x delta refMeas => Sys2Proof.Machine.execXmvComplete c x delta refMeas s
  | .xcalComplete c x calOk temp => Sys2Proof.Machine.execXcalComplete c x calOk temp s
  | .xrefComplete c x refMeas temp => Sys2Proof.Machine.execXrefComplete c x refMeas temp s
  | .copyComplete c id err => Sys2Proof.Machine.execCopyComplete c id err s
  | .chainNop c ch seq => Sys2Proof.Machine.execChainNop c ch seq s
  | .chainCopy c ch seq => Sys2Proof.Machine.execChainCopy c ch seq s
  | .chainCopy2 c ch seq => Sys2Proof.Machine.execChainCopy2 c ch seq s
  | .chainAdd c ch seq => Sys2Proof.Machine.execChainAdd c ch seq s
  | .chainWait c ch seq => Sys2Proof.Machine.execChainWait c ch seq s
  | .chainEvent c ch seq => Sys2Proof.Machine.execChainEvent c ch seq s
  | .chainBadRecord c ch seq => Sys2Proof.Machine.execChainBadRecord c ch seq s
  | .remoteStorePacket src epoch line mask data => Sys2Proof.Machine.execRemoteStorePacket src epoch line mask data s
  | .keeperNotice src epoch => Sys2Proof.Machine.execKeeperNotice src epoch s
  | .keeperFlag src epoch count addr size data => Sys2Proof.Machine.execKeeperFlag src epoch count addr size data s
  | .keeperClear src epoch count => Sys2Proof.Machine.execKeeperClear src epoch count s
  | .keeperTimeout src epoch => Sys2Proof.Machine.execKeeperTimeout src epoch s
  | .keeperEntryFree src => Sys2Proof.Machine.execKeeperEntryFree src s
  | .remoteAck k id neg => Sys2Proof.Machine.execRemoteAck k id neg s
  | .flitReplay r => Sys2Proof.Machine.execFlitReplay r s
  | .portLaneFail n lane => Sys2Proof.Machine.execPortLaneFail n lane s
  | .peerTimeout g id n => Sys2Proof.Machine.execPeerTimeout g id n s
  | .peerPackageLost p => Sys2Proof.Machine.execPeerPackageLost p s
  | .portDrain n => Sys2Proof.Machine.execPortDrain n s
  | .portRetrain n => Sys2Proof.Machine.execPortRetrain n s
  | .portDrained n => Sys2Proof.Machine.execPortDrained n s
  | .hostAccess write addr data => Sys2Proof.Machine.execHostAccess write addr data s
  | .peerAccess write addr data => Sys2Proof.Machine.execPeerAccess write addr data s
  | .tlbWalk c va => Sys2Proof.Machine.execTlbWalk c va s
  | .epochBoundary => Sys2Proof.Machine.execEpochBoundary s
  | .mscwEnable n v => Sys2Proof.Machine.execMscwEnable n v s
  | .extentGrant n base size => Sys2Proof.Machine.execExtentGrant n base size s
  | .extentRelease n => Sys2Proof.Machine.execExtentRelease n s
  | .extentForcedRelease n => Sys2Proof.Machine.execExtentForcedRelease n s
  | .scarabBlockStart l stack => Sys2Proof.Machine.execScarabBlockStart l stack s
  | .collMessageArrive dst inPkg src grp data => Sys2Proof.Machine.execCollMessageArrive dst inPkg src grp data s
  | .collHoldTimeout k id => Sys2Proof.Machine.execCollHoldTimeout k id s
  | .colrecvTimeout k => Sys2Proof.Machine.execColrecvTimeout k s
  | .scarabFaultStop l => Sys2Proof.Machine.execScarabFaultStop l s
  | .contextInstall c ctx => Sys2Proof.Machine.execContextInstall c ctx s
  | .contextSave ctx => Sys2Proof.Machine.execContextSave ctx s
  | .contextRestore ctx cores => Sys2Proof.Machine.execContextRestore ctx cores s
  | .contextRemove ctx => Sys2Proof.Machine.execContextRemove ctx s
  | .queueQuantumExpire q => Sys2Proof.Machine.execQueueQuantumExpire q s
  | .doorbellWrite d => Sys2Proof.Machine.execDoorbellWrite d s
  | .launchRecord slot => Sys2Proof.Machine.execLaunchRecord slot s
  | .cancelRecord slot => Sys2Proof.Machine.execCancelRecord slot s
  | .badCommandRecord slot => Sys2Proof.Machine.execBadCommandRecord slot s
  | .launchAdmit l ctx arena arenaSize powerFits => Sys2Proof.Machine.execLaunchAdmit l ctx arena arenaSize powerFits s
  | .blockPlacement die => Sys2Proof.Machine.execBlockPlacement die s
  | .getworkMailbox k => Sys2Proof.Machine.execGetworkMailbox k s
  | .launchComplete l energy => Sys2Proof.Machine.execLaunchComplete l energy s
  | .completionRecordWrite q => Sys2Proof.Machine.execCompletionRecordWrite q s
  | .journalHeartbeat => Sys2Proof.Machine.execJournalHeartbeat s
  | .umpireTakeoverFault => Sys2Proof.Machine.execUmpireTakeoverFault s
  | .umpireTakeoverSilence => Sys2Proof.Machine.execUmpireTakeoverSilence s
  | .timingReplay n => Sys2Proof.Machine.execTimingReplay n s
  | .replayStepUp n => Sys2Proof.Machine.execReplayStepUp n s
  | .meterTick n energy => Sys2Proof.Machine.execMeterTick n energy s
  | .capDistribute weights => Sys2Proof.Machine.execCapDistribute weights s
  | .capcfgWrite v => Sys2Proof.Machine.execCapcfgWrite v s
  | .acctuseWrite n v => Sys2Proof.Machine.execAcctuseWrite n v s
  | .errorRecordFree bank n => Sys2Proof.Machine.execErrorRecordFree bank n s
  | .pkgA0 => Sys2Proof.Machine.execPkgA0 s
  | .pkgA2 => Sys2Proof.Machine.execPkgA2 s
  | .pkgA3 => Sys2Proof.Machine.execPkgA3 s
  | .islandReturn n => Sys2Proof.Machine.execIslandReturn n s
  | .islandGate n => Sys2Proof.Machine.execIslandGate n s
  | .stackReturn n => Sys2Proof.Machine.execStackReturn n s
  | .stackSelfRefresh n => Sys2Proof.Machine.execStackSelfRefresh n s
  | .stackPowerOff n => Sys2Proof.Machine.execStackPowerOff n s
  | .channelReturn n ch => Sys2Proof.Machine.execChannelReturn n ch s
  | .channelSelfRefresh n ch => Sys2Proof.Machine.execChannelSelfRefresh n ch s
  | .channelPowerOff n ch => Sys2Proof.Machine.execChannelPowerOff n ch s
  | .pwrreqMalformed v => Sys2Proof.Machine.execPwrreqMalformed v s
  | .debugRequest mode => Sys2Proof.Machine.execDebugRequest mode s
  | .tdispBind vf => Sys2Proof.Machine.execTdispBind vf s
  | .lifecycleAdvance signed => Sys2Proof.Machine.execLifecycleAdvance signed s
  | .packageReset verified => Sys2Proof.Machine.execPackageReset verified s
  | .computeDieFailure die => Sys2Proof.Machine.execComputeDieFailure die s
  | .anchorDieLoss => Sys2Proof.Machine.execAnchorDieLoss s
  | .stackBaseDieLoss stack => Sys2Proof.Machine.execStackBaseDieLoss stack s
  | .registerWrite r v => Sys2Proof.Machine.execRegisterWrite r v s
  | .replayWindowEnd n => Sys2Proof.Machine.execReplayWindowEnd n s
  | .debuggerRelease k => Sys2Proof.Machine.execDebuggerRelease k s
  | .breakpointArm l on => Sys2Proof.Machine.execBreakpointArm l on s
  | .backInvalidationResponse line => Sys2Proof.Machine.execBackInvalidationResponse line s
  | .spdmSession on => Sys2Proof.Machine.execSpdmSession on s
  | .tdispRunExit vf => Sys2Proof.Machine.execTdispRunExit vf s
  | .portTrainingComplete n => Sys2Proof.Machine.execPortTrainingComplete n s

end Sys2Proof.Machine
end

