-- ==== Sys2Proof/Machine/Load.lean ====
section
/-! DEFINITION. Placing one instruction so that the next step runs it: what the loading of a program comes to for a single
word (assumption 7). -/

namespace Sys2Proof.Machine

/-- A context whose tables map one readable, writable and executable GiB at VA 0x4000_0000 to the same physical address. -/
def loadContext : Context :=
  { launch := 0, troot := 0x10000, lwin := 0x1000000000000, pwin := 0x2000000000000, pbase := 0, plim := 0, cbase := 0, csz := 0, kbase := 0, args := 0
    arena := 0, arenaSize := 0, lmlim := 16 }

/-- The block and launch that the placed word belongs to. -/
def loadBlock : Block :=
  { launch := 0, ctx := 0, index := 0, cluster := 0, rank := 0, pslot := 0, spadSize := 0x10000, spawned := [0] }

/-- The tables of `loadContext`. -/
def loadTables (s : State) : State :=
  homeWrite (homeWrite { s with contexts := s.contexts.put none 0 (some loadContext) } 0x10000 8 0x20001) 0x20008 8 0x4000001F

/-- A wave word: a live wave in slot 0 of core 0 that has started a ctrl clause holding it, and whose turn is next. -/
def placeWaveWord (s : State) (w : Word) : State :=
  let clause : Clause :=
    { hdr := 0xA7F80051, addr := 0x40000000, words := [{ raw := w, entry := none }], pos := 1, prov := 0x40000000, inj := false }
  let wave : Wave :=
    { block := 0, num := 0, bud := 64, exec := 0xFFFFFFFF, pcHdr := 0x40000000, pcPos := 1, tvec := 0x40000100
      spillBase := 0x40100000, clause := some clause }
  let s := setBlock (setWave (loadTables s) 0 wave) 0 loadBlock
  { s with agenda := .agent (.wave 0) :: s.agenda }

/-- A cox word: at the PC of cox 0 with a context installed, or for an umpire instruction at that of the active umpire. -/
def placeCoxWord (s : State) (w : Word) : State :=
  let s := loadTables s
  if 0x38 ≤ fieldOf w 26 6 then
    let s := homeWrite s 0x40000000 4 w.toNat
    { setCox s 256 { coxAt s 256 with pc := 0x40000000 } with agenda := .agent (.cox 256) :: s.agenda }
  else
    let s := homeWrite s 0x40000000 4 w.toNat
    { setCox s 0 { coxAt s 0 with pc := 0x40000000, ctx := some 0, lmlim := 16, xvec := 0x40000100 } with
      agenda := .agent (.cox 0) :: s.agenda }

/-- Place the word of an opcode-table row: wave words and cox words share the numbers (assumption 6). -/
def placeWord (s : State) (nbits w : Nat) : State :=
  match nbits, tableCode (BitVec.ofNat 32 w) with
  | _, .fixed x => placeWaveWord s x
  | _, .cox x => placeCoxWord s x
  | _, .template _ => s

end Sys2Proof.Machine
end

