-- ==== Sys2Proof/Machine/Step.lean ====
section
/-! DEFINITION. One step of the machine, and where its next instruction is fetched. -/

namespace Sys2Proof.Machine

/-- One step: a turn of an agent, which runs the instruction it stands at, an event of the machine's own, or an error that strikes. -/
def step (s : State) : Host.Outcome State Fault Refusal :=
  match beginStep s with
  | (s, .event i) => exec i s
  | (s, .upset u) => .next (upset s u)
  | (s, .agent g) => match takeTurn s g with
    | (s, some (.word i)) => exec i s
    | (s, some (.start g)) => execClauseStart g s
    | (s, some (.switch k)) => execPathSwitch k s
    | (s, some (.poll k)) => execWaitmPoll k s
    | (s, none) => .next s

/-- The state with an instruction placed where the next step takes it from (assumption 7). -/
def State.withFetchWord (s : State) (nbits w : Nat) : State := placeWord s nbits w

end Sys2Proof.Machine
end

