-- ==== Sys2Proof/Safety.lean ====
section
/-! DEFINITION. The terms that statements about the machine are made in: what lets a word issue, what an instruction comes to,
and what a change leaves alone. -/

namespace Sys2Proof.Safety

open Sys2Proof.Machine

/-! ## Who runs -/

/-- It is the turn of wave `k`, which lives as `w`. -/
def WaveTurn (s : State) (k : Nat) (w : Wave) : Prop := s.cur = .wave k ∧ waveAt s k = some w

/-- The waves whose registers a word of wave `k` uses. -/
def homeWaves (s : State) (k : Nat) (w : Wave) : List Wave :=
  (homeKeys s k w).filterMap (fun h => if h = k then some w else waveAt s h)

/-- Nothing holds a word back that reads and writes what `g` says: no outstanding operation will write its registers (R41), no
source has a parity error (R411), it observes no deferred cause (R403), its sources' tags let it issue (R34), its flag can count it (R40),
and no `spcfg` of its block holds its class (R280). -/
def Clear (s : State) (k : Nat) (w : Wave) (g : Gate) : Prop :=
  (∀ r ∈ g.reads ++ g.writes, r ∉ pendingRegs (w :: homeWaves s k w)) ∧
  (∀ r ∈ g.reads, ∀ x ∈ homeWaves s k w, x.parityBad r = false) ∧
  (∀ d ∈ w.deferred, g.sees d = false ∧ w.observes g.reads d = false) ∧
  tagCheck (waveView s k w) w g.tags = none ∧ flagRoom w g.att = true ∧ waysHeld s w = false

/-- The present word of the wave is the one word of a fetched ctrl clause whose header lies at `h`. -/
def InCtrl (w : Wave) (h : DWord) : Prop :=
  ∃ c, w.clause = some c ∧ c.addr = h ∧ c.inj = false ∧ hdrCount c.hdr = 1 ∧ c.words.length = 1 ∧ c.pos = 1

/-- On-chip stack entries that the waves of a block use (R127). -/
def poolUsed (s : State) (b : Nat) : Nat := ((wavesOf s b).map (fun p => onChip p.2)).foldl (· + ·) 0

/-- A push of `n` entries finds room: the stack stays within 128 entries and the block's on-chip pool within 32 (R126, R127). -/
def StackRoom (s : State) (w : Wave) (n : Nat) : Prop :=
  w.stack.length + n ≤ 128 ∧ poolUsed s w.block + n ≤ 32 ∧ Tab.wf none s.waves = true

/-- It is the turn of scarab `k`, and no outstanding operation will write a register of `regs` (R41). -/
def ScarabTurn (s : State) (k : Nat) (regs : List RegRef) : Prop :=
  s.cur = .scarab k ∧ ∀ p ∈ (scarabAt s k).pend, ∀ r ∈ p.dst, r ∉ regs

/-- It is the turn of cox or umpire `c`, and no register of `reads` has a parity error. -/
def CoxTurn (s : State) (c : Nat) (reads : List (BitVec 5)) : Prop :=
  s.cur = .cox c ∧ ∀ r ∈ reads, r.toNat ∉ (coxAt s c).parity

/-! ## What a change leaves alone -/

/-- Of `s`, only wave `k` changes: it lives on as `y`. -/
def OnlyWave (s t : State) (k : Nat) (y : Wave) : Prop :=
  t = { s with waves := t.waves } ∧ waveAt t k = some y ∧ ∀ j, j ≠ k → waveAt t j = waveAt s j

/-- Of `s`, only scarab `k` changes, to `y`. -/
def OnlyScarab (s t : State) (k : Nat) (y : Scarab) : Prop :=
  t = { s with scarabs := t.scarabs } ∧ scarabAt t k = y ∧ ∀ j, j ≠ k → scarabAt t j = scarabAt s j

/-- Of `s`, only cox or umpire `c` changes, to `y`. -/
def OnlyCox (s t : State) (c : Nat) (y : Cox) : Prop :=
  t = { s with coxes := t.coxes } ∧ coxAt t c = y ∧ ∀ j, j ≠ c → coxAt t j = coxAt s j

/-- Every byte of memory reads as before. -/
def SameMemory (s t : State) : Prop := ∀ a, homeByte t a = homeByte s a

/-- Every byte of memory outside the listed physical addresses reads as before. -/
def SameMemoryBut (s t : State) (l : List Nat) : Prop := ∀ a, physNorm s a ∉ l.map (physNorm s) → homeByte t a = homeByte s a

/-! ## Invariant -/

/-- What every step keeps: memory and the collection of waves in canonical form. -/
def Sound (s : State) : Prop := Memory.wf s.mem ∧ Tab.wf none s.waves = true

end Sys2Proof.Safety
end

