-- ==== Sys2Proof/Certificates/Slice0/Obligations.lean ====
section
/-! DEFINITION. The statements for the provers, and the terms they are made in. -/

namespace Sys2Proof.Claims

open Sys2Proof.Machine Sys2Proof.Safety

/-! ## Vector ALU: results written from the rules, on bit vectors of the operation's width -/

/-- The bits a source supplies to lane `l` at the operation's width (R148, R149). -/
def src (v : View) (t : TOp) (o : Opnd) (l : Nat) : BitVec (fmtBits t.fmt) := BitVec.ofNat _ (srcBits v t t.fmt o l)

/-- A value as the integer its format gives it. -/
def wide {n : Nat} (signed : Bool) (x : BitVec n) : Int := if signed then x.toInt else (x.toNat : Int)

/-- An exact result wrapped, or with `.sat` clamped to the range of the type (R152). -/
def fit (n : Nat) (signed sat : Bool) (x : Int) : BitVec n :=
  if sat then (if signed then BitVec.ofInt n (max (-2 ^ (n - 1)) (min (2 ^ (n - 1) - 1) x)) else BitVec.ofInt n (max 0 (min (2 ^ n - 1) x)))
  else BitVec.ofInt n x

/-- An operation of up to three sources: its constructor, its number (R73) and its result, given whether the format is signed and
whether `.sat` is set. -/
structure LaneSpec where
  instr : TOp → Instr
  op : Nat
  result : (n : Nat) → (signed sat : Bool) → (a b c : BitVec n) → BitVec n

/-- The arithmetic operations (R152, R154). -/
def arithSpecs : List LaneSpec :=
  [ ⟨.add, 0x040, fun n sg sat a b _ => fit n sg sat (wide sg a + wide sg b)⟩,
    ⟨.sub, 0x041, fun n sg sat a b _ => fit n sg sat (wide sg a - wide sg b)⟩,
    ⟨.mul, 0x044, fun _ _ _ a b _ => a * b⟩,
    ⟨.mulh, 0x045, fun n sg _ a b _ => BitVec.ofInt n (wide sg a * wide sg b / 2 ^ n)⟩,
    ⟨.mad, 0x046, fun _ _ _ a b c => a * b + c⟩,
    ⟨.div, 0x047, fun n sg _ a b _ => if b = 0 then BitVec.allOnes n else if sg then a.sdiv b else a / b⟩,
    ⟨.rem, 0x048, fun _ sg _ a b _ => if b = 0 then a else if sg then a.srem b else a % b⟩,
    ⟨.min, 0x049, fun _ sg _ a b _ => if wide sg b < wide sg a then b else a⟩,
    ⟨.max, 0x04A, fun _ sg _ a b _ => if wide sg a < wide sg b then b else a⟩,
    ⟨.abs, 0x04B, fun n sg sat a _ _ => fit n sg sat (wide sg a).natAbs⟩,
    ⟨.neg, 0x04C, fun n sg sat a _ _ => fit n sg sat (-wide sg a)⟩ ]

/-- The logic operations, shifts and funnel shift (R155 to R157). -/
def logicSpecs : List LaneSpec :=
  [ ⟨.and, 0x04D, fun _ _ _ a b _ => a &&& b⟩,
    ⟨.or, 0x04E, fun _ _ _ a b _ => a ||| b⟩,
    ⟨.xor, 0x04F, fun _ _ _ a b _ => a ^^^ b⟩,
    ⟨.andn, 0x050, fun _ _ _ a b _ => a &&& ~~~ b⟩,
    ⟨.not, 0x051, fun _ _ _ a _ _ => ~~~ a⟩,
    ⟨.shl, 0x052, fun n _ _ a b _ => if b.toNat < n then a <<< b.toNat else 0⟩,
    ⟨.shr, 0x053, fun n _ _ a b _ => if b.toNat < n then a >>> b.toNat else 0⟩,
    ⟨.sra, 0x054, fun n _ _ a b _ => if b.toNat < n then a.sshiftRight b.toNat else if a.msb then BitVec.allOnes n else 0⟩,
    ⟨.rotl, 0x055, fun _ _ _ a b _ => a.rotateLeft b.toNat⟩,
    ⟨.fsh, 0x056, fun n _ _ a b c => ((a ++ b) >>> (c.toNat % n)).setWidth n⟩ ]

/-- Field length after the clipping of R158. -/
def clipLen (n pos len : Nat) : Nat := if n ≤ pos then 0 else if n < pos + len then n - pos else len

/-- The bits of a field. -/
def fieldMask (n pos len : Nat) : BitVec n := BitVec.ofNat n ((2 ^ len - 1) * 2 ^ pos)

/-- The carry-less product: the XOR, over each bit set in `b`, of `a` shifted left by its place (R161). -/
def carryProduct {n : Nat} (a b : BitVec n) : BitVec (n + n) :=
  (List.range n).foldl (fun p j => if b.getLsbD j then p ^^^ (a.zeroExtend (n + n) <<< j) else p) 0

/-- Field, count, reversal and carry-less operations (R158, R159, R161). -/
def bitSpecs : List LaneSpec :=
  [ ⟨.bfe, 0x057, fun n sg _ a b c =>
      let pos := b.toNat % 256
      let len := clipLen n pos (c.toNat % 256)
      if sg then (a.extractLsb' pos len).signExtend n else (a.extractLsb' pos len).zeroExtend n⟩,
    ⟨.bfi, 0x058, fun n _ _ a b c =>
      let pos := c.toNat % 256
      let len := clipLen n pos (c.toNat / 256 % 256)
      (b &&& ~~~ fieldMask n pos len) ||| ((a <<< pos) &&& fieldMask n pos len)⟩,
    ⟨.popc, 0x059, fun n _ _ a _ _ => BitVec.ofNat n ((List.range n).countP (fun i => a.getLsbD i))⟩,
    ⟨.clz, 0x05A, fun n _ _ a _ _ => BitVec.ofNat n ((List.range n).takeWhile (fun i => !a.getMsbD i)).length⟩,
    ⟨.ctz, 0x05B, fun n _ _ a _ _ => BitVec.ofNat n ((List.range n).takeWhile (fun i => !a.getLsbD i)).length⟩,
    ⟨.brev, 0x05C, fun _ _ _ a _ _ => a.reverse⟩,
    ⟨.clmul, 0x05E, fun n _ _ a b _ => (carryProduct a b).setWidth n⟩,
    ⟨.clmulh, 0x05F, fun n _ _ a b _ => (carryProduct a b).extractLsb' n n⟩ ]

/-- What an ALU operation comes to, whoever runs it: its outputs are written and the word retires. -/
def Writes (i : Instr) (op : Nat) (t : TOp) (out : View → Out) : Prop :=
  (∀ s k w, WaveTurn s k w → Clear s k w (opGate op t false noSees w) →
    exec i s = .next (retireWord (applyOut s k (out (waveView s k w))) k)) ∧
  (∀ s k, ScarabTurn s k (scOpRegs op t) →
    exec i s = .next (retireScarab (setScarab s k ((scarabAt s k).apply (out (scView s k (scarabAt s k))))) k))

/-- An operation of a list computes its result in each lane. -/
def Computes (l : List LaneSpec) : Prop :=
  ∀ p ∈ l, ∀ t : TOp, Writes (p.instr t) p.op t (fun v => laneOp v t (fmtBits t.fmt) (fun n =>
    (p.result (fmtBits t.fmt) (fmtSigned t.fmt) (bitOf t.opmod 0) (src v t t.a n) (src v t t.b n) (src v t t.c n)).toNat))

/-! ## Vector ALU: comparisons, moves, lanes, masks -/

/-- A condition on two integers by its code (R162). -/
def condHolds (c : Nat) (a b : Int) : Bool :=
  if c = 0 then decide (a = b) else if c = 1 then decide (a ≠ b) else if c = 2 then decide (a < b)
  else if c = 3 then decide (a ≤ b) else if c = 4 then decide (a > b) else decide (a ≥ b)

/-- The lane `shfl` takes for lane `l` and distance `d`: its own where the rule leaves the wave (R165). -/
def shuffleFrom (lanes mode l d : Nat) : Nat :=
  if mode = 0 then d % lanes
  else if mode = 1 then (if d ≤ l then l - d else l)
  else if mode = 2 then (if l + d < lanes then l + d else l)
  else l ^^^ (d % lanes)

/-- A mask whose bit `l` is `f l` in active lanes and 0 in the others. -/
def activeMask (v : View) (f : Nat → Bool) : Nat := ofBits (fun l => v.isActive l && f l) v.lanes

/-- A mask that takes new bits in active lanes and keeps the others of mask `m` (R153). -/
def mergeMask (v : View) (m : Nat) (f : Nat → Bool) : Nat := ofBits (fun l => if v.isActive l then f l else natBit (v.msk m) l) v.lanes

/-! ## Reductions (R168) -/

/-- One step of a reduction over `n`-bit integers. -/
def intStep {n : Nat} (op : Nat) (signed : Bool) (a b : BitVec n) : BitVec n :=
  if op = 0 then a + b else if op = 1 then (if wide signed b < wide signed a then b else a)
  else if op = 2 then (if wide signed a < wide signed b then b else a)
  else if op = 3 then a &&& b else if op = 4 then a ||| b else a ^^^ b

/-- One step over f32 or f64 values: the exact sum, or the smaller or larger value, rounded to nearest even. -/
def floatStep (f : Fmt) (op : Nat) (a b : FVal) : Rounded :=
  deliverTo f .rn false 0 (if op = 1 then fminmax false a b else if op = 2 then fminmax true a b else FVal.add false a b)

/-- One step of a reduction in a format. -/
def reduceStep (f : Fmt) (op : Nat) (a b : BitVec (fmtBits f)) : BitVec (fmtBits f) :=
  if f = .f32 ∨ f = .f64 then BitVec.ofNat _ (floatStep f op (decodeElem f a.toNat) (decodeElem f b.toNat)).bits
  else intStep op (fmtSigned f) a b

/-- What a reduction starts from. -/
def reduceStart (f : Fmt) (op : Nat) : BitVec (fmtBits f) :=
  if f = .f32 then BitVec.ofNat _ (if op = 1 then 0x7F800000 else if op = 2 then 0xFF800000 else 0)
  else if f = .f64 then BitVec.ofNat _ (if op = 1 then 0x7FF0000000000000 else if op = 2 then 0xFFF0000000000000 else 0)
  else if op = 1 then (if fmtSigned f then BitVec.intMax _ else BitVec.allOnes _)
  else if op = 2 then (if fmtSigned f then BitVec.intMin _ else 0)
  else if op = 3 then BitVec.allOnes _ else 0

/-- Register `j` of a reduction's source run in lane `l`. -/
def runSrc (v : View) (t : TOp) (j l : Nat) : BitVec (fmtBits t.fmt) :=
  let i := opndIx t.a + j * regStep t.fmt
  BitVec.ofNat _ (v.vec i l + (if fmtBits t.fmt = 64 then v.vec (i + 1) l * 2 ^ 32 else 0))

/-- The reduction of register `j` over the first lanes of a list. -/
def reduceOver (v : View) (t : TOp) (j : Nat) (ls : List Nat) : BitVec (fmtBits t.fmt) :=
  ls.foldl (fun acc l => reduceStep t.fmt (t.opmod.toNat % 8) acc (runSrc v t j l)) (reduceStart t.fmt (t.opmod.toNat % 8))

/-- What `wred` writes for register `j`: the whole reduction in every active lane, or once into a scalar. -/
def wredOut (v : View) (t : TOp) (j : Nat) : Out :=
  match t.d with
  | .v i => { vecs := vecOut (fmtBits t.fmt) (i.toNat + j * regStep t.fmt) (v.active.map (fun l => (l, (reduceOver v t j v.active).toNat))) tagE }
  | .s i => { scas := [(i.toNat, extTo (fmtSigned t.fmt) (fmtBits t.fmt) 64 (reduceOver v t j v.active).toNat)] }
  | _ => {}

/-- What `scan` writes for register `j`: in each active lane the reduction of the active lanes up to it, itself left out with `.excl`. -/
def scanOut (v : View) (t : TOp) (j : Nat) : Out :=
  match t.d with
  | .v i => { vecs := vecOut (fmtBits t.fmt) (i.toNat + j * regStep t.fmt) (v.active.map (fun l =>
      (l, (reduceOver v t j (v.active.filter (fun m => decide (m < l) || (m == l && !bitOf t.opmod 3)))).toNat))) tagE }
  | _ => {}

/-- A run of `n` registers has moved register PIDX, which makes `s'` of the state: the word stays there with PIDX at the next one, or with the
last it retires and PIDX is 0 (R168, R289, R417). -/
def RunStep (s s' : State) (k : Nat) (w : Wave) (n : Nat) (i : Instr) : Prop :=
  exec i s = .next (if w.pidx + 1 < n then modWave s' k (fun x => { x with pidx := w.pidx + 1 })
    else retireWord (modWave s' k (fun x => { x with pidx := 0 })) k)

/-! ## Floating point -/

/-- The packed elements of a lane, each rounded from its exact value with the dither of its place (R175, R186, R188). -/
def packed (f : Fmt) (mode : RMode) (sat : Bool) (l : Nat) (x : Nat → FVal) : Nat :=
  ((List.range (elemCount f)).map (fun j => (deliverTo f mode sat (laneDither l j) (x j)).bits * 2 ^ (elemBits f * j))).sum

/-- The output of a word without `.b` that rounds an exact value per element: result tag E. -/
def roundOut (v : View) (t : TOp) (mode : RMode) (sat : Bool) (x : Nat → Nat → FVal) : Out :=
  putResult v false (fmtBits t.fmt) t.d tagE ((resultLanes v t.d).map (fun l => (l, packed t.fmt mode sat l (x l))))

/-- Element `j` of a source lane. -/
def elem (v : View) (t : TOp) (o : Opnd) (l j : Nat) : FVal := srcElem v t t.fmt o l j

/-- Conditions of `fcmp` on values without bounds (R199). -/
def fcondHolds (c : Nat) (a b : FVal) : Bool :=
  let num := !a.isNan && !b.isNan
  if c = 0 then num && decide (FVal.cmp a b = 0) else if c = 1 then !num || decide (FVal.cmp a b ≠ 0)
  else if c = 2 then num && decide (FVal.cmp a b < 0) else if c = 3 then num && decide (FVal.cmp a b ≤ 0)
  else if c = 4 then num && decide (FVal.cmp a b > 0) else if c = 5 then num && decide (FVal.cmp a b ≥ 0)
  else if c = 6 then !num else num

/-! ## Control flow of a wave -/

/-- The target of an offset operand (R68). -/
def jumpTo {n : Nat} (h : DWord) (off : BitVec n) : DWord := h + 4 * off.signExtend 64

/-- Lanes sent to their targets after the end of the clause; where the divergence cannot be pushed, its cause is raised (R128). -/
def sendLanes (s s' : State) (k : Nat) (lanes : List (Nat × Nat)) : State :=
  match diverge (retireWord s' k) k (targetsOf lanes) with
  | .ok u => u
  | .error e => raiseWord s k e

/-- An instruction leaves the wave at a clause boundary at `tgt`, and nothing else changed but what the end of the clause changes. -/
def GoesTo (s : State) (k : Nat) (w : Wave) (i : Instr) (tgt : DWord) : Prop :=
  ∃ t, exec i s = .next t ∧ OnlyWave s t k ((w.retireAt s.time).goto tgt)

/-- The word of the current clause takes a cause. -/
def Raises (s : State) (k : Nat) (i : Instr) (e : Trapped) : Prop := exec i s = .next (raiseWord s k e)

/-- The active lanes of a wave, ascending. -/
def activeLanes (w : Wave) : List Nat := (List.range 32).filter (fun l => bitOf w.exec l)

/-! ## Long-latency operations -/

/-- The word of wave `k` issues an operation that stays outstanding: it joins the others, attached to the flag its template chooses, and the
word retires; nothing else changes from `s'` (R40, R41). Its stores carry the releases that came before it, and `own` (R320, R321); its lines
of other packages are asked for over paths chosen now (R375), and a load keeps the copies it hit (R278). -/
def IssuesWith (s s' : State) (k : Nat) (w : Wave) (t : TOp) (i : Instr) (cls : PendCls) (dst : List RegRef) (work : Work)
    (own : List Rel) (hits : Tab (Option Copy) := []) : Prop :=
  exec i s = .next (retireWord (setWave s' k (w.addPend
    { id := w.nextId, flag := attOf w t, cls := cls, dst := dst, work := work, homes := pendHomes w
      reqs := sendReqs s' (coreOf k) (farLines s' (workParts work).1), rels := (sightOf s' (agWave k)).marks ++ own, hits := hits })) k)

/-- The same for an operation that is no release itself. -/
def Issues (s s' : State) (k : Nat) (w : Wave) (t : TOp) (i : Instr) (cls : PendCls) (dst : List RegRef) (work : Work) : Prop :=
  IssuesWith s s' k w t i cls dst work []

/-- The word of wave `k` retires, and its effect is to make `s'` of the state. -/
def Retires (s s' : State) (k : Nat) (i : Instr) : Prop := exec i s = .next (retireWord s' k)

/-- An operation of wave `k` has left its outstanding ones, and its flag counts one less. -/
def Ended (s u : State) (k id : Nat) : Prop :=
  ∀ w, waveAt s k = some w → ∃ y, waveAt u k = some y ∧ y.pend = (w.endPend id).pend ∧ y.flagCnt = (w.endPend id).flagCnt

/-! ## Tile engine -/

/-- A tile word may issue: its operands are there, the core's queue and its flag have room (R215, R40). -/
def TileReady (s : State) (k : Nat) (w : Wave) (op : Nat) (t : TOp) : Prop :=
  WaveTurn s k w ∧ Clear s k w (opGate op t false noSees w) ∧ (s.core (coreOf k)).tileQ.length < 32 ∧ flagRoom w (attOf w t) = true

/-- A scalar or constant operand of a wave's engine word as a 64-bit integer. -/
def opnd (s : State) (k : Nat) (w : Wave) (t : TOp) (o : Opnd) : Nat := scaOpnd (waveView s k w) t o

/-- A record with this work joins the core's tile queue as the youngest, and its operation the wave's outstanding ones; `s'` is the state that
the word has otherwise made of the engine. -/
def JoinsTileQueue (s s' : State) (k : Nat) (w : Wave) (t : TOp) (i : Instr) (dst : List RegRef) (work : TileWork) : Prop :=
  let peers := ((work.reads s' ++ work.writes).map (·.blk)).eraseDups.filterMap (fun b => (blockAt s' b).map (fun x => (b, x.launch, x.index)))
  let r : TileRec := { id := s.nextId, wave := k, pend := w.nextId, blk := w.block, ctx := ctxOf s w, work := work, peers := peers }
  let core := s'.core (coreOf k)
  Issues s { s'.setCore (coreOf k) { core with tileQ := core.tileQ ++ [r] } with nextId := s.nextId + 1 } k w t i .tile dst (.engine r.id)

/-- The buffers of a list are declared in a format (R213). -/
def declared (s : State) (c : Nat) (bs : List Nat) (f : AccFmt) : State := bs.foldl (fun s b => setAcc s c b (fun x => { x with fmt := f })) s

/-- The run of `m` registers from window-relative `d` on. -/
def runOf (w : Wave) (d m : Nat) : List Nat := (List.range m).map (fun i => w.phys (d + i))

/-- No `spcfg` of a block waits for tile operations to end (R280). -/
def NoWays (s : State) (b : Nat) : Prop := ∀ x, blockAt s b = some x → x.waysPend = none

/-- A tile record has left the queue and its operation has ended. -/
def EndsRecord (s u : State) (c : Nat) (r : TileRec) : Prop :=
  (∀ x ∈ (u.core c).tileQ, x.id ≠ r.id) ∧ (NoWays s r.blk → Ended s u r.wave r.pend)

/-! ## Memory accesses -/

/-- Nothing holds back a word of operation `op` (R34, R41, R403, R411). -/
def WordReady (s : State) (k : Nat) (w : Wave) (op : Nat) (t : TOp) : Prop := WaveTurn s k w ∧ Clear s k w (opGate op t false noSees w)

/-- a(L) of R282: the 64-bit base, the 32-bit offset extended and scaled, and IMM32 sign-extended, modulo 2^64. -/
def effAddr (v : View) (t : TOp) (sc : Nat) (zx : Bool) (l : Nat) : DWord :=
  let a : DWord := BitVec.ofNat 64 (srcBits v t .b64 t.a l)
  let b : Word := BitVec.ofNat 32 (srcBits v t .i32 t.b l)
  a + ((if zx then b.zeroExtend 64 else b.signExtend 64) <<< sc) + t.imm.signExtend 64

/-- The lanes an access acts for, with their addresses. -/
def accessLanes (v : View) (t : TOp) (once : Bool) (sc : Nat) (zx : Bool) : List (Nat × Nat) :=
  (if once then [v.once] else v.active).map (fun l => (l, (effAddr v t sc zx l).toNat))

/-- The addresses of register `j` of a run: IMM32 apart from register to register (R289). -/
def runLanes (v : View) (t : TOp) (j : Nat) : List (Nat × Nat) :=
  v.active.map (fun l => (l, (effAddr v { t with imm := 0 } 0 (bitOf t.opmod 8) l + BitVec.ofInt 64 (j * t.imm.toInt)).toNat))

/-- Checks of the lanes of a run's register. -/
def runOpts (t : TOp) (isLoad : Bool) : AccOpts :=
  { space := t.opmod.toNat % 8, size := fmtBits t.fmt / 8, align := fmtBits t.fmt / 8, read := isLoad, write := !isLoad }

/-- Register PIDX of `ldg`: its lanes pass their checks in `s`, no earlier access of the wave names their bytes, their misses find entries, and
none of its requests times out, and `u` is the state once the register is loaded (R277, R289, R295, R381). -/
def LoadStep (t : TOp) (s : State) (k : Nat) (w : Wave) (u : State) : Prop :=
  ∃ s1 ls s2 s3 gs,
    checkLanes s k w (runOpts t true) (runLanes (waveView s k w) t w.pidx) = (s1, .ok ls) ∧
    olderConflict s1 w.pend w.nextId (loadParts ls) = false ∧ portBlocked s1 k 0 (loadParts ls) = false ∧
    let missing := missSectors s1 (coreOf k) (ctxOf s1 w) false (loadParts ls)
    takeMisses s1 (coreOf k) missing true = some s2 ∧
    readParts s2 k (ctxOf s2 w) 0 (installs s2 (coreOf k)) (loadParts ls) = (s3, gs) ∧ gs.any (fun g => g.2.bad) = false ∧
    stepTimeout s3 (coreOf k) 4999997 (loadParts ls) = [] ∧
    let s4 := endMisses s3 (coreOf k) missing
    u = if gs.isEmpty then s4 else deliverLoad s4 k (pendHomes w) none
      (loadDst w (width64 t.fmt) (.v (BitVec.ofNat 8 (opndIx t.d + w.pidx * width64 t.fmt)))) gs false 0x086

/-- What lane `l` stores of register `j` of `stg`. -/
def runValue (v : View) (t : TOp) (j l : Nat) : Nat :=
  let r := opndIx t.c + j * width64 t.fmt
  if fmtBits t.fmt = 64 then v.vec r l + v.vec (r + 1) l * 2 ^ 32 else v.vec r l % 2 ^ fmtBits t.fmt

/-- Register PIDX of `stg`: its tags let it be stored, its lanes pass their checks in `s`, nothing comes before it, and `u` is the state once
the lanes have stored. -/
def StoreStep (t : TOp) (s : State) (k : Nat) (w : Wave) (u : State) : Prop :=
  ∃ s1 ls,
    tagCheck (waveView s k w) w ((List.range (width64 t.fmt)).map (fun i => (opndIx t.c + w.pidx * width64 t.fmt + i, false))) = none ∧
    checkLanes s k w (runOpts t false) (runLanes (waveView s k w) t w.pidx) = (s1, .ok ls) ∧
    let parts : List Part := ls.map (fun p => { lane := p.1, locs := p.2, data := BitVec.ofNat 64 (runValue (waveView s k w) t w.pidx p.1) })
    olderConflict s1 w.pend w.nextId parts = false ∧ portBlocked s1 k 0 parts = false ∧ needSnoop s1 (partAddrs parts) = none ∧
    (∀ a ∈ partAddrs parts, isPeer s1 a = false) ∧
    let s2 := if leavesBlock w.block parts then escape s1 w.block else s1
    u = storeParts s2 (agWave k) (coreOf k) (ctxOf s2 w) { rels := (sightOf s2 (agWave k)).marks } parts

/-! ## Atomics -/

/-- The new value of `amo` and `red`: the operation on the old value and the operand (R337). -/
def atomicNew {n : Nat} (signed : Bool) (aop : Nat) (old v : BitVec n) : BitVec n :=
  match aop with
  | 0 => old + v
  | 1 => old - v
  | 2 => if wide signed v < wide signed old then v else old
  | 3 => if wide signed old < wide signed v then v else old
  | 4 => old &&& v
  | 5 => old ||| v
  | 6 => old ^^^ v
  | 7 => v
  | 8 => if v.toNat ≤ old.toNat then 0 else old + 1
  | _ => if old = 0 ∨ v.toNat < old.toNat then v else old - 1

/-- The release that an operation of wave `k` is, where its order has one. -/
def ownRel (s : State) (k ord scope : Nat) : List Rel := if 2 ≤ ord then [relNow s (whoOf s (agWave k)) scope] else []

/-- An atomic word issues: its lanes pass their checks, and its release, where it has one, finds the wave's earlier accesses done. On
scratchpad addresses a scope wider than cl acts as cl; with no active lane only the order is left. -/
def AtomIssues (s : State) (k : Nat) (w : Wave) (t : TOp) (i : Instr) (sp : AtomSpec) (once : Bool) (d : Option LoadDst)
    (dst : List RegRef) : Prop :=
  ∀ s1 ls,
  let v := waveView s k w
  let n := if t.fmt = .n4 then 1 else fmtBits t.fmt / 8
  let ord := t.opmod.toNat / 16 % 4
  let scope := if ls.any (fun p => p.2.any Loc.isPhys) || ls.isEmpty then t.opmod.toNat / 64 else min 2 (t.opmod.toNat / 64)
  checkLanes s k w { size := n, align := n, read := true, write := true, split := false } (accessLanes v t once 0 false) = (s1, .ok ls) →
  (2 ≤ ord → fenceBusy w.pend 2 scope = false ∧ portPending s1 k scope = false) →
  let s2 := if 2 ≤ ord then releaseWork s1 (agWave k) scope else s1
  let parts : List Part := ls.map (fun p =>
    { lane := p.1, locs := p.2, data := BitVec.ofNat 64 (srcBits v t (if sp.nib then .b32 else t.fmt) t.c p.1) })
  let s3 := if leavesBlock w.block parts then escape s2 w.block else s2
  (ls = [] → Retires s (if ord % 2 = 1 then acquireAt s2 (agWave k) (coreOf k) (ctxOf s2 w) scope else s2) k i) ∧
  (ls ≠ [] → flagRoom w (attOf w t) = true → IssuesWith s s3 k ((waveAt s3 k).getD w) t i .mem dst
    (.atomic { sp with scope := scope } d parts (if sp.cas then ls.map (fun p => (p.1, BitVec.ofNat 64 (srcBits v t t.fmt t.d p.1))) else []) [])
    (ownRel s3 k ord scope))

/-- What an atomic word asks of its unit (R332, R336). -/
def atomSpec (t : TOp) (nib cas : Bool) : AtomSpec :=
  { aop := t.opmod.toNat % 16, fmt := t.fmt, nib := nib, cas := cas, scope := t.opmod.toNat / 64, acq := bitOf t.opmod 4 }

/-! ## Accesses completed at their homes -/

/-- What the lanes of a row operation of scarab `k` read past the caches, lane by lane (R391). -/
def rowReads (s : State) (k : Nat) (x : Scarab) (parts : List Part) : State × List (Nat × Got) :=
  parts.foldl (fun acc q => match readLocs acc.1 256 x.ctx (agScarab k) { hs := true } (20 * q.lane) q.locs with
    | (s, g) => (s, acc.2 ++ [(q.lane, g)])) (s, [])

/-- The outstanding operation `id` of a list. -/
def isPend (l : List Pend) (id : Nat) (p : Pend) (work : Work) : Prop := l.find? (fun q => q.id == id) = some p ∧ p.work = work

/-- The store of `id` marked as applied at its homes. -/
def applied (l : List Pend) (id : Nat) (parts : List Part) (tag : Option Byte) : List Pend :=
  l.map (fun q => if q.id = id then { q with work := .store parts tag true } else q)

/-- A barrier after member `m` has arrived: the phase completes with the last of its members (R345). -/
def afterArrival (x : Barrier) (m : Nat) : Barrier :=
  if ∀ y ∈ x.members, y = m ∨ y ∈ x.arrived ∨ y ∈ x.gone then { x with phase := !x.phase, arrived := [] }
  else { x with arrived := x.arrived ++ [m] }

/-- It is the turn of wave `k` at a barrier word, whose name binds barrier `x` under `key`. -/
def AtBarrier (s : State) (k : Nat) (w : Wave) (t : TOp) (key : Nat) (x : Barrier) : Prop :=
  WaveTurn s k w ∧ w.comp = none ∧ s.bars.look none key = some x ∧
    ∃ b, blockAt s w.block = some b ∧ key = barKey w.block b (t.opmod.toNat % 128)

/-- What a wave that leaves barrier `x` has done: it waits no more, joins the arrivals of the latest phase, and acquires at the barrier's scope
(R347). -/
def leavesBar (s : State) (k : Nat) (w : Wave) (x : Barrier) (scope : Nat) : State :=
  let s := setWave s k { w with barWait := none, barOpen := false, barArrived := none }
  acquireAt (joinTo s (agWave k) x.at_) (agWave k) (coreOf k) (ctxOf s w) scope

/-- Barrier `key` of `u` is `x` after member `me` has arrived; a phase that completes is marked with the stores applied so far, and every wave
that waits there is released (R345). -/
def Arrives (s u : State) (k key me : Nat) (x : Barrier) : Prop :=
  let done := (afterArrival x me).phase ≠ x.phase
  (∃ y, u.bars.look none key = some y ∧ y = { afterArrival x me with at_ := y.at_ } ∧ (done → y.at_ = s.clock)) ∧
  (∀ j, j ≠ key → u.bars.look none j = s.bars.look none j) ∧
  (done → ∀ j y, j ≠ k → waveAt s j = some y → y.barWait = some key → ∃ z, waveAt u j = some z ∧ z.barOpen = true)

/-- A poll of `waitm` by a wave that stands in `s'` as `w`, its lanes' bytes checked: it leaves where every lane's condition holds, else it waits
for the next (R349, R350). -/
def Polls (s s' : State) (k : Nat) (w : Wave) (t : TOp) (ls : List (Nat × List Loc)) : Prop :=
  ∀ s2 gs, olderConflict s' w.pend w.nextId (loadParts ls) = false → portBlocked s' k 0 (loadParts ls) = false →
    readParts s' k (ctxOf s' w) 2 (installs s' (coreOf k)) (loadParts ls) = (s2, gs) → gs.any (fun g => g.2.bad) = false →
    let holds := gs.all (fun g => waitCond (t.opmod.toNat % 8) g.2.val (srcBits (waveView s' k w) t t.fmt t.c g.1))
    (holds = true →
      let u := modWave s2 k (fun w => { w with hold := .no, polled := none })
      Retires s (if bitOf t.opmod 3 then acquireAt u (agWave k) (coreOf k) (ctxOf u w) (t.opmod.toNat / 16) else u) k (.waitm t)) ∧
    (holds = false → ∀ y, waveAt s2 k = some y → exec (.waitm t) s = .next (waitAgain s2 k y (watchLines s2 ls)
      (((List.range ls.length).zip ls).all (fun p => (gs[p.1]?).any (fun g => holdsNow s2 p.2.2 g.2.val)))))


/-! ## Copies and chains -/

/-- A copy record joins the core's copy engine, and its operation the wave's outstanding ones, from `s'` on. -/
def JoinsCopies (s s' : State) (k : Nat) (w : Wave) (t : TOp) (i : Instr) (r : CopyRec) : Prop :=
  let x := { r with id := s.nextId, wave := k, pend := w.nextId, ctx := ctxOf s w, blk := w.block }
  Issues s { s'.setCore (coreOf k) { s'.core (coreOf k) with copies := (s'.core (coreOf k)).copies ++ [x] } with nextId := s.nextId + 1 }
    k w t i .async [] (.engine s.nextId)

/-- A copy's fields that a wave's word leaves open are those of the word. -/
def copyOf (t : TOp) (work : CopyWork) : CopyRec :=
  { id := 0, wave := 0, pend := 0, ctx := 0, blk := 0, work := work, crc := bitOf t.imm 3, stash := bitOf t.imm 4, ev := bitOf t.imm 5
    scope := t.imm.toNat % 8 }

/-- What a copy word comes to, given whether its operands break R355 or R356, and the sources whose tags are checked last. -/
def CopyIssues (s : State) (k : Nat) (w : Wave) (t : TOp) (i : Instr) (bad : Bool) (work : CopyWork) (tags : List (Nat × Bool)) : Prop :=
  let sc := t.imm.toNat % 8
  let lost := copyLost s k w work
  (bad = true ∨ 64 ≤ t.imm.toNat ∨ sc = 0 ∨ sc = 7 → Raises s k i { cause := 0x153 }) ∧
  (bad = false → t.imm.toNat < 64 → sc ≠ 0 → sc ≠ 7 →
    (∀ l a r, lost = (l, a) :: r → Raises s k i { cause := 0x087, detail := l, addr := a, lanes := lost.foldl (fun m p => m ||| 2 ^ p.1) 0 }) ∧
    (∀ e, lost = [] → tagCheck (waveView s k w) w tags = some e → Raises s k i e) ∧
    (lost = [] → tagCheck (waveView s k w) w tags = none →
      (512 ≤ recordsUsed (s.core (coreOf k)) → exec i s = .next s) ∧
      (recordsUsed (s.core (coreOf k)) < 512 → flagRoom w (attOf w t) = true → JoinsCopies s s k w t i (copyOf t work))))

/-- Room for an event of a core. -/
def EventRoom (s : State) (c : Nat) : Prop := eventRoom (coxAt s c) = true ∧ (s.core c).heldEvents = []

/-- Record `seq` of the chain whose header lies at `h` may run: the chain, the record's address and its bytes, read in going to `s1`. -/
def ChainRuns (s s1 : State) (op c h seq : Nat) (ch : Chain) (a : Nat) (r : List Byte) : Prop :=
  (s.core c).chains.find? (fun x => x.hdr.toNat == h) = some ch ∧ chainRec s c ch seq = (s1, .ok (a, r)) ∧ recOp r = op ∧
    recBad s1 ch.ctx r = false ∧ recRuns s1 c ch seq r = true

/-! ## Remote stores -/

/-- A word of class remote store stays outstanding until its packets are acknowledged. -/
def awaitsPackets (w : Wave) (t : TOp) (ids : List Nat) : Pend :=
  { id := w.nextId, flag := attOf w t, cls := .rst, dst := [], work := .packets ids, homes := pendHomes w }


/-! ## Special registers and traps -/

/-- What `srd` reads of the registers that hold one value for the wave, by number (R412). -/
def specialValues (s : State) (w : Wave) (i : Nat) : List (Nat × Nat) :=
  [ (0x40, (BitVec.ofNat 64 (w.pcPos * 2 ^ 56 + (w.pcHdr.toNat + 4 * w.pcPos) % 2 ^ 56)).toNat)
  , (0x41, (w.bud / 8 - 1) * 2 ^ 24 + w.rlo * 2 ^ 12 + w.base)
  , (0x42, w.dsel)
  , (0x44, w.pquant.toNat)
  , (0x45, w.pidx)
  , (0x46, w.cbm.toNat / 2 ^ (64 * i) % 2 ^ 64)
  , (0x47, w.tvec.toNat)
  , (0x48, w.tcause.toNat)
  , (0x49, w.tprov.toNat)
  , (0x4A, match blockAt s w.block with
      | some b => ofBits (fun n => (s.bars.look none (barKey w.block b (64 * i + n))).any (fun x => x.phase)) 64
      | none => 0)
  , (0x4B, w.spillBase.toNat) ]

/-- A wave stands at a fetched clause `c`, outside handler mode, with a handler and room for a TRAP entry. -/
def MayTrap (s : State) (w : Wave) (c : Clause) : Prop :=
  w.clause = some c ∧ c.inj = false ∧ bitOf c.prov 63 = false ∧ w.comp = none ∧ w.inHandler = false ∧ w.tvec ≠ 0 ∧ StackRoom s w 1

/-- The wave is in its handler for a cause: what the entry saved and where it went (R404, R405). -/
def InTrap (w y : Wave) (addr : DWord) (pos cause wordPos detail : Nat) : Prop :=
  y.stack = .trap addr pos cause w.exec :: w.stack ∧ y.tcause = tcauseWord cause wordPos 0 detail ∧ y.exec = ~~~ w.exited ∧
  y.pcHdr = w.tvec ∧ y.pcPos = 0 ∧ y.clause = none ∧ y.pidx = 0 ∧ y.trec2 = BitVec.ofNat 64 w.pidx

/-- Cycles of issue a path runs for (R129). -/
def pathQuantum (w : Wave) : Nat := if w.pquant = 0 then 65536 else w.pquant.toNat

/-- A wave at a clause boundary, free to take its next clause from memory. -/
def AtBoundary (s : State) (k : Nat) (w : Wave) : Prop :=
  waveAt s k = some w ∧ w.ended = false ∧ w.hold = .no ∧ w.clause = none ∧ w.inj = []


/-! ## Crossbar arrays -/

/-- A record joins an array's queue, and its operation the wave's outstanding ones; `a` is the array otherwise. -/
def JoinsArray (s : State) (k : Nat) (w : Wave) (t : TOp) (i : Instr) (x : Nat) (a : XArr) (dst : List RegRef) (work : XWork) : Prop :=
  Issues s { setXarr s (coreOf k) x { a with queue := a.queue ++ [{ id := s.nextId, wave := k, pend := w.nextId, work := work }] } with
    nextId := s.nextId + 1 } k w t i .xbar dst (.engine s.nextId)

/-- Words of a context may name the array: it owns it and has not released it (R252). -/
def Owns (a : XArr) (ctx : Nat) : Prop := a.owner = some ctx ∧ ∀ r ∈ a.queue, r.work ≠ .xrel

/-- Records of an array that are queued or run. -/
def queued (a : XArr) : Nat := (a.queue.filter (fun r => r.work != .xrel)).length

/-- A word that asks an array for a record: its checks in order, then its place in the queue (R252 to R257). -/
def AsksArray (s : State) (k : Nat) (w : Wave) (t : TOp) (i : Instr) (av : Nat) (bad loaded : Bool) (a' : XArr → XArr) (dst : List RegRef)
    (work : XWork) : Prop :=
  let a := xarr s (coreOf k) av
  (2 ≤ av ∨ bad = true → Raises s k i { cause := 0x113 }) ∧
  (av < 2 → bad = false →
    (¬ Owns a (ctxOf s w) → Raises s k i { cause := 0x111 }) ∧
    (Owns a (ctxOf s w) → loaded = true → a.state = .empty ∨ a.state = .failed → Raises s k i { cause := 0x112 }) ∧
    (Owns a (ctxOf s w) → (loaded = true → a.state ≠ .empty ∧ a.state ≠ .failed) →
      (8 ≤ queued a → exec i s = .next s) ∧
      (queued a < 8 → flagRoom w (attOf w t) = true → JoinsArray s k w t i av (a' a) dst work)))

/-- Record `r` heads the queue of an array and does this work. -/
def AtHead (s : State) (c x : Nat) (r : XRec) (work : XWork) : Prop := (xarr s c x).queue.head? = some r ∧ r.work = work

/-- Lane `l` of register `j` of a product of columns `ys`, added to an accumulator register or alone (R247, R255). -/
def productLane (ys : Nat → Int) (acc : Option (Vector Word 32 × Nat)) (j l : Nat) : Int := match acc with
  | none => ys (32 * j + l)
  | some (v, sh) => (((v.toList[l]?).getD 0).toInt + ys (32 * j + l) * 2 ^ sh)

/-- A sum held to the 32-bit range. -/
def clamp32 (x : Int) : Int := max (-2 ^ 31) (min (2 ^ 31 - 1) x)

/-- The expected result of reference column j of an input: the exact quotient rounded to the nearest, ties to even (R247). -/
def RefExpects (sh : Nat) (xs : List Int) (j : Nat) (e : Int) : Prop :=
  let sum := fun m => (((List.range 512).filter (fun r => r % 8 = m)).map (fun r => xs.getD r 0)).sum
  let n := 15 * (sum j - sum (7 - j))
  2 * (e * 2 ^ sh - n).natAbs ≤ 2 ^ sh ∧ (2 * (e * 2 ^ sh - n).natAbs = 2 ^ sh → e % 2 = 0)

/-- The records behind one that leaves its array FAILED: those before the next programming deliver nothing (R255, R257). -/
def failedBehind (q : List XRec) : List XRec :=
  let isProg := fun (r : XRec) => match r.work with
    | .xprog _ => true
    | _ => false
  (q.takeWhile (fun r => !isProg r)).map (fun r => { r with failed := true }) ++ q.dropWhile (fun r => !isProg r)


/-! ## Scarabs -/

/-- The word of scarab `k` retires, and its effect is to make `y` of the scarab; nothing else changes. -/
def ScRetires (s : State) (k : Nat) (i : Instr) (y : Scarab) : Prop := ∃ u, exec i s = .next u ∧ OnlyScarab s u k y.retire

/-- The word of scarab `k` faults: its launch ends with the in-band error "scarab fault" (R397, R400). -/
def ScFaults (s : State) (k : Nat) (i : Instr) (cause : Nat) : Prop := exec i s = .next (scarabFault s k cause)

/-- The flag of a scarab's word can count one more. -/
def ScRoom (x : Scarab) (t : TOp) : Prop := ∀ f, scFlag x t = some f → x.flagCnt.look 0 f < 63

/-- The scarab with the outstanding operation that a word of it issues. -/
def scWith (s : State) (k : Nat) (t : TOp) (cls : PendCls) (dst : List RegRef) (work : Work) : Scarab :=
  let x := scarabAt s k
  x.addPend { id := x.nextId, flag := scFlag x t, cls := cls, dst := dst, work := work, rels := (sightOf s (agScarab k)).marks
              pc := x.pcValue }

/-- The bank a row operation names, open (R390, R391). -/
def rowFault (x : Scarab) (b burst : Nat) : Option Nat :=
  if 64 ≤ b ∨ 8 ≤ burst then some 0x161 else if b ∉ x.open_ then some 0x163 else none

/-- The active lanes' words of a burst of a bank's row, lane `l` at byte 4l of the scarab's 256 (R390, R391). -/
def burst (s : State) (k b n : Nat) (val : Nat → Nat) : List Part :=
  let x := scarabAt s k
  ((List.range 64).filter (fun l => bitOf x.exec l)).map (fun l =>
    { lane := l, data := BitVec.ofNat 64 (val l)
      locs := (List.range 4).map (fun i =>
        .phys (2 ^ 40 + k / 16 * 2 ^ 36 + x.row * 2 ^ 21 + b * 2 ^ 15 + n * 2 ^ 12 + k % 16 * 2 ^ 8 + 4 * l + i) x.grade []) })

/-- What `colred` makes of a lane: the operation on its own word and the one that came (R395). -/
def collCombine (op : Nat) (f : Fmt) (own got : Nat) : Nat :=
  if op = 3 then own &&& got else if op = 4 then own ||| got else if op = 5 then own ^^^ got else combine op f own got


/-! ## Coxes and umpires -/

/-- A general register of a cox; g0 reads zero (R76). -/
def gReg (x : Cox) (i : BitVec 5) : DWord := if i = 0 then 0 else x.gregs.look 0 i.toNat

/-- The cox once it has retired an instruction at its PC, going on at `pc` (R75). -/
def coxNext (x : Cox) (pc : DWord) : Cox := { x with pc := pc, retired := x.retired + 1, wait := .no }

/-- The instruction retires, with `v` in gD: a write of g0 is discarded, and nothing else of the machine changes (R76). -/
def WritesReg (s : State) (c : Nat) (i : Instr) (d : BitVec 5) (v : DWord) : Prop :=
  ∃ u y, exec i s = .next u ∧ OnlyCox s u c y ∧
    let x := coxAt s c
    y = { coxNext x (x.pc + 4) with gregs := y.gregs, parity := y.parity } ∧
    ∀ r, gReg y r = if r = d ∧ d ≠ 0 then v else gReg x r

/-- The instruction retires and goes on at `pc`, and the cox is otherwise `y`. -/
def CoxGoes (s : State) (c : Nat) (i : Instr) (y : Cox) (pc : DWord) : Prop :=
  ∃ u, exec i s = .next u ∧ OnlyCox s u c (coxNext y pc)

/-- The instruction faults with a cause, a detail and a value, its state otherwise `t` (R95). -/
def CoxFaults (s t : State) (c : Nat) (i : Instr) (cause detail : Nat) (val : DWord) : Prop :=
  exec i s = .next (coxTrapAt t c cause detail val)

/-- The two-register operations (R85). -/
def coxSpecs : List ((BitVec 5 → BitVec 5 → BitVec 5 → Instr) × (DWord → DWord → DWord)) :=
  [ (.coxAdd, fun a b => a + b)
  , (.coxSub, fun a b => a - b)
  , (.coxAnd, fun a b => a &&& b)
  , (.coxOr, fun a b => a ||| b)
  , (.coxXor, fun a b => a ^^^ b)
  , (.sll, fun a b => a <<< (b.toNat % 64))
  , (.srl, fun a b => a >>> (b.toNat % 64))
  , (.coxSra, fun a b => a.sshiftRight (b.toNat % 64))
  , (.slt, fun a b => if a.slt b then 1 else 0)
  , (.sltn, fun a b => if a.ult b then 1 else 0)
  , (.coxMul, fun a b => a * b)
  , (.coxMulh, fun a b => (a.signExtend 128 * b.signExtend 128).extractLsb' 64 64)
  , (.coxDiv, fun a b => if b = 0 then BitVec.allOnes 64 else a.sdiv b)
  , (.coxRem, fun a b => if b = 0 then a else a.srem b) ]

/-- The operations with a 16-bit immediate (R86). -/
def coxImmSpecs : List ((BitVec 5 → BitVec 5 → BitVec 16 → Instr) × (DWord → BitVec 16 → DWord)) :=
  [ (.addi, fun a i => a + i.signExtend 64), (.andi, fun a i => a &&& i.zeroExtend 64), (.ori, fun a i => a ||| i.zeroExtend 64)
  , (.xori, fun a i => a ^^^ i.zeroExtend 64) ]

/-- The shifts by a constant (R86). -/
def coxShiftSpecs : List ((BitVec 5 → BitVec 5 → BitVec 6 → Instr) × (DWord → Nat → DWord)) :=
  [ (.slli, fun a k => a <<< k), (.srli, fun a k => a >>> k), (.srai, fun a k => a.sshiftRight k) ]

/-- The loads: bytes and whether the value is sign-extended (R89). -/
def coxLoads : List ((BitVec 5 → BitVec 5 → BitVec 16 → Instr) × Nat × Bool) :=
  [ (.ldB, 1, true), (.ldH, 2, true), (.ldW, 4, true), (.ldD, 8, false), (.ldBn, 1, false), (.ldHn, 2, false), (.ldWn, 4, false) ]

/-- The stores and their bytes (R90). -/
def coxStores : List ((BitVec 5 → BitVec 5 → BitVec 16 → Instr) × Nat) := [(.stB, 1), (.stH, 2), (.stW, 4), (.stD, 8)]

/-- The branches and their conditions (R93). -/
def coxBranches : List ((BitVec 5 → BitVec 5 → BitVec 16 → Instr) × (DWord → DWord → Bool)) :=
  [ (.beq, fun a b => a == b), (.bne, fun a b => a != b), (.blt, fun a b => a.slt b), (.bge, fun a b => !a.slt b), (.bltn, fun a b => a.ult b)
  , (.bgen, fun a b => !a.ult b) ]

/-- The new value of a cox atomic on an `n`-bit value (R91). -/
def coxAtomicNew {n : Nat} (op : Nat) (old v cmp : BitVec n) : BitVec n :=
  match op with
  | 0 => old + v
  | 1 => old &&& v
  | 2 => old ||| v
  | 3 => old ^^^ v
  | 4 => v
  | 5 => if old.slt v then old else v
  | 6 => if old.slt v then v else old
  | 7 => if old.ult v then old else v
  | 8 => if old.ult v then v else old
  | _ => if old = cmp then v else old

/-- The CSRs that every cox and umpire has, with what they read (R80). -/
def csrValues (s : State) (c : Nat) (x : Cox) : List (Nat × Nat) :=
  [ (0x001, (if x.hm then 1 else 0) + (if c < 256 then 0 else 2)), (0x002, x.xvec.toNat), (0x003, x.xepc.toNat), (0x004, x.xcause.toNat)
  , (0x005, x.xval.toNat), (0x006, x.xscr.toNat), (0x010, s.time % 2 ^ 64), (0x011, x.retired.toNat), (0x024, x.lmlim)
  , (0x030, x.events.length + (x.events.filter (fun e => fieldOf e.1 0 8 == 2)).length * 2 ^ 16 + (if x.held then 2 ^ 32 else 0))
  , (0x040, x.eseq.toNat) ]

/-- The cox as a write of a CSR leaves it. -/
def csrWritten (x : Cox) (v : DWord) : List (Nat × Cox) :=
  [ (0x001, x), (0x002, { x with xvec := BitVec.ofNat 64 (v.toNat / 4 * 4) }), (0x003, { x with xepc := BitVec.ofNat 64 (v.toNat / 4 * 4) })
  , (0x004, x), (0x005, x), (0x006, { x with xscr := v }), (0x010, x), (0x011, x), (0x024, x)
  , (0x030, { x with held := x.held && !bitOf v 32 }), (0x040, x) ]

/-- The instructions that only a core's cox has, and those that only an umpire has, are illegal on the other (R84). -/
def WrongKind (kind : CoxKind) (i : Instr) : Prop :=
  ∀ s c, s.cur = .cox c → (kind = .core ∧ 256 ≤ c ∨ kind = .umpire ∧ c < 256) →
    CoxFaults s s c i 0x180 0 ((coxWordOf i).zeroExtend 64)


/-! ## The generator -/

/-- The bits of a word of a wave slot of a cox's core. -/
def lm64 (x : Cox) (a : Nat) : Nat := ((List.range 8).map (fun i => (x.lmem.look 0 (a + i)).toNat * 256 ^ i)).sum

/-- Words written into the arena from `va` on: the range lies in the arena, its bytes can be stored at once, and the fetched copies of its lines
are dropped (R106, R114). -/
def ArenaWritten (s : State) (c : Nat) (x : Cox) (va : Nat) (ws : List Word) (u : State) : Prop :=
  ∃ ctx k s1 ls s2, x.ctx = some ctx ∧ contextAt s ctx = some k ∧
    va % 4 = 0 ∧ k.arena.toNat ≤ va ∧ va + 4 * ws.length ≤ k.arena.toNat + k.arenaSize.toNat ∧
    engLocs s c (coxCtx x) va (4 * ws.length) true 800 = (s1, .ok ls) ∧
    let parts : List Part := ((List.range ws.length).zip ws).map (fun p => { lane := 0, locs := (ls.drop (4 * p.1)).take 4, data := p.2.zeroExtend 64 })
    olderConflict s1 x.sbuf x.nextId parts = false ∧
    coxStoreNow (keepOldWords s1 (coxCtx x) parts) c x { rels := (sightOf s1 (agCox c)).marks } parts = some s2 ∧
    u = dropFetched s2 (c / 32) (linesOf s2 (partAddrs parts))

/-- An instruction that writes gD in a state `t` it has made, and retires. -/
def WritesIn (s t : State) (c : Nat) (i : Instr) (d : BitVec 5) (v : Nat) : Prop :=
  exec i s = .next (coxRetire (setCox t c ((coxAt t c).setG d v)) c ((coxAt s c).pc + 4))

/-- The header that a commit writes: the buffer's with its number of words (R105). -/
def committed (x : Cox) : Word := (x.cbh &&& ~~~ 0xF) ||| BitVec.ofNat 32 x.cbw.length

/-- The buffer passes the checks of R105. -/
def Commits (x : Cox) : Prop :=
  let h := committed x
  x.hv = true ∧ x.cbw.length ≤ 15 ∧ fieldOf h 28 4 = 0xA ∧ hdrSetA h ∉ [12, 13, 14] ∧ hdrSetB h ∉ [12, 13, 14] ∧
  (x.cbw = [] → hdrSetA h = 15 ∧ hdrSetB h = 15) ∧ (hdrClass h = 5 → x.cbw.length ≤ 1)

/-- A word of a clause that only a wave's own code may hold: a fixed word other than `nop` (R107). -/
def isCtrlWord (w : Word) : Bool := decide (1 ≤ fieldOf w 24 8) && decide (fieldOf w 24 8 < 0x20)

/-- Wave slot `q` of a core holds a live wave of the cox's context. -/
def SlotOf (s : State) (c : Nat) (x : Cox) (q : Nat) (w : Wave) : Prop :=
  q < 64 ∧ waveAt s (64 * c + q) = some w ∧ w.ended = false ∧ x.ctx = some (ctxOf s w)

/-- Words that a wave's injection queue can still take (R110). -/
def roomInQueue (w : Wave) : Nat := 64 - (w.inj.map (fun q => q.words.length + 1)).sum

/-- What a start of waves asks (R118, R119): the control word's fields, the block and the budgets. -/
def MaySpawn (s : State) (c : Nat) (x : Cox) (addr : Nat) (blk : Block) (buds : List Nat) : Prop :=
  let entry := lm64 x addr
  let ctl := lm64 x (addr + 8)
  let first := ctl / 2 ^ 32 % 256
  let n := ctl / 2 ^ 40 % 256
  addr % 8 = 0 ∧ addr + 0x68 ≤ x.lmlim * 4096 ∧ addr < 0x10000 ∧ x.ctx = some blk.ctx ∧ blk.killed = false ∧ blk.last = false ∧ 1 ≤ n ∧
  first ≤ 31 ∧ first + n ≤ buds.length ∧ (∀ i ∈ blk.spawned, i < first ∨ first + n ≤ i) ∧ entry % 4 = 0 ∧ entry < 2 ^ 56 ∧ ctl < 2 ^ 49 ∧
  lm64 x (addr + 0x10) % 4096 = 0 ∧ lm64 x (addr + 0x18) % 4096 = 0 ∧ 0x81000 ≤ lm64 x (addr + 0x18) ∧ x.sbuf = [] ∧
  ∀ q, q < 4 → ((List.range n).filter (fun j => (first + j) % 4 == q)).length ≤
    ((List.range 16).filter (fun i => (waveAt s (64 * c + 16 * q + i)).isNone)).length


/-! ## Ports, the host, windows and extents -/

/-- Only port `n` changes, to `p`. -/
def withPort (s : State) (n : Nat) (p : Port) : State := { s with ports := s.ports.put {} n p }

/-- One more, saturating. -/
def more (n : Nat) : Nat := min 65535 (n + 1)

/-- Windows that are enabled besides window `n`. -/
def othersOn (s : State) (n : Nat) : List (Nat × Window) := s.mscw.filter (fun p => p.2.en && p.1 != n)

/-- What lets a window be enabled (R311): a size, three quarters of MC not exceeded, no overlap, a granted extent around it. -/
def MayEnable (s : State) (n base size : Nat) : Prop :=
  size ≠ 0 ∧ 4 * (2 ^ 21 * (((othersOn s n).map (·.2.size)).sum + size)) ≤ 3 * (16 * s.mcGiB * 2 ^ 30) ∧
  (∀ p ∈ othersOn s n, base + size * 2 ^ 21 ≤ p.2.base.toNat ∨ p.2.base.toNat + p.2.size * 2 ^ 21 ≤ base) ∧
  ∃ p ∈ s.extents, p.2.state = .granted ∧ p.2.base ≤ base ∧ base + size * 2 ^ 21 ≤ p.2.base + p.2.size

/-- A translation maps part of an extent. -/
def mapsPart (e : Extent) (x : TlbEntry) : Prop :=
  let pa := fieldOf x.pte 16 36 * 65536
  pa < e.base + e.size ∧ e.base < pa + x.pages * 65536



/-! ## The umpire and the distributors -/

/-- The anchor die runs and its image was accepted. -/
def UmpireUp (s : State) : Prop := s.sys.anchorLost = false ∧ s.sys.bootFailed = false

/-- The mapped queue of slot `n` has a record to consume: its kick has been taken, no launch of it waits for its account or the power cap, and
its descriptor's WRIDX is not RDIDX (R427, R428, R434). -/
def HasRecord (s : State) (n : Nat) (x : QSlot) : Prop :=
  s.qslots.look none n = some x ∧ x.queue ∈ s.taken ∧ x.suspended = false ∧ x.blocked = false ∧
  (∀ q ∈ launchesOf s x.queue, standsReady s q.1 q.2 = true → q.2.short = false ∧ fitsAccount s q.2 = true) ∧
  ∃ w, descField s x.queue 0x24 = some w ∧ w ≠ x.rdidx

/-- The bytes of that record. -/
def recordBytesAt (s : State) (x : QSlot) : Option (List Byte) := qRead s x (x.ring.toNat + 128 * (x.rdidx % 2 ^ x.lg)) 128

/-- The record of the slot consumed: that is journalled, RDIDX advances, in the slot and in the descriptor, and with the last record the kick is
served. -/
def consumed (s : State) (n : Nat) (x : QSlot) : State :=
  let i := (x.rdidx + 1) % 2 ^ 32
  let j := journalNow s
  let t := descPut { j with qslots := j.qslots.put none n (some { x with rdidx := i }) } x.queue 0x30 i
  if descField t x.queue 0x24 = some i then { t with taken := t.taken.filter (fun q => decide (q ≠ x.queue)) } else t

/-- Little-endian field of a record or object. -/
def le (b : List Byte) (o n : Nat) : Nat := ((List.range n).map (fun i => ((b[o + i]?).getD 0).toNat * 256 ^ i)).sum

/-- What a launch record gives a launch (R429, R99), and that nothing of it has run. -/
def LaunchOf (queue : Nat) (r : List Byte) (k : List Byte) (x : Launch) : Prop :=
  x.queue = queue ∧ x.prio = le r 0 4 / 2 ^ 8 % 4 ∧ x.lastG = (le r 0 4).testBit 10 ∧ x.lastP = (le r 0 4).testBit 11 ∧
  x.lastJ = (le r 0 4).testBit 12 ∧ x.fuse = (le r 0 4).testBit 13 ∧ x.clusterSize = le r 0 4 / 2 ^ 14 % 8 + 1 ∧
  x.ix = le r 4 2 ∧ x.graph = le r 6 2 ∧ x.phase = le r 8 2 ∧ x.job = le r 10 2 ∧ x.dieMask.toNat = le r 0xC 1 ∧
  x.kbase.toNat = le r 0x10 8 ∧ x.args.toNat = le r 0x18 8 ∧ x.gx = le r 0x20 4 ∧ x.gy = le r 0x24 4 ∧ x.gz = le r 0x28 4 ∧
  x.psmax = le r 0x2C 4 ∧ x.barMap.toNat = le r 0x30 8 ∧ x.ntiles = le r 0x38 4 ∧ x.tileIt = le r 0x3C 4 ∧ x.fixBase.toNat = le r 0x40 8 ∧
  (∀ d, d ∈ x.deps ↔ d ≠ 0xFFFF ∧ ∃ i, i < 4 ∧ d = le r (0x48 + 2 * i) 2) ∧ x.collgrp.toNat = le r 0x50 2 ∧ x.user.toNat = le r 0x60 8 ∧
  x.est = le k 0x40 4 * (x.gx * x.gy * x.gz) ∧ x.attr.toNat = le k 0x3C 4 % 16 ∧ (x.scarab = true ↔ le k 0x44 4 ≠ 0) ∧
  x.state = .waiting ∧ x.status = 0 ∧ x.err = none ∧ x.energy = 0

/-- The queue's launch whose turn it is: it stands ready, and none that came before it does. -/
def FirstReady (s : State) (l : Nat) (x : Launch) : Prop :=
  standsReady s l x = true ∧ ∀ p ∈ launchesOf s x.queue, p.1 < l → standsReady s p.1 p.2 = false

/-- The core that R440 chooses among those of a die: suitable, with the most free wave slots, the lowest of them. -/
def Chosen (s : State) (die c : Nat) (x : Launch) (buds : List Nat) (spad : Nat) : Prop :=
  c / 32 = die ∧ coreTakes s c x buds spad = true ∧ ∀ d, d / 32 = die → coreTakes s d x buds spad = true →
    freeWaves s d buds < freeWaves s c buds ∨ (freeWaves s d buds = freeWaves s c buds ∧ c ≤ d)

/-- The record of a launch's own level (R435). -/
def launchRecordOf (x : Launch) (energy : Nat) : Compl :=
  { queue := x.queue, level := 0, status := x.status, ident := x.ix
    errWord := x.err.elim 0 (fun e => BitVec.ofNat 32 (e.cls + e.unit * 2 ^ 8 + e.unitIx % 2 ^ 16 * 2 ^ 16))
    errAddr := x.err.elim 0 (·.addr)
    user := x.user, energy := energy }



/-! ## Power, security and loss -/

/-- PWRREQ with its fields (R455). -/
def request (kind index chan target status : Nat) : DWord :=
  BitVec.ofNat 64 (target + chan * 2 ^ 8 + index * 2 ^ 12 + kind * 2 ^ 20 + status * 2 ^ 24)

/-- A request is taken up: the anchor die is there, and no other request is in progress (R455). -/
def TakesRequest (s : State) (kind index chan target : Nat) : Prop :=
  s.sys.anchorLost = false ∧ (fieldOf s.sys.pwrreq 24 8 ≠ 1 ∨ s.sys.pwrreq = request kind index chan target 1)

/-- The request ends, or goes on, with a status in a state `t`. -/
def Answers (e : Instr) (s : State) (kind index chan target status : Nat) (t : State) : Prop :=
  exec e s = .next { t with sys := { t.sys with pwrreq := request kind index chan target status } }

/-- The table of R454. -/
def Allowed (life dbg pwr : Nat) (session conf halted : Bool) : Prop :=
  dbg = 2 → pwr < 2 ∧ (life = 1 ∨ life = 2 → session = true) ∧ (life = 2 → conf = false) ∧ (life ≠ 1 → life ≠ 2 → pwr = 1 → halted = false)

/-- The channels `ks` of state `s` in a state of service, as `t` has them; nothing but channels, scarabs, their reserved rows and what they have heard of
changes. -/
def ChannelsTo (s t : State) (ks : List Nat) (c : ChanState) : Prop :=
  t = { s with scarabs := t.scarabs, scRows := t.scRows, sights := t.sights, sys := { s.sys with chans := t.sys.chans } } ∧
  ∀ k, (k ∈ ks → t.sys.chans.look .on k = c) ∧ (k ∉ ks → t.sys.chans.look .on k = s.sys.chans.look .on k ∧ scarabAt t k = scarabAt s k)

/-- The live scarabs of some channels stop in self-refresh with their rows closed, and the rows of the channel hold their state (R399); the
others are as they were. -/
def ScarabsSleep (s t : State) (ks : List Nat) : Prop :=
  ∀ k ∈ ks, let x := scarabAt s k
    (x.state ≠ .running → scarabAt t k = x) ∧
    (x.state = .running → (scarabAt t k).state = .selfRefresh ∧ (scarabAt t k).open_ = [] ∧ wholeScarab t k = { x with clause := none })

/-- The scarabs of some channels in self-refresh run again, taking the messages that came for them (R399); the others are as they were. -/
def ScarabsWake (s t : State) (ks : List Nat) : Prop :=
  ∀ k ∈ ks, let x := scarabAt s k
    (x.state ≠ .selfRefresh → scarabAt t k = x) ∧
    (x.state = .selfRefresh → scarabAt t k = scarabAt (takeMessages (setScarab s k (wholeScarab s k)) k) k)

/-- A live scarab wave keeps a channel's power (R400). -/
def HoldsLive (s : State) (ks : List Nat) : Prop := ∃ k ∈ ks, (scarabAt s k).bound = true



/-! ## Steps -/

/-- The state a turn runs in, with the turns `r` left. -/
def begun (s : State) (r : List Turn) (g : Agent) : State :=
  { s with agenda := r, tick := s.tick + 1, time := s.time + Config.elapsed s.tick, cur := g }

/-- A clause in issue stands at a word whose bits decode to `i`: a fixed word, or a dictionary word with its holes filled (R63, R67). -/
def StandsAt (c : Clause) (i : Instr) : Prop :=
  c.pos ≠ 0 ∧ ∃ x, c.words[c.pos - 1]? = some x ∧
    ((x.raw.toNat / 2 ^ 24 < 0x14 ∧ decode (.fixed x.raw) = .ok i) ∨
     (0x20 ≤ x.raw.toNat / 2 ^ 24 ∧ ∃ e, x.entry = some e ∧ decode (.template (workTemplate e x.raw)) = .ok i))

/-- No save of the context is under way (R417). -/
def Runs (s : State) (ctx : Nat) : Prop := ∀ k, contextAt s ctx = some k → k.saving = false



end Sys2Proof.Claims

open Sys2Proof Sys2Proof.Machine Sys2Proof.Safety Sys2Proof.Claims

/-- R152, R154. -/
def Sys2Proof.Claims.IntegerArithmetic : Prop := Computes arithSpecs
def Sys2Proof.Claims.LogicAndShifts : Prop := Computes logicSpecs
def Sys2Proof.Claims.BitOperations : Prop := Computes bitSpecs

/-- `cmp` writes a mask, 0 in inactive lanes; `sel` chooses by the mask; `mov` copies; `movi` extends the immediate; `lea` forms an
address (R162 to R164). -/
def Obligations.CompareSelectMove : Prop :=
  (∀ t i, t.d = .m i → t.opmod.toNat ≤ 5 → Writes (.cmp t) 0x060 t (fun v =>
    { msks := [(i.toNat, activeMask v (fun l => condHolds t.opmod.toNat (wide (fmtSigned t.fmt) (src v t t.a l)) (wide (fmtSigned t.fmt) (src v t t.b l))))] })) ∧
  (∀ t m, t.c = .m m → Writes (.sel t) 0x061 t (fun v =>
    laneOp v t (fmtBits t.fmt) (fun l => (if natBit (v.msk m.toNat) l then src v t t.a l else src v t t.b l).toNat))) ∧
  (∀ t, Writes (.mov t) 0x062 t (fun v => laneOp v t (fmtBits t.fmt) (fun l => (src v t t.a l).toNat))) ∧
  (∀ t, Writes (.movi t) 0x063 t (fun v => laneOp v t (fmtBits t.fmt) (fun _ => (t.imm.signExtend (fmtBits t.fmt)).toNat))) ∧
  (∀ t, Writes (.lea t) 0x064 t (fun v => laneOp v t 64 (fun l =>
    let a : DWord := BitVec.ofNat 64 (srcBits v t .n64 t.a l)
    let b : Word := BitVec.ofNat 32 (srcBits v t .i32 t.b l)
    let b' : DWord := if bitOf t.opmod 3 then b.zeroExtend 64 else b.signExtend 64
    (a + b' * 2 ^ (t.opmod.toNat % 8) + t.imm.signExtend 64).toNat)))

/-- The carry and the borrow (R153). -/
def Obligations.CarryChains : Prop :=
  (∀ t m, t.c = .m m → Writes (.addc t) 0x042 t (fun v =>
    let sum := fun l => (src v t t.a l).toNat + (src v t t.b l).toNat + (natBit (v.msk m.toNat) l).toNat
    { laneOp v t (fmtBits t.fmt) (fun l => sum l % 2 ^ fmtBits t.fmt) with
      msks := [(m.toNat, mergeMask v m.toNat (fun l => decide (2 ^ fmtBits t.fmt ≤ sum l)))] })) ∧
  (∀ t m, t.c = .m m → Writes (.subb t) 0x043 t (fun v =>
    let diff : Nat → Int := fun l => (src v t t.a l).toNat - (src v t t.b l).toNat - (natBit (v.msk m.toNat) l).toNat
    { laneOp v t (fmtBits t.fmt) (fun l => (BitVec.ofInt (fmtBits t.fmt) (diff l)).toNat) with
      msks := [(m.toNat, mergeMask v m.toNat (fun l => decide (diff l < 0)))] }))

/-- Shuffles, broadcasts and votes (R165 to R167) and byte permutes (R160). -/
def Obligations.LaneOperations : Prop :=
  (∀ t, Writes (.shfl t) 0x065 t (fun v => laneOp v t (fmtBits t.fmt) (fun l =>
    (src v t t.a (shuffleFrom v.lanes (t.opmod.toNat % 4) l (srcBits v t .n32 t.b l))).toNat))) ∧
  (∀ t, bitOf t.opmod 0 = false → Writes (.bcast t) 0x066 t (fun v => laneOp v t (fmtBits t.fmt) (fun _ =>
    (src v t t.a (srcBits v t .n32 t.b v.once % v.lanes)).toNat))) ∧
  (∀ t, bitOf t.opmod 0 = true → Writes (.bcast t) 0x066 t (fun v => match v.active, t.d with
    | j :: _, _ => laneOp v t (fmtBits t.fmt) (fun _ => (src v t t.a j).toNat)
    | [], .s i => { scas := [(i.toNat, 0)] }
    | [], _ => {})) ∧
  (∀ t, Writes (.ballot t) 0x067 t (fun v =>
    let x := activeMask v (fun l => srcBits v t .b32 t.a l != 0)
    match t.d with
    | .s i => { scas := [(i.toNat, x)] }
    | .m i => { msks := [(i.toNat, x)] }
    | _ => {})) ∧
  (∀ t, Writes (.bperm t) 0x05D t (fun v => laneOp v t 32 (fun l =>
    let a : Word := BitVec.ofNat 32 (src v t t.a l).toNat
    let sel := fun j => (src v t t.b l).toNat / 16 ^ j % 16
    ((List.range 4).map (fun j => 256 ^ j * (
      if sel j < 4 then (a.extractLsb' (8 * sel j) 8).toNat
      else if sel j < 8 then (if a.getLsbD (8 * sel j - 25) then 255 else 0) else 0))).sum)))

/-- Mask operations write every bit, and `mpop` counts (R169). -/
def Obligations.MaskOperations : Prop :=
  ∀ t d a b, opndIx t.d = d → opndIx t.a = a → opndIx t.b = b →
  Writes (.mand t) 0x06A t (fun v => { msks := [(d, (v.msk a &&& v.msk b) % 2 ^ v.lanes)] }) ∧
  Writes (.mor t) 0x06B t (fun v => { msks := [(d, (v.msk a ||| v.msk b) % 2 ^ v.lanes)] }) ∧
  Writes (.mxor t) 0x06C t (fun v => { msks := [(d, (v.msk a ^^^ v.msk b) % 2 ^ v.lanes)] }) ∧
  Writes (.mnot t) 0x06D t (fun v => { msks := [(d, ofBits (fun l => !natBit (v.msk a) l) v.lanes)] }) ∧
  Writes (.mpop t) 0x06E t (fun v => { scas := [(d, (setBits v.lanes (v.msk a)).length)] })

/-- `wred` and `scan`: register PIDX of the run is reduced in lane order; the word stays until the last register, and PIDX is 0
afterwards (R168). -/
def Obligations.Reductions : Prop :=
  ∀ s k w t, WaveTurn s k w → t.fmt ∈ fAtom → t.opmod.toNat % 8 ≤ (if t.fmt = .f32 ∨ t.fmt = .f64 then 2 else 5) →
  w.pidx ≤ t.opmod.toNat / 16 →
  (Clear s k w (opGate 0x068 t false noSees w) →
    RunStep s (applyOut s k (wredOut (waveView s k w) t w.pidx)) k w (t.opmod.toNat / 16 + 1) (.wred t)) ∧
  ((∃ d, t.d = .v d) → Clear s k w (opGate 0x069 t false noSees w) →
    RunStep s (applyOut s k (scanOut (waveView s k w) t w.pidx)) k w (t.opmod.toNat / 16 + 1) (.scan t))

/-- Exact sums, differences, products and fused products, rounded once by the word's mode; `fmin` and `fmax` choose an operand;
`fscale` multiplies by the scale; `fround` rounds to an integral value: words without `.b` (R196 to R198, R204, R205). -/
def Sys2Proof.Claims.FloatArithmetic : Prop :=
  ∀ t : TOp, t.bnd = false →
  let mode := rmodeOf (t.opmod.toNat % 8)
  let sat := bitOf t.opmod 3
  let down := mode == .rd
  Writes (.fadd t) 0x100 t (fun v => roundOut v t mode sat (fun l j => FVal.add down (elem v t t.a l j) (elem v t t.b l j))) ∧
  Writes (.fsub t) 0x101 t (fun v => roundOut v t mode sat (fun l j => FVal.add down (elem v t t.a l j) (elem v t t.b l j).negate)) ∧
  Writes (.fmul t) 0x102 t (fun v => roundOut v t mode sat (fun l j => FVal.mul (elem v t t.a l j) (elem v t t.b l j))) ∧
  Writes (.fma t) 0x103 t (fun v => roundOut v t mode sat (fun l j =>
    FVal.add down (FVal.mul (elem v t t.a l j) (elem v t t.b l j)) (elem v t t.c l j))) ∧
  Writes (.fmin t) 0x104 t (fun v => roundOut v t .rn false (fun l j => fminmax false (elem v t t.a l j) (elem v t t.b l j))) ∧
  Writes (.fmax t) 0x105 t (fun v => roundOut v t .rn false (fun l j => fminmax true (elem v t t.a l j) (elem v t t.b l j))) ∧
  Writes (.fscale t) 0x112 t (fun v => roundOut v t (rmodeOf (t.opmod.toNat / 64)) false (fun l j =>
    FVal.mul (elem v t t.a l j) (scaleVal v t l))) ∧
  Writes (.fround t) 0x113 t (fun v => roundOut v t .rn false (fun l j => roundIntegral mode (laneDither l j) (elem v t t.a l j)))

/-- `fcmp` writes a mask, `fclass` a set per element (R199, R200). -/
def Sys2Proof.Claims.FloatCompareAndClass : Prop :=
  (∀ t i, t.bnd = false → t.d = .m i → t.opmod.toNat < 16 → Writes (.fcmp t) 0x106 t (fun v =>
    let j := if elemCount t.fmt = 2 then t.opmod.toNat / 8 else 0
    { msks := [(i.toNat, activeMask v (fun l => fcondHolds (t.opmod.toNat % 8) (elem v t t.a l j) (elem v t t.b l j)))] })) ∧
  (∀ t sp, floatSpec t.fmt = some sp → Writes (.fclass t) 0x107 t (fun v =>
    putResult v false (if fmtBits t.fmt = 64 then 64 else 32) t.d tagE ((resultLanes v t.d).map (fun l =>
      (l, ((List.range (elemCount t.fmt)).map (fun j =>
        2 ^ (16 * j + classBit sp (srcBits v t t.fmt t.a l / 2 ^ (elemBits t.fmt * j) % 2 ^ elemBits t.fmt)))).sum)))))

/-- Reciprocal, roots and transcendentals are one function of the operand's bits in each lane; `frcp` and `fsqrt` are the exact
function rounded to nearest even, and so is `frsq` in the 16-bit formats (R201). The free results that the bounds of R201 leave (log entry
14) stand inside `specialFn`. -/
def Obligations.RootsAndTranscendentals : Prop :=
  (∀ p ∈ [(Instr.frcp, 0x108), (Instr.frsq, 0x109), (Instr.fsqrt, 0x10A), (Instr.fexp2, 0x10B), (Instr.flog2, 0x10C), (Instr.fsin, 0x10D),
      (Instr.fcos, 0x10E), (Instr.ftanh, 0x10F)], ∀ t : TOp, Writes (p.1 t) p.2 t (fun v =>
    laneOp v t (fmtBits t.fmt) (fun l => specialFn p.2 t.fmt (srcBits v t t.fmt t.a l)))) ∧
  (∀ f sp x, floatSpec f = some sp →
    specialFn 0x108 f x = (deliver sp .rn false 0 (rcpVal (decodeFloat sp x))).bits ∧
    specialFn 0x10A f x = (deliver sp .rn false 0 (sqrtVal (decodeFloat sp x))).bits) ∧
  (∀ f sp x, floatSpec f = some sp → f = .f16 ∨ f = .bf16 →
    specialFn 0x109 f x = (deliver sp .rn false 0 (rsqVal (decodeFloat sp x))).bits ∧
    ∀ op, 0x10B ≤ op → specialFn op f x = (deliver sp .rn false 0 (ofF32 (specialFn op .f32 (toF32 (decodeFloat sp x))))).bits)

/-- Dot products add a group sum in f32 to C; `cvt`, `pack` and `unpack` convert (R203, R206 to R208). -/
def Obligations.DotsAndConversions : Prop :=
  (∀ p ∈ [(Instr.fdot2, 0x110), (Instr.fdot4, 0x111)], ∀ t : TOp, Writes (p.1 t) p.2 t (fun v => laneOp v t 32 (fun l =>
    toF32 (FVal.add false (ofF32 (srcBits v t .f32 t.c l)) (ofF32 (toF32 (groupSum ((List.range (elemCount t.fmt)).map (fun j =>
      FVal.mul (elem v t t.a l j) (elem v t t.b l j)))))))))) ∧
  (∀ t : TOp, t.bnd = false → t.fmt = .lc16 → secondFmt t = .lc16 → (∀ c, t.a ≠ .k c) → Writes (.cvt t) 0x180 t (fun v =>
    putResult v false 32 t.d tagE ((resultLanes v t.d).map (fun l => (l, srcBits v t .b32 t.a l))))) ∧
  (∀ t : TOp, t.bnd = false → elemCount t.fmt = 1 → t.fmt ≠ .lc16 → Writes (.cvt t) 0x180 t (fun v =>
    let signed := match t.d with
      | .s _ => fmtSigned t.fmt && t.fmt != .i4
      | _ => false
    putResult v signed (fmtBits t.fmt) t.d tagE ((resultLanes v t.d).map (fun l =>
      (l, (convert t.fmt (secondFmt t) (rmodeOf (t.opmod.toNat / 64)) (laneDither l 0)
        (srcBits v t (secondFmt t) t.a l % 2 ^ elemBits (secondFmt t))).bits))))) ∧
  (∀ t : TOp, Writes (.pack t) 0x181 t (fun v =>
    let n := (packedShape t.fmt).1
    { vecs := [{ reg := opndIx t.d, tag := tagE, keep := true, vals := v.active.map (fun l =>
        (l, insertBits (v.vec (opndIx t.d) l) (n * (t.opmod.toNat % 8)) n (packElem v t l))) }] })) ∧
  (∀ t : TOp, Writes (.unpack t) 0x182 t (fun v => laneOp v { t with fmt := .b32 } 32 (unpackElem v t)))

/-- What a `.b` word's result tag is: E where no source is class B, P where a result is NaN, infinite or clamped, else the class-B tag of
the propagated bound; `fmul.b`, `fma.b` and `fscale.b` with too many class-B factors raise 0x0C2 (R209, R210). -/
def Obligations.BoundedWords : Prop :=
  (∀ t : TOp, let mode := rmodeOf (t.opmod.toNat % 8)
    Writes (.fadd t) 0x100 t (fun v => floatOp v t mode (bitOf t.opmod 3) [t.a, t.b] ((betaOf v t t.a).add (betaOf v t t.b))
      (fun l j => FVal.add (mode == .rd) (elem v t t.a l j) (elem v t t.b l j)))) ∧
  (∀ anyB rs b, boundedTag anyB rs b = if anyB = false then tagE else if rs.any (fun r => r.special || r.clamped) then tagP else boundTag b) ∧
  (∀ s k w t, WaveTurn s k w → t.bnd = true →
    let v := waveView s k w
    (Clear s k w (opGate 0x102 t false noSees w) → tagIsB (srcTag v t.fmt t.b) = true →
      exec (.fmul t) s = .next (raiseWord s k { cause := 0x0C2 })) ∧
    (Clear s k w (opGate 0x103 t false noSees w) → tagIsB (srcTag v t.fmt t.a) = true → tagIsB (srcTag v t.fmt t.b) = true →
      exec (.fma t) s = .next (raiseWord s k { cause := 0x0C2 })) ∧
    (Clear s k w (opGate 0x112 t false noSees w) → tagIsB (srcTag v (secondFmt t) t.b) = true →
      exec (.fscale t) s = .next (raiseWord s k { cause := 0x0C2 })))

/-- The uniform branches take their target or go on past the clause, and push nothing (R136). -/
def Sys2Proof.Claims.UniformBranches : Prop :=
  ∀ s k w h, WaveTurn s k w → InCtrl w h →
  (∀ i, GoesTo s k w (.bra i) (jumpTo h i)) ∧
  (∀ i a, Clear s k w { reads := [.s a.toNat] } →
    GoesTo s k w (.brsZ i a) (if w.sregs.look 0 a.toNat = 0 then jumpTo h i else h + 8) ∧
    GoesTo s k w (.brsNz i a) (if w.sregs.look 0 a.toNat ≠ 0 then jumpTo h i else h + 8)) ∧
  (∀ i m, Clear s k w { reads := [.m m.toNat] } →
    let x := maskExec s k w m
    GoesTo s k w (.brmAny i m) (if x ≠ 0 then jumpTo h i else h + 8) ∧
    GoesTo s k w (.brmAll i m) (if x = w.exec then jumpTo h i else h + 8) ∧
    GoesTo s k w (.brmNone i m) (if x = 0 then jumpTo h i else h + 8))

/-- `brd` with lanes that agree is a uniform branch; with lanes that do not, it pushes a RECONV entry and the two paths and starts the one
at the lower address (R128, R137). -/
def Obligations.DivergentBranch : Prop :=
  ∀ s k w h i m, WaveTurn s k w → InCtrl w h → Clear s k w { reads := [.m m.toNat] } →
  let x := maskExec s k w m
  (x = 0 → GoesTo s k w (.brd i m) (h + 8)) ∧
  (x ≠ 0 → x = w.exec ∨ jumpTo h i = h + 8 → GoesTo s k w (.brd i m) (jumpTo h i)) ∧
  (x ≠ 0 → x ≠ w.exec → jumpTo h i ≠ h + 8 → StackRoom s w 3 →
    let low := if (jumpTo h i).toNat < (h + 8).toNat then (jumpTo h i, x) else (h + 8, w.exec &&& ~~~ x)
    let high := if (jumpTo h i).toNat < (h + 8).toNat then (h + 8, w.exec &&& ~~~ x) else (jumpTo h i, x)
    ∃ t, exec (.brd i m) s = .next t ∧ OnlyWave s t k
      { (w.retireAt s.time).goto low.1 with
        exec := low.2, count := 0
        stack := .path high.1 0 high.2 false :: .path low.1 0 low.2 true :: .reconv none 0 w.exec :: w.stack })

/-- Indirect and table jumps: no lane jumps where a lane's index or target is bad, else every active lane goes to its target (R138, R139). -/
def Sys2Proof.Claims.IndirectJumps : Prop :=
  (∀ s k w b a, WaveTurn s k w → Clear s k w { reads := [.v (w.phys a.toNat), .s b.toNat], tags := [(a.toNat, false)] } →
    let v := waveView s k w
    let target : Nat → DWord := fun l => BitVec.ofNat 64 (v.sca b.toNat) + (BitVec.ofNat 32 (v.vec a.toNat l)).signExtend 64
    let bad := fun l => decide ((target l).toNat % 4 ≠ 0) || decide (2 ^ 56 ≤ (target l).toNat)
    (v.active.any bad = true → Raises s k (.jmpi b a) { cause := 0x045, lanes := lanesMask (v.active.filter bad) }) ∧
    (v.active.any bad = false → exec (.jmpi b a) s = .next (sendLanes s s k ((activeLanes w).map (fun l => ((target l).toNat, l)))))) ∧
  (∀ s k w h c b a, WaveTurn s k w → InCtrl w h →
    Clear s k w { reads := [.v (w.phys a.toNat), .s b.toNat, .s c.toNat], tags := [(a.toNat, false)] } →
    let v := waveView s k w
    let past := v.active.filter (fun l => decide (v.sca c.toNat ≤ v.vec a.toNat l))
    (∀ l r, past = l :: r → Raises s k (.jmpt c b a) { cause := 0x042, detail := l, addr := v.vec a.toNat l, lanes := lanesMask past }) ∧
    (past = [] → v.sca b.toNat % 4 ≠ 0 → Raises s k (.jmpt c b a) { cause := 0x045 }) ∧
    (past = [] → v.sca b.toNat % 4 = 0 → ∀ s' offs,
      readTable s k w (v.active.map (fun l => (l, (v.sca b.toNat + 4 * v.vec a.toNat l) % 2 ^ 64))) = (s', .ok (some offs)) →
      exec (.jmpt c b a) s = .next (sendLanes s s' k ((activeLanes w).map (fun l =>
        ((jumpTo h (BitVec.ofNat 32 (((offs.find? (fun p => p.1 == l)).map (·.2)).getD 0))).toNat, l))))))

/-- Calls write LK of the active lanes, push a FRAME and slide the window; a return pops it, slides back and sends each lane of its mask to
its link; the checks come in the order of R140 and R141. -/
def Obligations.CallsAndReturns : Prop :=
  (∀ s k w h n i, WaveTurn s k w → InCtrl w h → w.comp = none → w.stack.length < 128 → slideBusy w (8 * n.toNat) = false →
    ∀ s1 s2 x, pushEntry (retireWord s k) k (.frame n.toNat w.exec) = .ok s1 → slideUp s1 k (8 * n.toNat) = .ok s2 → waveAt s2 k = some x →
    (exec (.call n i) s = .next (setWave s2 k ((x.writeLk w.exec (fun _ => h + 8)).goto (jumpTo h i)))) ∧
    (∀ a, Clear s k w { reads := [.s a.toNat] } → (w.sregs.look 0 a.toNat).toNat % 4 = 0 → (w.sregs.look 0 a.toNat).toNat < 2 ^ 56 →
      exec (.calli n a) s = .next (setWave s2 k ((x.writeLk w.exec (fun _ => h + 8)).goto (w.sregs.look 0 a.toNat))))) ∧
  (∀ s k w h n m r, WaveTurn s k w → InCtrl w h → w.comp = none → w.stack = .frame n m :: r → w.spilled ≤ r.length →
    (∀ l ∈ activeLanes w, w.link l % 4 = 0 ∧ w.link l < 2 ^ 56) → slideBusy w (8 * n) = false →
    ∀ s1 s2 x, slideDown (retireWord s k) k (8 * n) = .ok s1 → popEntry s1 k = .ok s2 → waveAt s2 k = some x →
    exec .ret s = .next (match diverge (setWave s2 k { x with exec := m }) k
        (targetsOf (((List.range 32).filter (fun l => bitOf m l)).map (fun l => (w.link l, l)))) with
      | .ok u => u
      | .error e => raiseWord s k e)) ∧
  (∀ s k w, WaveTurn s k w → w.comp ≠ none → (∀ n i, Raises s k (.call n i) { cause := 0x048 }) ∧ Raises s k .ret { cause := 0x048 } ∧
    ∀ n, Raises s k (.dsel n) { cause := 0x048 }) ∧
  (∀ s k w, WaveTurn s k w → w.comp = none → 128 ≤ w.stack.length → ∀ n i, Raises s k (.call n i) { cause := 0x044 }) ∧
  (∀ s k w, WaveTurn s k w → w.comp = none → w.stack = [] → Raises s k .ret { cause := 0x043 })

/-- `join` outside a divergence does nothing; in one it ends the running path: the next live path starts, or the last one merges (R130,
R142). -/
def Sys2Proof.Claims.Joins : Prop :=
  ∀ s k w h, WaveTurn s k w → InCtrl w h →
  (innermost w = none → w.comp = none → GoesTo s k w .join (h + 8)) ∧
  (∀ a p m b q n j tm em r, w.stack = .path b q n false :: .path a p m true :: .reconv j tm em :: r → w.spilled ≤ r.length + 2 →
    (j = none ∨ j = some (h + 8)) → ∃ t, exec .join s = .next t ∧ OnlyWave s t k
      { (w.retireAt s.time) with
        stack := .path b q n true :: .reconv (some (h + 8)) tm em :: r, spilled := min w.spilled (r.length + 1)
        exec := n, pcHdr := b, pcPos := q, count := 0, clause := none }) ∧
  (∀ a p m j tm em r, w.stack = .path a p m true :: .reconv j tm em :: r → w.spilled ≤ r.length → em ≠ 0 →
    (j = none ∨ j = some (h + 8)) → ∃ t, exec .join s = .next t ∧ OnlyWave s t k
      { (w.retireAt s.time).goto (h + 8) with stack := r, exec := em, count := 0 }) ∧
  (∀ a p m j tm em r, w.stack = .path a p m true :: .reconv (some j) tm em :: r → j ≠ h + 8 → Raises s k .join { cause := 0x047 })

/-- `exit` outside a divergence: the active lanes leave; the wave goes on with none while other lanes live, and goes once its last lane has
left and its operations are done (R143). -/
def Sys2Proof.Claims.ExitEndsLanes : Prop :=
  ∀ s k w h, WaveTurn s k w → InCtrl w h → w.stack = [] → w.comp = none →
  (w.exec ||| w.exited ≠ BitVec.allOnes 32 → ∃ t, exec .exit s = .next t ∧ OnlyWave s t k
    { (w.retireAt s.time) with exited := w.exited ||| w.exec, exec := 0 }) ∧
  (w.exec ||| w.exited = BitVec.allOnes 32 → w.pend = [] →
    (∀ b, blockAt s w.block = some b → ∀ g ∈ b.groups, k ∉ g.homes) →
    ∃ t, exec .exit s = .next t ∧ waveAt t k = none ∧ SameMemory s t)

/-- `nop`, whatever its low bits hold, has no effect, `yield` ends the clause's priority, `ifence` empties the core's instruction cache
and sends the wave's later fetches to memory, and `dsel` selects a dictionary
slot of the context that holds a dictionary (R135, R144, R62). -/
def Obligations.SimpleControl : Prop :=
  (∀ x : BitVec 24, decode (.fixed (0#8 ++ x)) = .ok .nop) ∧
  ∀ s k w, WaveTurn s k w →
  exec .nop s = .next (retireWord s k) ∧
  exec .yield s = .next (modWave (retireWord s k) k (fun x => { x with yielded := true })) ∧
  exec .ifence s = .next (retireWord (setWave (s.setCore (coreOf k) { s.core (coreOf k) with icache := [] }) k
    { w with fenced := some [], oldWords := [] }) k) ∧
  (∀ n : BitVec 3, w.comp = none →
    let slot := (s.core (coreOf k)).slots.look {} n.toNat
    (slot.owner ≠ ctxOf s w ∨ slot.state = .empty ∨ w.hold = .dictFailed n.toNat → Raises s k (.dsel n) { cause := 0x041 }) ∧
    (slot.owner = ctxOf s w → slot.state = .ready → w.hold ≠ .dictFailed n.toNat → n.toNat ≠ w.dsel → ∃ t y, exec (.dsel n) s = .next t ∧ waveAt t k = some y ∧
      y.dsel = n.toNat ∧
      ((t.core (coreOf k)).slots.look {} n.toNat).selcnt = slot.selcnt + 1 ∧
      ((t.core (coreOf k)).slots.look {} w.dsel).selcnt = ((s.core (coreOf k)).slots.look {} w.dsel).selcnt - 1 ∧ SameMemory s t))

/-- Taking a trap: `trap` and `brk` outside handler mode push a TRAP entry that resumes past their clause, record the cause and the present
provenance, and go to TVEC with every lane that has not exited; in handler mode the cause is held in CBM (R145, R404, R405, R407). -/
def Obligations.SoftwareTrap : Prop :=
  ∀ s k w h (code : BitVec 16), WaveTurn s k w → InCtrl w h → w.comp = none →
  (w.inHandler = false → w.tvec ≠ 0 → StackRoom s w 1 → bitOf w.prov 63 = false → ∃ t, exec (.trap code) s = .next t ∧ OnlyWave s t k
    { w.retire with
      stack := .trap (h + 8) 0 0x046 w.exec :: w.stack, tcause := tcauseWord 0x046 1 0 code.toNat, tprov := w.prov
      trec0 := 0, trec1 := 0, trec2 := BitVec.ofNat 64 w.pidx, pidx := 0, exec := ~~~ w.exited, pcHdr := w.tvec, pcPos := 0, clause := none
      hold := .no, polls := 0, count := w.count, aged := w.aged, watch := w.watch }) ∧
  (w.inHandler = true → ∃ t, exec (.trap code) s = .next t ∧ OnlyWave s t k
    (({ w with hold := .no, pidx := 0, cbm := w.cbm ||| BitVec.ofNat 512 (2 ^ 0x046) }).retireAt s.time))

/-- A result lands in its destination alone: in the active lanes of a vector register or pair, extended to its lane, with the tag rule of R35;
or in a scalar register, extended to 64 bits (R35, R148, R149, R151). -/
def Sys2Proof.Claims.ResultDestination : Prop :=
  ∀ s k w (t : TOp) n f, waveAt s k = some w → w.comp = none → n ∈ [8, 16, 32, 64] →
  let u := applyOut s k (laneOp (waveView s k w) t n f)
  let val := fun l => BitVec.ofNat n (f l)
  let signed := fmtSigned t.fmt
  (∀ i, t.d = .v i → i.toNat + (if n = 64 then 2 else 1) ≤ w.bud → ∃ y, OnlyWave s u k y ∧
    y = { w with vregs := y.vregs, vtags := y.vtags, parity := y.parity, freshPoison := y.freshPoison } ∧
    let p := w.phys i.toNat
    let q := w.phys (i.toNat + 1)
    (n ≤ 32 → ∀ l, l < 32 → vecLane y p l =
      if bitOf w.exec l then (if signed then (val l).signExtend 32 else (val l).zeroExtend 32).toNat else vecLane w p l) ∧
    (n = 64 → ∀ l, l < 32 → vecLane y p l = (if bitOf w.exec l then (val l).toNat % 2 ^ 32 else vecLane w p l) ∧
      vecLane y q l = (if bitOf w.exec l then (val l).toNat / 2 ^ 32 else vecLane w q l)) ∧
    (∀ r, r ≠ p → (n = 64 → r ≠ q) → y.vregs.look (Vector.replicate 32 0) r = w.vregs.look (Vector.replicate 32 0) r ∧
      y.vtags.look 0 r = w.vtags.look 0 r) ∧
    (∀ r, r = p ∨ n = 64 ∧ r = q → y.vtags.look 0 r =
      if w.exec = BitVec.allOnes 32 then tagE else tagWorst (w.vtags.look 0 r) tagE)) ∧
  (∀ i, t.d = .s i → ∃ y, OnlyWave s u k y ∧
    y = { w with sregs := y.sregs, deferred := y.deferred, parity := y.parity } ∧
    y.sregs.look 0 i.toNat = (let x := val (waveView s k w).once
      if signed then x.signExtend 64 else x.zeroExtend 64) ∧
    ∀ j, j ≠ i.toNat → y.sregs.look 0 j = w.sregs.look 0 j)

/-- A write of a mask register: m0 becomes EXEC within LIVE, any other holds the mask; nothing else changes (R131). -/
def Sys2Proof.Claims.MaskDestination : Prop :=
  ∀ s k w i x, waveAt s k = some w → w.comp = none →
  let u := applyOut s k { msks := [(i, x)] }
  (i = 0 → OnlyWave s u k { w with exec := BitVec.ofNat 32 x &&& liveMask w w.stack }) ∧
  (i ≠ 0 → ∃ y, OnlyWave s u k y ∧ y = { w with mregs := y.mregs, parity := y.parity } ∧ y.mregs.look 0 i = BitVec.ofNat 32 x ∧
    ∀ j, j ≠ i → y.mregs.look 0 j = w.mregs.look 0 j)

/-- A word that has issued is followed by the next of its clause; past the last one, or one of latency class C (R72), the flags the clause names are no longer held open by it
and PC stands at the next header (R27, R38, R40, R42). -/
def Obligations.ClauseAdvance : Prop :=
  ∀ s k w c, waveAt s k = some w → w.clause = some c → c.inj = false →
  ∃ y, OnlyWave s (retireWord s k) k y ∧
    y = { w with flagOpen := y.flagOpen, clause := y.clause, yielded := y.yielded, pcHdr := y.pcHdr, pcPos := y.pcPos, count := y.count
                 aged := false, polls := 0, watch := [], fencing := false, issuedAt := s.time } ∧
    (c.pos < c.words.length → (c.words[c.pos - 1]?).any CWord.endsClause = false → y.clause = some { c with pos := c.pos + 1 } ∧ y.pcPos = c.pos + 1 ∧ y.pcHdr = w.pcHdr ∧ y.flagOpen = w.flagOpen) ∧
    (c.words.length ≤ c.pos ∨ (c.words[c.pos - 1]?).any CWord.endsClause = true → y.clause = none ∧ y.pcPos = 0 ∧ y.pcHdr = c.addr + 4 * BitVec.ofNat 64 (hdrCount c.hdr + 1) ∧
      y.yielded = bitOf c.hdr 27 ∧ ∀ f, y.flagOpen.look 0 f = w.flagOpen.look 0 f - (if f ∈ hdrFlags c.hdr then 1 else 0))

/-- A tile word whose operands pass its checks adds its record to the core's queue (R215, R218, R225 to R234). -/
def Sys2Proof.Claims.TileWordsQueue : Prop :=
  ∀ s k w (t : TOp),
  let a := opnd s k w t t.a
  let b := opnd s k w t t.b
  let sc := opnd s k w t t.c
  (TileReady s k w 0x1C0 t → t.imm.toNat < 16 → a % 64 = 0 → 
    let core := s.core (coreOf k)
    let loading := { core.fregs.look {} t.imm.toNat with state := .loading, reason := 0 }
    JoinsTileQueue s (s.setCore (coreOf k) { core with fregs := core.fregs.put {} t.imm.toNat loading }) k w t (.tfmt t) [] (.tfmt t.imm.toNat (BitVec.ofNat 64 a))) ∧
  (TileReady s k w 0x1C2 t → a < 2 ^ 18 → a / 2 ^ 16 ≠ 3 → a % 2 ^ 16 ≠ 0 →
    JoinsTileQueue s (declared s (coreOf k) ((List.range 16).filter (fun i => a.testBit i)) (accFmtOf (a / 2 ^ 16))) k w t (.tzero t) [] (.tzero (BitVec.ofNat 16 a))) ∧
  (TileReady s k w 0x1C3 t →
    let f := ((s.core (coreOf k)).accs.look {} (a % 16)).fmt
    let row0 := a / 2 ^ 4 % 64
    let n := a / 2 ^ 10 % 64 + 1
    let cv := a / 2 ^ 16 % 4
    let m := n * rowRegs f cv
    let d := opndIx t.d
    a < 2 ^ 30 → cv ≠ 3 → a / 2 ^ 18 % 8 ≤ 4 → row0 + n ≤ accRows f → (cv = 0 → a / 2 ^ 18 = 0) → (cv ≠ 0 → f = .f32) →
    d + m ≤ w.bud → (f = .f64 → d % 2 = 0) → runBusy s k w ((runOf w d m).map .v) = false →
    JoinsTileQueue s s k w t (.trd t) ((runOf w d m).map .v)
      (.trd (a % 16) row0 n cv (a / 2 ^ 18 % 8) (natBit a 21) (a / 2 ^ 22 % 256) (runOf w d m))) ∧
  (∀ src dst f, TileReady s k w 0x1C5 t → b < 2 ^ 28 → fmtOf (b / 2 ^ 22 % 64) = some f → f ∈ packFmts → b % 2 ^ 16 ≠ 0 →
    let kb := b % 2 ^ 16
    let rows := b / 2 ^ 16 % 64 + 1
    tileRange s w.block (a % 2 ^ 32) (rows * rowBytes f (32 * kb)) = some src →
    tileRange s w.block (a / 2 ^ 32) (tcmpSize f (32 * kb) rows) = some dst →
    JoinsTileQueue s s k w t (.tcmp t) (opndRegs w 1 t.d) (.tcmp src dst kb rows f (opndIx t.d))) ∧
  (∀ src dst f, TileReady s k w 0x1C6 t → b < 2 ^ 28 → fmtOf (b / 2 ^ 22 % 64) = some f → f ∈ packFmts → b % 2 ^ 16 ≠ 0 →
    let kb := b % 2 ^ 16
    let rows := b / 2 ^ 16 % 64 + 1
    tileRange s w.block (a % 2 ^ 32) (rows * rowBytes f (32 * kb)) = some src →
    tileRange s w.block (a / 2 ^ 32) (tbmpSize f (32 * kb) rows) = some dst →
    JoinsTileQueue s s k w t (.tbmp t) (opndRegs w 1 t.d) (.tbmp src dst kb rows f (opndIx t.d))) ∧
  (∀ src (dsts : List TileAddr), TileReady s k w 0x1C7 t →
    let off := b % 2 ^ 20
    let n := b / 2 ^ 20
    let ranks := (List.range 8).filter (fun i => bitOf t.imm i)
    b < 2 ^ 40 → t.imm.toNat < 2 ^ 8 → a < 2 ^ 32 → n ≠ 0 → n % 64 = 0 → ranks ≠ [] → tileRange s w.block a n = some src →
    ranks.map (fun r => tileRange s w.block (2 ^ 23 + r * 2 ^ 20 + off) n) = dsts.map some →
    JoinsTileQueue s s k w t (.tmc t) [] (.tmc src off n (dsts.map (·.blk)))) ∧
  (∀ ta tb, TileReady s k w 0x1C1 t →
    let core := s.core (coreOf k)
    let im := t.imm
    let acc := fieldOf im 0 4
    let nt := fieldOf im 8 2 + 1
    let accum := bitOf im 10
    let wout := bitOf im 11
    let reg := core.fregs.look {} (fieldOf im 4 4)
    let fb := reg.block
    let kb := sc % 2 ^ 16
    let ooff := sc / 2 ^ 16
    reg.state = .ready → a < 2 ^ 32 → b < 2 ^ 32 → sc < 2 ^ 48 → im.toNat < 2 ^ 12 → acc + nt ≤ 16 →
    (accum = true → ∀ i, i < nt → (core.accs.look {} (acc + i)).fmt = ((fbClass fb).map TileClass.acc).getD .f32) →
    tmmaShapeBad s fb (tileBase s w.block a) kb ooff nt wout = false → tileBase s w.block a = some ta → tileBase s w.block b = some tb →
    (taskReads s fb ta tb kb nt).all (fun r => r.ok s) = true →
    
    let f := ((fbClass fb).map TileClass.acc).getD .f32
    JoinsTileQueue s (if accum then s else declared s (coreOf k) ((List.range nt).map (fun i => acc + i)) f) k w t (.tmma t) [] (.tmma fb ta tb kb ooff acc nt (fieldOf im 4 4) accum wout))

/-- `twr` captures its registers with its record and gives its buffer their format (R230). -/
def Sys2Proof.Claims.TileRegisterWrite : Prop :=
  ∀ s k w (t : TOp), WaveTurn s k w → (s.core (coreOf k)).tileQ.length < 32 → flagRoom w (attOf w t) = true →
  let a := opnd s k w t t.a
  let buf := a % 16
  let f := accFmtOf (a / 2 ^ 16)
  let row0 := a / 2 ^ 4 % 64
  let n := a / 2 ^ 10 % 64 + 1
  let b := opndIx t.b
  let m := n * rowRegs f 0
  let g := opGate 0x1C4 t false noSees w
  Clear s k w { g with tags := [], sees := w.observes (twrRun w t) } →
  a < 2 ^ 18 → a / 2 ^ 16 ≠ 3 → row0 + n ≤ accRows f → b + m ≤ w.bud → (f = .f64 → b % 2 = 0) →
  runBusy s k w ((runOf w b m).map .v) = false → runFaults s k w (waveView s k w) b m = none →
  JoinsTileQueue s (declared s (coreOf k) [buf] f) k w t (.twr t) [] (.twr buf row0 n (f != ((s.core (coreOf k)).accs.look {} buf).fmt)
    ((List.range m).map (fun i => Vector.ofFn (fun l => BitVec.ofNat 32 ((waveView s k w).vec (b + i) l.val)))))

/-- `tstat` reports a buffer or a format register; `tcan` cancels the `tmma` records that name a buffer of its mask (R213, R214, R235, R236). -/
def Obligations.TileStatusAndCancel : Prop :=
  (∀ s k w (t : TOp), WaveTurn s k w → Clear s k w (opGate 0x1C8 t false noSees w) →
    let a := opnd s k w t t.a
    let core := s.core (coreOf k)
    (a < 16 →
      let x := core.accs.look {} a
      let mine := core.tileQ.filter (fun r => r.work.buffers.contains a)
      exec (.tstat t) s = .next (retireWord (writeScaAt s k (opndIx t.d)
        (x.fmt.code + 4 * x.poison.toNat + 8 * (mine.any (·.running)).toNat + 16 * mine.length + 2 ^ 16 * x.err)) k)) ∧
    (16 ≤ a → a < 32 → exec (.tstat t) s = .next (retireWord (writeScaAt s k (opndIx t.d) (fregStatus (core.fregs.look {} (a - 16)))) k)) ∧
    (32 ≤ a → Raises s k (.tstat t) { cause := 0x104 })) ∧
  (∀ s k w (t : TOp), WaveTurn s k w → Clear s k w (opGate 0x1C9 t false noSees w) →
    let a := opnd s k w t t.a
    a < 2 ^ 16 → ∃ u, exec (.tcan t) s = .next u ∧ SameMemory s u ∧
      (u.core (coreOf k)).tileQ = ((s.core (coreOf k)).tileQ.filter (fun r => !(tcanHits a r && !r.running))).map
        (fun r => if tcanHits a r then { r with cancelled := true } else r) ∧
      ∀ r ∈ (s.core (coreOf k)).tileQ, tcanHits a r = true → r.running = false → ∀ b ∈ r.work.buffers,
        ((u.core (coreOf k)).accs.look {} b).poison = true ∧ ((u.core (coreOf k)).accs.look {} b).err = 1)

/-- The scheduler starts a record; a record that completes leaves the queue and ends its operation, with the effect of its kind (R215, R218,
R225 to R234). -/
def Obligations.TileEvents : Prop :=
  (∀ s c r, startable s (s.core c).tileQ = some r → ∃ u, exec (.tileRecordStart c) s = .next u ∧
    u = { s with cores := u.cores } ∧
    (u.core c).tileQ = (s.core c).tileQ.map (fun x => if x.id = r.id then { x with running := true } else x)) ∧
  (∀ s c id r n addr s' bs x, runningRec s c id = some r → r.work = .tfmt n addr → readBlock s r addr.toNat = (s', some bs) →
    contextAt s' r.ctx = some x → (∀ q ∈ (s'.core c).tileQ, q.id ≠ id → ∀ a, q.work ≠ .tfmt n a) →
    let fb := BitVec.ofNat 512 (bytesNat bs)
    ∃ u, exec (.tfmtLoadEnd c id) s = .next u ∧ EndsRecord s' u c r ∧
      (u.core c).fregs.look {} n = if blockReason x fb = 0 then { state := .ready, block := fb }
        else { state := .invalid, reason := blockReason x fb, block := fb }) ∧
  (∀ s c id r m, runningRec s c id = some r → r.work = .tzero m → ∃ u, exec (.tzeroComplete c id) s = .next u ∧ EndsRecord s u c r ∧
    SameMemory s u ∧ ∀ b, b < 16 → bitOf m b = true →
      ((u.core c).accs.look {} b).data = [] ∧ ((u.core c).accs.look {} b).poison = false) ∧
  (∀ s c id r buf row0 n clear rows, runningRec s c id = some r → r.work = .twr buf row0 n clear rows →
    ∃ u, exec (.twrComplete c id) s = .next u ∧ EndsRecord s u c r ∧ SameMemory s u ∧
      ((u.core c).accs.look {} buf).poison = false ∧
      ∀ q p, q < n → p ∈ twrRow rows (rows.length / n) q →
        ((u.core c).accs.look {} buf).data.look 0 (64 * (row0 + q) + p.1) = p.2) ∧
  (∀ s c id r buf row0 n cv mode sat phase dst w, runningRec s c id = some r → r.work = .trd buf row0 n cv mode sat phase dst →
    waveAt s r.wave = some w → opHomes s r.wave r.pend = [] → dst.Nodup →
    ∃ u y, exec (.trdComplete c id) s = .next u ∧ waveAt u r.wave = some y ∧ (∀ x ∈ (u.core c).tileQ, x.id ≠ r.id) ∧ SameMemory s u ∧
      ∀ j p, dst[j]? = some p → ∀ l, l < 32 →
        vecLane y p l = trdLane ((s.core c).accs.look {} buf) row0 n cv mode sat phase dst.length j l % 2 ^ 32 ∧
        y.vtags.look 0 p = if ((s.core c).accs.look {} buf).poison then tagP else tagE)

/-- A `tmma` task computes its tiles one after the other, then adds one to its counter; one that reads a byte in error ends with ERR 2, the buffers of the
tile in progress and of those not yet produced poisoned; one that reads the scratchpad of a block that is gone ends
with ERR 3 and its tiles poisoned; a cancelled one leaves every buffer of its task with
POISON and ERR 1 (R227 to R229, R236, R240). -/
def Sys2Proof.Claims.TmmaCompletes : Prop :=
  ∀ s c id r fb a b kb ooff acc nt fr accum wout, runningRec s c id = some r → r.work = .tmma fb a b kb ooff acc nt fr accum wout →
  needSnoop s (taskHeld s c r.ctx fb ooff nt wout) = none →
  let y := if wout || fbCnt fb != 0 then escape s r.blk else s
  (r.cancelled = false → peerGone s r = false → r.work.poisoned y = false → ∀ s1 s2 e,
    runTiles c r fb a b kb ooff acc accum wout (nt - r.tdone) r.tdone r.gdone y = (s1, 0) → addCounter s1 c r.wave r.ctx fb = (s2, e) →
    exec (.tmmaTaskComplete c ⟨id, false⟩) s = .next (endTile s2 c r e) ∧ EndsRecord s2 (endTile s2 c r e) c r) ∧
  (r.cancelled = false → peerGone s r = false → ∀ err s1, err = true ∨ r.work.poisoned y = true →
    runTiles c r fb a b kb ooff acc accum wout (stopTile y r nt - r.tdone) r.tdone r.gdone y = (s1, 0) →
    exec (.tmmaTaskComplete c ⟨id, err⟩) s = .next (endTile (poisonFrom s1 c acc nt (stopTile y r nt)) c r 2)) ∧
  (r.cancelled = false → peerGone s r = true → ∀ err, exec (.tmmaTaskComplete c ⟨id, err⟩) s = .next (endTile (poisonFrom s c acc nt r.tdone) c r 3)) ∧
  (r.cancelled = true → acc + nt ≤ 16 → ∃ u, exec (.tmmaCancelStop c id) s = .next u ∧ (∀ x ∈ (u.core c).tileQ, x.id ≠ r.id) ∧
    ∀ i, i < nt → ((u.core c).accs.look {} (acc + i)).poison = true ∧ ((u.core c).accs.look {} (acc + i)).err = 1)

/-- `tcmp` and `tbmp` return their count in a scalar, `tmc` copies its bytes to every destination, once their blocks are all there (R231 to
R234). -/
def Sys2Proof.Claims.CompressAndMulticast : Prop :=
  (∀ s c id r src dst kb rows f d w, runningRec s c id = some r → r.work = .tcmp src dst kb rows f d →
    peerGone s r = false → r.work.poisoned s = false → waveAt s r.wave = some w → w.comp = none →
    ∃ u y, exec (.tcmpComplete c ⟨id, false⟩) s = .next u ∧ waveAt u r.wave = some y ∧ (∀ x ∈ (u.core c).tileQ, x.id ≠ r.id) ∧
      (y.sregs.look 0 d).toNat = ((List.range rows).map (fun i => ((List.range (8 * kb)).filter (fun q =>
        let vs := (List.range 4).map (fun j => srcVal s f src i (32 * kb) (4 * q + j))
        (List.range 4).any (fun j => j != (keepTwo vs).1 && j != (keepTwo vs).2 && !(vs.getD j .nan).isZero))).length)).sum % 2 ^ 64) ∧
  (∀ s c id r src dst kb rows f d w, runningRec s c id = some r → r.work = .tbmp src dst kb rows f d →
    peerGone s r = false → r.work.poisoned s = false → waveAt s r.wave = some w → w.comp = none →
    ∃ u y, exec (.tbmpComplete c ⟨id, false⟩) s = .next u ∧ waveAt u r.wave = some y ∧ (∀ x ∈ (u.core c).tileQ, x.id ≠ r.id) ∧
      (y.sregs.look 0 d).toNat = ((List.range (32 * kb)).filter (fun p =>
        (List.range rows).any (fun i => !(srcVal s f src i (32 * kb) p).isZero))).length % 2 ^ 64) ∧
  (∀ s c id r src off n dsts, runningRec s c id = some r → r.work = .tmc src off n dsts →
    peerGone s r = false → r.work.poisoned s = false → NoWays s r.blk → ∃ u, exec (.tmcComplete c ⟨id, false⟩) s = .next u ∧
      (∀ x ∈ (u.core c).tileQ, x.id ≠ r.id) ∧ SameMemory s u ∧
      ∀ d ∈ dsts, ∀ x, blockAt s d = some x → ∃ y, blockAt u d = some y ∧
        ∀ i : Nat, i < n → (y.spad.look 0 (off + i)).toNat = tileByte s src (i : Int))

/-- Loads and stores whose lanes pass every check of R284 join the wave's outstanding operations with the bytes and data of each lane; a
failed check raises its cause, a misaligned address 0x084 for the lowest such lane; a load takes its miss entries, which it finds while the core
has 256 (R277, R282, R284 to R286, R290, R292). -/
def Sys2Proof.Claims.LoadsAndStores : Prop :=
  ∀ s k w (t : TOp) s1 ls e,
  let v := waveView s k w
  let n := fmtBits t.fmt / 8
  let opts : Bool → Bool → AccOpts := fun store mc =>
    { space := t.opmod.toNat % 8, size := n, align := n, read := !store, write := store, multicast := mc }
  let lanes := fun once => accessLanes v t once (t.opmod.toNat / 32 % 4) (bitOf t.opmod 7)
  (WordReady s k w 0x220 t →
    (checkLanes s k w (opts false false) (lanes t.d.isS) = (s1, .ok ls) → (ls = [] → Retires s s1 k (.ld t)) ∧
      (ls ≠ [] → flagRoom w (attOf w t) = true →
        let cp := t.opmod.toNat / 8 % 4
        let at_ := lookHits s1 k w cp (loadParts ls)
        let missing := missSectors at_.1 (coreOf k) (ctxOf at_.1 w) (cp == 2) (loadParts ls)
        (at_.1.core (coreOf k)).fills.length + missing.length ≤ 256 →
        ∃ s2, takeMisses at_.1 (coreOf k) missing (cp == 0) = some s2 ∧
          IssuesWith s s2 k w t (.ld t) .mem (opndRegs w (width64 t.fmt) t.d)
            (.load (loadDst w (width64 t.fmt) t.d) (loadParts ls) cp) [] at_.2)) ∧
    (checkLanes s k w (opts false false) (lanes t.d.isS) = (s1, .error e) → Raises s k (.ld t) e)) ∧
  (∀ i op mc, (i, op, mc) ∈ [(Instr.st, 0x221, false), (Instr.stmc, 0x226, true)] → WordReady s k w op t →
    (checkLanes s k w (opts true mc) (lanes t.c.isS) = (s1, .ok ls) → (ls = [] → Retires s s1 k (i t)) ∧
      (ls ≠ [] → flagRoom w (attOf w t) = true →
        let parts : List Part := ls.map (fun p => { lane := p.1, locs := p.2, data := BitVec.ofNat 64 (srcBits v t t.fmt t.c p.1) })
        Issues s (if leavesBlock w.block parts then escape s1 w.block else s1) k w t (i t) .mem [] (.store parts none false))) ∧
    (checkLanes s k w (opts true mc) (lanes t.c.isS) = (s1, .error e) → Raises s k (i t) e)) ∧
  (∀ o ls l a r, (∀ p ∈ ls, ∃ x, resolve s k w p.1 p.2 o = .ok x) → ls.filter (fun p => p.2 % o.align != 0) = (l, a) :: r →
    (checkLanes s k w o ls).2 = .error { cause := 0x084, detail := l, addr := a
                                         lanes := (((l, a) :: r).map (fun p => 2 ^ p.1)).sum }) ∧
  (let a := (effAddr v t 0 false v.once).toNat
   let o : Bool → AccOpts := fun store => { space := t.opmod.toNat % 8, size := 4, align := 4, read := !store, write := store }
   (WordReady s k w 0x224 t → wholeLocs s k w (o false) v.once a = (s1, .ok ls) →
     (noMetadata ls = true → Raises s k (.ldt t) { cause := 0x088 }) ∧
     (noMetadata ls = false → flagRoom w (attOf w t) = true →
       let at_ := lookHits s1 k w 0 (loadParts ls)
       let missing := missSectors at_.1 (coreOf k) (ctxOf at_.1 w) false (loadParts ls)
       (at_.1.core (coreOf k)).fills.length + missing.length ≤ 256 →
       ∃ s2, takeMisses at_.1 (coreOf k) missing true = some s2 ∧
         IssuesWith s s2 k w t (.ldt t) .mem (opndRegs w 1 t.d) (.load (.whole (w.phys (opndIx t.d))) (loadParts ls) 0) [] at_.2)) ∧
   (WordReady s k w 0x225 t → wholeLocs s k w (o true) v.once a = (s1, .ok ls) →
     (noMetadata ls = true → Raises s k (.stt t) { cause := 0x088 }) ∧
     (noMetadata ls = false → flagRoom w (attOf w t) = true →
       let y := waveView s1 k w
       let parts : List Part := ls.map (fun p => { lane := p.1, locs := p.2, data := BitVec.ofNat 64 (srcBits y t .b32 t.c p.1) })
       Issues s (if leavesBlock w.block parts then escape s1 w.block else s1) k w t (.stt t) .mem []
         (.store parts (some (y.tag (opndIx t.c))) false))))

/-- `ldg` and `stg` move register PIDX of their run, and the word stays until the last one, which leaves PIDX 0; a register that fails a check
raises its cause with PIDX at its number, the registers before it done (R289). -/
def Sys2Proof.Claims.RegisterRuns : Prop :=
  ∀ s k w (t : TOp),
  let n := t.opmod.toNat / 8 % 32 + 1
  WaveTurn s k w → w.pidx < n →
  (Clear s k w (opGate 0x222 t false noSees w) →
    (∀ u, LoadStep t s k w u → RunStep s u k w n (.ldg t)) ∧
    (∀ s1 e, checkLanes s k w (runOpts t true) (runLanes (waveView s k w) t w.pidx) = (s1, .error e) →
      exec (.ldg t) s = .next (raiseWord (modWave s k (fun x => { x with pidx := w.pidx })) k e))) ∧
  (Clear s k w { opGate 0x223 t false noSees w with tags := (opGate 0x223 { t with c := .k 0 } false noSees w).tags } →
    let data := (List.range (width64 t.fmt)).map (fun i => (opndIx t.c + w.pidx * width64 t.fmt + i, false))
    (∀ u, StoreStep t s k w u → RunStep s u k w n (.stg t)) ∧
    (∀ e, tagCheck (waveView s k w) w data = some e → exec (.stg t) s = .next (raiseWord (modWave s k (fun x => { x with pidx := w.pidx })) k e)) ∧
    (tagCheck (waveView s k w) w data = none →
      ∀ s1 e, checkLanes s k w (runOpts t false) (runLanes (waveView s k w) t w.pidx) = (s1, .error e) →
      exec (.stg t) s = .next (raiseWord (modWave s k (fun x => { x with pidx := w.pidx })) k e)))

/-- `pf` changes nothing but caches; `cinv` drops the clean copies of its lines, `cwb` writes its dirty lines back; a fence and `fjoin` wait
for what they name; the release side of a fence marks the stores that follow it, at sy with the lines written back that the thread has written,
and the acquire side drops the copies of its scope (R293, R318 to R320). -/
def Obligations.LinesAndFences : Prop :=
  (∀ s k w (t : TOp), WaveTurn s k w → Clear s k w { opGate 0x227 t false noSees w with tags := [] } →
    (s.core (coreOf k)).fills.length + 32 ≤ 256 → ∃ u, Retires s u k (.pf t) ∧
    u = { s with cores := u.cores, dies := u.dies, sights := u.sights, msc := u.msc, bloom := u.bloom, dirty := u.dirty, slice := u.slice, mscw := u.mscw }) ∧
  (∀ s k w (t : TOp) s1 ls,
    let lines := checkLanes s k w { space := t.opmod.toNat % 8, size := 1, align := 1, read := true, scratch := some 0x087, konst := some 0x087 }
      (accessLanes (waveView s k w) t false 0 false)
    lines = (s1, .ok ls) →
    (WordReady s k w 0x228 t → ∃ u, Retires s u k (.cinv t) ∧ u = { s1 with cores := u.cores, dies := u.dies } ∧ ∀ l ∈ laneLines s1 ls,
      (u.core (l1Of s1 (coreOf k) (ctxOf s1 w) (l * 128))).l1.look none l = none ∧
      (t.opmod.toNat / 8 % 4 ≠ 0 → (u.die (coreOf k / 32)).cache.look none l = none)) ∧
    (WordReady s k w 0x229 t → ∃ u, Retires s u k (.cwb t) ∧ u = { s1 with dirty := u.dirty, msc := u.msc } ∧ ∀ l ∈ laneLines s1 ls,
      (s1.dirty.look none l).isSome = true → u.dirty.look none l = none)) ∧
  (∀ s k w (t : TOp),
    let ord := t.opmod.toNat % 4
    let scope := t.opmod.toNat / 4
    WaveTurn s k w → Clear s k w { sees := fun d => d.atFence && 2 ≤ ord && 2 ≤ scope && !fenceBusy w.pend ord scope } →
    let busy := fenceBusy w.pend ord scope || (decide (2 ≤ ord) && portPending s k scope)
    (busy = true → exec (.fence t) s = .next (setWave s k { w with fencing := true })) ∧
    (busy = false →
      let s1 := if 2 ≤ ord then releaseAt s (agWave k) scope else s
      Retires s (if ord % 2 = 1 then acquireAt s1 (agWave k) (coreOf k) (ctxOf s1 w) scope else s1) k (.fence t))) ∧
  (∀ s k (t : TOp),
    let ord := t.opmod.toNat % 4
    let scope := t.opmod.toNat / 4
    ScarabTurn s k [] → fenceBusy (scarabAt s k).pend ord scope = false →
    let s1 := if 2 ≤ ord then releaseAt s (agScarab k) scope else s
    exec (.fence t) s = .next (retireScarab (if ord % 2 = 1 then syncSight s1 (agScarab k) scope else s1) k)) ∧
  (∀ s ag c ctx scope, let u := acquireAt s ag c ctx scope
    (2 ≤ scope → (u.core c).l1 = []) ∧ (4 ≤ scope → (u.die (c / 32)).cache = []) ∧
    (scope < 2 → u = syncSight s ag scope) ∧ SameMemory s u) ∧
  (∀ s ag scope, let u := releaseAt s ag scope
    relNow u (whoOf u ag) scope ∈ (sightOf u ag).marks ∧ SameMemory s u ∧ (scope = 6 → (sightOf u ag).wrote = [])) ∧
  (∀ s k w (t : TOp),
    let busy := w.pend.any (fun p => joinHas t.opmod.toNat p.cls)
    WaveTurn s k w → Clear s k w { sees := fun d => joinHas t.opmod.toNat d.cls && !busy } →
    (busy = true → exec (.fjoin t) s = .next s) ∧
    (busy = false → Retires s (if t.opmod.toNat < 2 then s else joinEngines s (agWave k)) k (.fjoin t)))

/-- `spcfg` runs until no tile operation of the block is left and then gives the block its extension ways, `palias` answers the global addresses of private bytes, `mdld` and `mdst` read and write the
metadata of lines that no outstanding access of the wave names (R274, R280, R307, R308). -/
def Obligations.ScratchpadAliasesMetadata : Prop :=
  (∀ s k w (t : TOp) b n, WordReady s k w 0x22A t → blockAt s w.block = some b →
    (BitVec.ofNat 64 (srcBits (waveView s k w) t .n64 t.a 0)).toInt + t.imm.toInt = n →
    (n < 0 ∨ 12 < n ∨ 12 < (coreWays s (coreOf k) : Int) - b.ext + n → Raises s k (.spcfg t) { cause := 0x089 }) ∧
    (0 ≤ n → n ≤ 12 → (coreWays s (coreOf k) : Int) - b.ext + n ≤ 12 → flagRoom w (attOf w t) = true →
      let y := w.addPend { id := w.nextId, flag := attOf w t, cls := .mem, dst := [], work := .ways n.toNat, homes := pendHomes w
                           rels := (sightOf s (agWave k)).marks }
      Retires s (settleWays (setBlock (setWave s k y) w.block { b with waysPend := some (n.toNat, k, w.nextId) }) w.block) k (.spcfg t))) ∧
  (∀ s bk b n k id, blockAt s bk = some b → b.waysPend = some (n, k, id) →
    let u := settleWays s bk
    ((∃ r ∈ (s.core (bk / 64)).tileQ, r.blk = bk) → u = s) ∧
    ((∀ r ∈ (s.core (bk / 64)).tileQ, r.blk ≠ bk) → Ended s u k id ∧ SameMemory s u ∧ blockAt u bk = some { b with
      ext := n, waysPend := none, spad := b.spad.filter (fun p => p.1 < (b.spadSize + 65535) / 65536 * 65536 + min n b.ext * 65536) })) ∧
  (∀ s k w (t : TOp) c b, WordReady s k w 0x22B t → w.comp = none → contextAt s (ctxOf s w) = some c → blockAt s w.block = some b →
    let v := waveView s k w
    let addr : Nat → Nat := fun l =>
      (BitVec.ofNat 64 (srcBits v t .b64 t.a l) + (BitVec.ofNat 32 (srcBits v t .i32 t.b l)).signExtend 64).toNat
    (∀ l ∈ v.active, c.pwin.toNat ≤ addr l ∧ addr l < c.pwin.toNat + min (2 ^ 32) c.plim) →
    Retires s (applyOut s k { vecs := vecOut 64 (opndIx t.d) (v.active.map (fun l =>
      let o := addr l - c.pwin.toNat
      (l, c.pbase.toNat + (32 * b.pslot + w.num) * 32 * c.plim + o / 4 * 128 + 4 * l + o % 4))) tagE }) k (.palias t)) ∧
  (∀ s k w (t : TOp) s1 rows,
    let v := waveView s k w
    lineBusy s1 w (rows.map (fun r => r.2.1)) = false →
    (WordReady s k w 0x22C t → mdCheck s k w t false (accessLanes v t t.d.isS 0 false) = (s1, .ok rows) → rows ≠ [] →
      (∀ r ∈ rows, (mdSeen s1 r.2.1 r.2.2.2 r.1).2 = false) →
      let s2 := (linesOf s1 (rows.map (fun r => r.2.1))).foldl atHome s1
      let s2 := noteRead s2 (agWave k) (mdKeys s2 (rows.map (fun r => (r.2.1, List.range 8))))
      Retires s (deliverLoad s2 k (pendHomes w) (attOf w t) (loadDst w 2 t.d)
        (rows.map (fun r => (r.1, (⟨(mdSeen s1 r.2.1 r.2.2.2 r.1).1.toNat, false, tagE⟩ : Got)))) false 0x086) k (.mdld t)) ∧
    (WordReady s k w 0x22D t → mdCheck s k w t true (accessLanes v t t.c.isS 0 false) = (s1, .ok rows) → rows ≠ [] →
      needSnoop s1 (rows.map (fun r => r.2.1)) = none → (∀ r ∈ rows, isPeer s1 r.2.1 = false) →
      let f := t.opmod.toNat / 8
      let s2 := rows.foldl (fun s r => mdWrite s r.2.1 r.2.2.1 r.2.2.2 f (BitVec.ofNat 64 (srcBits v t .b64 t.c r.1)))
        { (escape s1 w.block).tickStore with hand := { rels := (sightOf (escape s1 w.block) (agWave k)).marks } }
      Retires s (noteMd { s2 with hand := {} } k (fun g => mdBytes g f) (rows.map (fun r => (r.2.1, r.2.2.2)))) k (.mdst t))) ∧
  (∀ s a g i, isPeer s a = false → extentDetail s a ≠ some 2 →
    (s.grades.look 0 (physNorm s a / 64) = 0 ∨ s.grades.look 0 (physNorm s a / 64) = gradeCode g + 1) →
    mdSeen s a g i = (mdView g (mdImage s a), isPoison s a))

/-- Atomics issue after their release and stay outstanding; the region words collect entries, and `areg.go` sends the checked list (R332, R336 to
R341). -/
def Obligations.AtomicsIssue : Prop :=
  (∀ s k w (t : TOp), WordReady s k w 0x280 t → AtomIssues s k w t (.amo t) (atomSpec t false false) t.d.isS
    (some (loadDst w (width64 t.fmt) t.d)) (opndRegs w (width64 t.fmt) t.d)) ∧
  (∀ s k w (t : TOp), WaveTurn s k w → Clear s k w (opGate 0x281 t true noSees w) → AtomIssues s k w t (.cas t) (atomSpec t false true) t.d.isS
    (some (loadDst w (width64 t.fmt) t.d)) (opndRegs w (width64 t.fmt) t.d)) ∧
  (∀ s k w (t : TOp), WordReady s k w 0x282 t →
    AtomIssues s k w t (.red t) (atomSpec t false false) (!t.a.isV && !t.b.isV && !t.c.isV) none []) ∧
  (∀ s k w (t : TOp), WordReady s k w 0x283 t → AtomIssues s k w t (.amonib t) (atomSpec t true false) t.d.isS
    (some (loadDst w 1 t.d)) (opndRegs w 1 t.d)) ∧
  (∀ s k w (t : TOp),
    let v := waveView s k w
    let addrs : Vector DWord 32 := Vector.ofFn (fun l => effAddr v { t with b := .k 0 } 0 false l.val)
    let add : RegionEntry → State := fun e =>
      setWave s k (if w.region.length < 8 then { w with region := w.region ++ [e] } else { w with regionOvf := true })
    (WordReady s k w 0x284 t →
      Retires s (add { store := false, size := fmtBits t.fmt / 8, exec := w.exec, addrs := addrs, dst := t.d, data := Vector.ofFn (fun _ => 0) })
        k (.aregLd t)) ∧
    (WordReady s k w 0x285 t →
      Retires s (add { store := true, size := fmtBits t.fmt / 8, exec := w.exec, addrs := addrs, dst := .v 0
                       data := Vector.ofFn (fun l => BitVec.ofNat 64 (srcBits v t t.fmt t.c l.val)) }) k (.aregSt t))) ∧
  (∀ s k w (t : TOp), WaveTurn s k w → Clear s k w { writes := regionRegs w, att := attOf w t } →
    let ord := t.opmod.toNat % 4
    let scope := t.opmod.toNat / 4
    (w.regionOvf = true → Raises s k (.aregGo t) { cause := 0x08D, detail := 1 }) ∧
    (∀ s1 l, w.regionOvf = false → splitLanes s k w = [] → regionChecks k w s w.region = (s1, .ok l) →
      (2 ≤ ord → w.region = [] ∨ fenceBusy w.pend 2 scope = false ∧ portPending s1 k scope = false) →
      let s2 := if 2 ≤ ord then releaseWork s1 (agWave k) scope else s1
      let y := { (waveAt s2 k).getD w with region := [], regionOvf := false }
      (regionSteps s2 w l = [] → Retires s (setWave (if ord % 2 = 1 then acquireAt s2 (agWave k) (coreOf k) (ctxOf s2 w) scope else s2) k y)
        k (.aregGo t)) ∧
      (regionSteps s2 w l ≠ [] → flagRoom w (attOf w t) = true →
        let s3 := if w.region.any (·.store) then escape s2 w.block else s2
        IssuesWith s s3 k y t (.aregGo t) .mem (regionRegs w) (.region (regionSteps s2 w l) scope (ord % 2 == 1) []) (ownRel s3 k ord scope)))) ∧
  (∀ f aop old v, f ∈ [Fmt.i32, .n32, .i64, .n64] → aop < 10 → old < 2 ^ fmtBits f → v < 2 ^ fmtBits f →
    amoNew f aop old v = (atomicNew (fmtSigned f) aop (BitVec.ofNat (fmtBits f) old) (BitVec.ofNat (fmtBits f) v)).toNat)

/-- A byte written at its home reads back, every other byte as before; a value of some bytes is little-endian; another package's byte and one
of a lost stack are not written (R1, R298, R23). -/
def Obligations.MemoryReadsBack : Prop :=
  (∀ s a v b, isPeer s a = false → isLost s a = false →
    homeByte (homePut s a v) b = if physNorm s b = physNorm s a then v else homeByte s b) ∧
  (∀ s a v, isPeer s a = true ∨ isLost s a = true → homePut s a v = s) ∧
  (∀ s a n x, (∀ i, i < n → isPeer s (a + i) = false ∧ isLost s (a + i) = false) →
    (∀ i j, i < n → j < n → physNorm s (a + i) = physNorm s (a + j) → i = j) →
    homeRead (homeWrite s a n x) a n = x % 256 ^ n ∧ SameMemoryBut s (homeWrite s a n x) ((List.range n).map (a + ·))) ∧
  (∀ s p, p < 2 ^ 40 → physNorm s (2 ^ 48 + s.pkg * 2 ^ 40 + p) = if s.pkg < 256 then p else 2 ^ 48 + s.pkg * 2 ^ 40 + p)

/-- Accesses in flight complete once the older ones of their agent to the same bytes have: a load delivers what its home or the caches hold,
with the worst tag of its lines, and gives up its miss entries, a store applies its bytes and is acknowledged, an outstanding miss returns and
installs nothing where it was invalidated (R276 to R278, R285 to R288, R295, R391). -/
def Obligations.AccessesComplete : Prop :=
  (∀ s k w id p d parts cp s1 gs, waveAt s k = some w → isPend w.pend id p (.load d parts cp) → olderConflict s w.pend id parts = false →
    portBlocked s k p.port parts = false →
    loadGot s k (ctxOf s w) p d parts cp = (s1, gs) → gs.any (fun g => g.2.bad) = false →
    let s2 := endMisses s1 (coreOf k) (missSectors s (coreOf k) (ctxOf s w) (cp == 2) parts)
    exec (.loadDataReturn (.wave k) id false) s =
      .next (modWave (deliverLoad s2 k p.homes p.flag d gs false 0x086) k (fun w => w.endPend id))) ∧
  (∀ s k w f p gs bad c, waveAt s k = some w → ∃ y, OnlyWave s (deliverLoad s k [] f (.vec p none) gs bad c) k y ∧
    y = { w with vregs := y.vregs, vtags := y.vtags, parity := y.parity, freshPoison := y.freshPoison } ∧
    (∀ l, l < 32 → vecLane y p l = match gs.find? (fun g => g.1 == l) with
      | some g => g.2.val % 2 ^ 32
      | none => vecLane w p l) ∧
    (∀ q, q ≠ p → y.vregs.look (Vector.replicate 32 0) q = w.vregs.look (Vector.replicate 32 0) q ∧ y.vtags.look 0 q = w.vtags.look 0 q) ∧
    (bad = true → y.vtags.look 0 p = tagP)) ∧
  (∀ s k w id p parts tag, waveAt s k = some w → isPend w.pend id p (.store parts tag false) → olderConflict s w.pend id parts = false →
    portBlocked s k p.port parts = false → needSnoop s (partAddrs parts) = none →
    let u := applyWaveStore s k (ctxOf s w) p.rels parts tag
    exec (.storeApplyHome (.wave k) id) s = .next (modWave (notePorted u k p) k (fun w => { w with pend := applied w.pend id parts tag })) ∧
    SameMemoryBut s u (partAddrs parts)) ∧
  (∀ s k ctx rels p g (as : List Nat), p.locs = as.map (fun a => Loc.phys a g []) → (as.map (physNorm s)).Nodup →
    (∀ a ∈ as, isPeer s a = false ∧ isLost s a = false ∧ extentDetail s a ≠ some 2) →
    ∀ i a, as[i]? = some a → homeByte (applyWaveStore s k ctx rels [p] none) a = BitVec.ofNat 8 (p.data.toNat / 256 ^ i)) ∧
  (∀ s k w id p parts tag, waveAt s k = some w → isPend w.pend id p (.store parts tag true) → (∀ a ∈ partAddrs parts, isPeer s a = false) →
    exec (.storeAck (.wave k) id) s = .next (setWave s k (w.endPend id))) ∧
  (∀ s k id p r q parts cp s1 gs,
    let x := scarabAt s k
    isPend x.pend id p (.load (.vec r q) parts cp) → olderConflict s x.pend id parts = false →
    rowReads s k x parts = (s1, gs) → gs.any (fun g => g.2.bad) = false →
    exec (.loadDataReturn (.scarab k) id false) s =
      .next (setScarab s1 k ((x.writeVec r (gs.map (fun g => (g.1, g.2.val)))).endPend id))) ∧
  (∀ s k id p parts tag,
    let x := scarabAt s k
    (isPend x.pend id p (.store parts tag false) → olderConflict s x.pend id parts = false → needSnoop s (partAddrs parts) = none →
      let u := { writeLocs { s with hand := { rels := p.rels } } (dropRevoked s (parts.flatMap partBytes)) with hand := {} }
      exec (.storeApplyHome (.scarab k) id) s =
        .next (setScarab (noteOwn u (agScarab k) (partAddrs parts)) k { x with pend := applied x.pend id parts tag })) ∧
    (isPend x.pend id p (.store parts tag true) → exec (.storeAck (.scarab k) id) s = .next (setScarab s k (x.endPend id)))) ∧
  (∀ s c id p parts tag,
    let x := coxAt s c
    (isPend x.sbuf id p (.store parts tag false) → olderConflict s x.sbuf id parts = false →
      (c < 256 → portBehind s c none p.port parts = false) → needSnoop s (partAddrs parts) = none →
      ∃ u, exec (.storeApplyHome (.cox c) id) s = .next u ∧ coxAt u c = { x with sbuf := applied x.sbuf id parts tag } ∧
        SameMemoryBut s u (partAddrs parts)) ∧
    (isPend x.sbuf id p (.store parts tag true) →
      exec (.storeAck (.cox c) id) s = .next (setCox s c { x with sbuf := x.sbuf.filter (fun q => q.id != id) }))) ∧
  (∀ s c l f, (s.core c).fills.find? (fun f => f.line == l) = some f → ∃ u, exec (.cacheFill c l) s = .next u ∧ SameMemory s u ∧
    u = { s with cores := u.cores, dies := u.dies, sights := u.sights, msc := u.msc, bloom := u.bloom, dirty := u.dirty, slice := u.slice, mscw := u.mscw } ∧
    (u.core c).fills = (s.core c).fills.filter (fun x => x.line != l) ∧
    (f.inst = false → ∀ j x, (u.core j).l1.look none x = (s.core j).l1.look none x ∨ (u.core j).l1.look none x = none))

/-- An atomic is performed after the wave's older accesses to its bytes: each lane reads, stores its new value and returns the old one, lane by
lane; atomics of other threads may fall between two lanes, and its acquire and its destination follow the last (R332 to R338, R341, R342). -/
def Obligations.AtomicsPerformed : Prop :=
  (∀ s k w id p sp d parts cmps got n s1 gs, waveAt s k = some w → isPend w.pend id p (.atomic sp d parts cmps got) →
    olderConflict s w.pend id parts = false →
    let now := parts.take (max 1 n)
    let rest := parts.drop (max 1 n)
    portBlocked s k p.port now = false → needSnoop s (partAddrs now) = none →
    atomLanes s (coreOf k) (ctxOf s w) (agWave k) sp false p.rels cmps now = (s1, gs) → (got ++ gs).any (fun g => g.2.bad) = false →
    let s2 := notePorted s1 k p
    (rest ≠ [] → exec (.atomicPerform k id ⟨false, n⟩) s = .next (setWork s2 k p.id (.atomic sp d rest cmps (got ++ gs)))) ∧
    (rest = [] →
      let s3 := if sp.acq then acquireAt s2 (agWave k) (coreOf k) (ctxOf s w) sp.scope else s2
      exec (.atomicPerform k id ⟨false, n⟩) s = .next (modWave (match d with
        | some d => deliverLoad s3 k p.homes p.flag d (got ++ gs) false 0x086
        | none => s3) k (fun w => w.endPend p.id)))) ∧
  (∀ s c ctx ag sp rels cmps p s1 at_ g, atomRead s c ctx ag sp.scope (20 * p.lane) p.locs = (s1, at_, g) → g.bad = false →
    let cmp := ((cmps.find? (fun q : Nat × DWord => q.1 == p.lane)).map (·.2.toNat)).getD 0
    let here := ((p.locs.head?).elim 0 (locNow s1)).toNat
    let new := if sp.cas then p.data.toNat
      else if sp.nib then (if p.data.getLsbD 4 then here % 16 + 16 * amoNew .n4 sp.aop (g.val / 16 % 16) (p.data.toNat % 16)
        else here / 16 * 16 + amoNew .n4 sp.aop (g.val % 16) (p.data.toNat % 16))
      else amoNew sp.fmt sp.aop g.val p.data.toNat
    let u := atomLane s c ctx ag sp false rels cmps p
    (sp.nib = true → sp.cas = false ∧ g.val < 256) →
    (sp.cas = true → g.val ≠ cmp → u.1 = noteCas s1 rels p.locs) ∧
    (sp.cas = false ∨ g.val = cmp → u.1 = storeParts s1 ag c ctx
      { rels := rels ++ carried s1 (whoOf s1 ag) sp.scope at_ p.locs, atom := some (whoOf s1 ag, sp.scope) } [{ p with data := BitVec.ofNat 64 new }]) ∧
    u.2.1 = p.lane ∧
    (sp.nib = false → u.2.2.val = extTo (fmtSigned sp.fmt) (fmtBits sp.fmt) 64 g.val) ∧
    (sp.nib = true → u.2.2.val = if p.data.getLsbD 4 then g.val / 16 else g.val % 16)) ∧
  (∀ s rels ls, SameMemory s (noteCas s rels ls)) ∧
  (∀ s k w id p steps scope acq got n s1 gs, waveAt s k = some w → isPend w.pend id p (.region steps scope acq got) →
    olderConflict s w.pend id (steps.map (·.part)) = false →
    let now := (splitSteps (max 1 n) steps).1
    let rest := (splitSteps (max 1 n) steps).2
    let stores := (now.filter (·.store)).map (·.part)
    portBlocked s k p.port (now.map (·.part)) = false → needSnoop s (partAddrs stores) = none →
    regionLane (coreOf k) (ctxOf s w) (agWave k) scope false p.rels none s now = (s1, gs) → partsPeer s1 stores = false →
    let s2 := notePorted s1 k p
    (rest ≠ [] → exec (.atomicPerform k id ⟨false, n⟩) s = .next (setWork s2 k p.id (.region rest scope acq (got ++ gs)))) ∧
    (rest = [] →
      let s3 := if acq then acquireAt s2 (agWave k) (coreOf k) (ctxOf s w) scope else s2
      exec (.atomicPerform k id ⟨false, n⟩) s =
        .next (modWave (deliverRegion s3 k (ctxOf s w) p.homes p.flag (got ++ gs)) k (fun w => w.endPend p.id))))

/-- Barriers and waits: an arrival releases first, and the last one completes the phase; a wave that waits goes on once the phase has ended,
with an acquire; a poll ends when every lane's condition holds (R343 to R351). -/
def Obligations.BarriersAndWaits : Prop :=
  (∀ s k w (t : TOp) key x, AtBarrier s k w t key x →
    let me := w.block * 32 + w.num
    let scope := if t.opmod.toNat % 128 < 96 then 1 else if t.opmod.toNat % 128 < 120 then 2 else 4
    let leaves := leavesBar s k w x scope
    (x.broken = false → me ∈ x.members → me ∉ x.arrived → fenceBusy w.pend 2 scope = false → portPending s k scope = false →
      Clear s k w {} →
      ∃ u, Retires s u k (.barv t) ∧ Arrives s u k key me x ∧ SameMemory s u) ∧
    (Clear s k w {} → w.barOpen = true → Retires s leaves k (.barw t) ∧ Retires s leaves k (.bars t)) ∧
    (x.broken = false → Clear s k w {} → w.barOpen = false →
      (x.phase ≠ bitOf t.opmod 7 → Retires s leaves k (.barw t)) ∧
      (x.phase = bitOf t.opmod 7 → (∃ m ∈ x.members, m ∉ x.gone) → exec (.barw t) s = .next (setWave s k { w with barWait := some key })) ∧
      (x.phase = bitOf t.opmod 7 → x.members ≠ [] → (∀ m ∈ x.members, m ∈ x.gone) →
        Retires s (leavesBar (setBar s key { x with phase := !x.phase }) k w x scope) k (.barw t))) ∧
    (x.broken = false → Clear s k w {} → w.barOpen = false →
      ((∀ p, w.barArrived ≠ some (key, p)) → me ∈ x.members → me ∉ x.arrived → fenceBusy w.pend 2 scope = false →
        portPending s k scope = false → ∃ u y, exec (.bars t) s = .next u ∧ Arrives s u k key me x ∧ waveAt u k = some y ∧
          y.barArrived = some (key, x.phase) ∧ y.barWait = some key ∧ y.clause = w.clause) ∧
      (∀ p, w.barArrived = some (key, p) → (x.phase ≠ p → Retires s leaves k (.bars t)) ∧
        (x.phase = p → exec (.bars t) s = .next (setWave s k { w with barWait := some key })))) ∧
    (Clear s k w { writes := [.s (opndIx t.d)] } → Retires s (writeScaAt s k (opndIx t.d) (x.phase.toNat +
      2 * ((x.members.filter (fun m => x.arrived.contains m || x.gone.contains m)).length % 2 ^ 31) +
      2 ^ 32 * (x.members.filter (fun m => !x.arrived.contains m && !x.gone.contains m)).length)) k (.barq t)) ∧
    (Clear s k w {} → me ∉ x.members → Raises s k (.barv t) { cause := 0x140 }) ∧
    (Clear s k w {} → me ∈ x.members → me ∈ x.arrived → Raises s k (.barv t) { cause := 0x142 }) ∧
    (Clear s k w {} → me ∈ x.members → me ∉ x.arrived → x.broken = true → Raises s k (.barv t) { cause := 0x141 })) ∧
  (∀ s k w (t : TOp) s1 ls, WordReady s k w 0x2C4 t →
    let n := fmtBits t.fmt / 8
    let y := { w with polled := some ls }
    (w.polled = none → checkLanes s k w { size := n, align := n, read := true } (accessLanes (waveView s k w) t false 0 false) = (s1, .ok ls) →
      (ls = [] →
        let u := modWave s1 k (fun w => { w with hold := .no, polled := none })
        Retires s (if bitOf t.opmod 3 then acquireAt u (agWave k) (coreOf k) (ctxOf u w) (t.opmod.toNat / 16) else u) k (.waitm t)) ∧
      (ls ≠ [] → pollersFull s1 k = false → Polls s (setWave s1 k y) k y t ls) ∧
      (ls ≠ [] → pollersFull s1 k = true → exec (.waitm t) s = .next (parkWave s1 k y (watchLines s1 ls)))) ∧
    (w.polled = some ls → Polls s s k w t ls)) ∧
  (∀ s k w (t : TOp) c, WordReady s k w 0x2C4 t → w.hold = .waitm → w.clause = some c → clauseInstr c = some (.word (.waitm t)) →
    exec (.waitmPoll k) s = exec (.waitm t) s) ∧
  (∀ s k w (t : TOp),
    let f := t.opmod.toNat % 16
    WaveTurn s k w → Clear s k w { sees := fun d => d.flag == some f && !w.flagPending f } →
    (w.flagPending f = true → exec (.waitf t) s = .next s) ∧ (w.flagPending f = false → Retires s (joinEngines s (agWave k)) k (.waitf t))) ∧
  (∀ s k w (t : TOp), WordReady s k w 0x2C6 t →
    let n := (BitVec.ofNat 64 (srcBits (waveView s k w) t .n64 t.a 0)).toInt + t.imm.toInt
    (n ≤ 0 → Retires s s k (.nap t)) ∧ (0 < n → exec (.nap t) s = .next (setWave s k { w with hold := .nap (min n.toNat (2 ^ 20)) }))) ∧
  (∀ s k w n, waveAt s k = some w → w.hold = .nap n → exec (.napExpire k) s = .next (retireWord (setWave s k { w with hold := .no }) k))


/-- Copies with good operands join the engine's queue, bad ones raise 0x153 or 0x087, and a full engine holds the word; `chapp` binds a chain
and sets its tail, `chseq` reads its DONE with an acquire, `evpost` queues an event after the wave's accesses, and `getwork` takes a block
that no distributor has placed (R355, R356, R361, R364 to R366, R443). -/
def Obligations.CopyWords : Prop :=
  (∀ s k w (t : TOp), WordReady s k w 0x2E0 t →
    let n := waveSca w t t.c
    CopyIssues s k w t (.cpy t) (n = 0 || 2 ^ 40 ≤ n) (.cpy (BitVec.ofNat 64 (waveSca w t t.a)) (BitVec.ofNat 64 (waveSca w t t.b)) n) []) ∧
  (∀ s k w (t : TOp), WordReady s k w 0x2E1 t →
    let x := waveSca w t t.c
    let rowb := x % 2 ^ 20
    let rows := x / 2 ^ 20 % 2 ^ 12 + 1
    let ds := x / 2 ^ 48 * 16
    CopyIssues s k w t (.cpy2 t) (rowb = 0 || (1 < rows && ds < rowb))
      (.cpy2 (BitVec.ofNat 64 (waveSca w t t.a)) (BitVec.ofNat 64 (waveSca w t t.b)) rowb rows (x / 2 ^ 32 % 2 ^ 16 * 16) ds) []) ∧
  (∀ s k w (t : TOp), WaveTurn s k w → Clear s k w { opGate 0x2E2 t false noSees w with tags := [] } →
    let n := waveSca w t t.c
    CopyIssues s k w t (.cpyg t) (n = 0 || 4096 < n) (.cpyg (BitVec.ofNat 64 (waveSca w t t.a))
      ((waveView s k w).active.map (fun l => (l, BitVec.ofNat 64 (srcBits (waveView s k w) t .b64 t.b l)))) n) (opndTags 2 false t.b)) ∧
  (∀ s k w (t : TOp), WordReady s k w 0x2E3 t → forkReady s k w.nextId = false → exec (.chapp t) s = .next s) ∧
  (∀ s k w (t : TOp) s1 h locs, WordReady s k w 0x2E3 t → forkReady s k w.nextId = true →
    let c := coreOf k
    let ctx := ctxOf s w
    let a := waveSca w t t.a
    let b := waveSca w t t.b
    chainHeader s k w a = (s1, .ok (h, locs)) →
    let n := natAt h 8 4 % 2 ^ 17
    let sc := natAt h 0xC 4
    let bound := natAt h 0x28 8
    let mine := natBit bound 24 = false ∨ bound % 2 ^ 24 = ctx + c * 2 ^ 16
    let fits := natAt h 0x10 8 ≤ b ∧ (BitVec.ofNat 64 b - BitVec.ofNat 64 (natAt h 0x18 8)).toNat ≤ n
    let fine := 1 ≤ n ∧ natAt h 8 4 < 2 ^ 17 ∧ n ≤ 65536 ∧ n = 2 ^ Nat.log2 n ∧ 1 ≤ sc ∧ sc ≤ 6 ∧ natAt h 0x20 8 = 0 ∧ bound < 2 ^ 25 ∧ natAt h 0x30 16 = 0
    (¬ mine → Raises s k (.chapp t) { cause := 0x155, detail := 1 }) ∧
    (mine → ¬ fits → Raises s k (.chapp t) { cause := 0x155, detail := 2 }) ∧
    (mine → fits → ¬ fine → Raises s k (.chapp t) { cause := 0x155, detail := 3 }) ∧
    (mine → fits → fine →
      let used := recordsUsed { s1.core c with chains := (s1.core c).chains.filter (fun (x : Chain) => x.hdr.toNat != a) } + chainUse b (natAt h 0x18 8)
      (512 < used → exec (.chapp t) s = .next s1) ∧
      (used ≤ 512 → needSnoop s1 (partAddrs [{ lane := 0, locs := locs, data := 0 }]) = none →
        let s2 := engPoke (engPoke (escape s1 w.block) {} c ctx (a + 0x10) 8 b) {} c ctx (a + 0x28) 8 (ctx + c * 2 ^ 16 + 2 ^ 24)
        let old : Chain := ((s2.core c).chains.find? (fun x => x.hdr.toNat == a)).getD
          { hdr := BitVec.ofNat 64 a, ctx := ctx, tail := b, done := natAt h 0x18 8 }
        let me : ChainIssue := { upto := b, id := s2.nextId, blk := w.block, who := engWho s2 k }
        Retires s ({ s2 with nextId := s2.nextId + 1 }.setCore c { s2.core c with
          chains := (s2.core c).chains.filter (fun (x : Chain) => x.hdr.toNat != a) ++
            [{ old with tail := b, scope := sc, issued := old.issued ++ [me] }] }) k (.chapp t)))) ∧
  (∀ s k w (t : TOp) s1 h locs, WordReady s k w 0x2E4 t → accessesDone w = true →
    chainHeader s k w (waveSca w t t.a) = (s1, .ok (h, locs)) →
    let u := writeScaAt s1 k (opndIx t.d) (natAt h 0x18 8)
    Retires s (acquireAt u (agWave k) (coreOf k) (ctxOf s1 w) (natAt h 0xC 4 % 8)) k (.chseq t)) ∧
  (∀ s k w (t : TOp), WordReady s k w 0x2E5 t →
    let c := coreOf k
    let b := waveSca w t t.b
    let pay : DWord := BitVec.ofNat 64 (waveSca w t t.a)
    let hdr := eventHdr 3 (b / 2 ^ 32) (k % 64) (b % 2 ^ 32)
    let waiting := (s.core c).copies.any (fun r => match r.work with
      | .evpost _ _ => true
      | _ => false)
    (2 ^ 40 ≤ b → Raises s k (.evpost t) { cause := 0x153 }) ∧
    (b < 2 ^ 40 → accessesDone w = true → recordsUsed (s.core c) < 512 →
      (EventRoom s c → waiting = false → Retires s (queueEvent (escape s w.block) c hdr pay) k (.evpost t)) ∧
      (¬ EventRoom s c ∨ waiting = true → flagRoom w (attOf w t) = true →
        JoinsCopies s (escape (setCox s c { coxAt s c with held := true }) w.block) k w t (.evpost t)
          { id := 0, wave := 0, pend := 0, ctx := 0, blk := 0, work := .evpost hdr pay, written := true, evHdr := hdr, evPay := pay }))) ∧
  (∀ s k w (t : TOp) b l m, WordReady s k w 0x2E9 t → blockAt s w.block = some b → launchAt s b.launch = some l →
    let a := waveSca w t t.a
    natBit a 23 = false → a % 8 = 0 → tileRange s w.block a 16 = some m →
    (bitOf l.attr 3 = false → Retires s (writeScaAt s k (opndIx t.d) 2) k (.getwork t)) ∧
    (bitOf l.attr 3 = true → l.unplaced = [] → Retires s (writeScaAt s k (opndIx t.d) 1) k (.getwork t)) ∧
    (∀ i r, bitOf l.attr 3 = true → l.unplaced = i :: r →
      let u := setBlock (setLaunch s b.launch { l with unplaced := r }) w.block
        { b with withdrawn := b.withdrawn ++ [i], mailbox := b.mailbox ++ [(m.blk, m.off, i)] }
      Retires s (writeScaAt (leaveBarriers u ((List.range 32).map (ghost b.launch i))) k (opndIx t.d) 0) k (.getwork t)))

/-- A copy whose bytes can be read and written moves them in order, takes its CRC and leaves the engine, queueing its event where it asks for
one; the records of a chain run and advance its DONE; a mailbox receives its block (R357 to R363, R443). -/
def Obligations.CopyEvents : Prop :=
  (∀ s c id err r s0 crc,
    let rs := copyResolve s r.ctx r.blk
    let y := if copyLeaves rs r.blk r.work.moves then escape s r.blk else s
    (s.core c).copies.find? (fun x => x.id == id) = some r → r.written = false → copyStarted s c id 0 = true → forkReady s r.wave r.pend = true →
    needSnoop s (copyAddrs s c r.ctx rs r.work.moves) = none → runCopy y c (copyJob y r) err none = (s0, 0, crc) →
    let s1 := engRelease s0 r.wave r.scope
    (r.ev = false → ∃ u, exec (.copyComplete c id err) s = .next u ∧ (∀ x ∈ (u.core c).copies, x.id ≠ id) ∧ Ended s1 u r.wave r.pend ∧
      SameMemory s0 u) ∧
    (r.ev = true → EventRoom s1 c → ∃ u, exec (.copyComplete c id err) s = .next u ∧ (∀ x ∈ (u.core c).copies, x.id ≠ id) ∧
      Ended s1 u r.wave r.pend ∧ SameMemory s0 u ∧
      (coxAt u c).events = (coxAt s0 c).events ++ [(eventHdr 4 0 (r.wave % 64) (r.work.dst.toNat % 2 ^ 32), BitVec.ofNat 64 crc)])) ∧
  (∀ s c j s1 l, j.seg = 0 → prepAll c j.ctx j.rs j.stash false s 0 (segsOf j.moves) = (s1, l) →
    ∀ gs : List Seg, l = gs.map .ok → (∀ g ∈ gs, g.bad = false) → segsLap s1 gs = false →
    let whole := fun ln => lineBytes (segsOf j.moves) ln == 64
    ∃ crc, runCopy s c j false none = ((writeSegs s1 j.ag c j.ctx j.stash whole [] gs).1, 0, crc) ∧ (j.crc = false → crc = 0) ∧
      (j.crc = true → j.part = 0xFFFFFFFF → crc = crc32 (gs.flatMap (fun g => g.bytes.map (·.toNat))))) ∧
  (∀ x d n, n < 2 ^ 40 → let l := cutMove (n / 128 + 2) x d n
    (l.flatMap (fun p => (List.range p.2.2).map (fun i => (p.1 + i, p.2.1 + i)))) = (List.range n).map (fun i => (x + i, d + i)) ∧
    ∀ p ∈ l, p.2.1 / 128 = (p.2.1 + p.2.2 - 1) / 128) ∧
  (∀ s c h seq s1 ch a r,
    (ChainRuns s s1 0 c h seq ch a r → exec (.chainNop c h seq) s = .next (endRecord s1 c ch seq (some a) 0 0)) ∧
    (∀ i op w s2 x, (i, op, w) ∈
        [(Instr.chainCopy, 1, fun r => CopyWork.cpy (BitVec.ofNat 64 (natAt r 8 8)) (BitVec.ofNat 64 (natAt r 0x10 8)) (natAt r 0x18 8)),
          (Instr.chainCopy2, 2, fun r => CopyWork.cpy2 (BitVec.ofNat 64 (natAt r 8 8)) (BitVec.ofNat 64 (natAt r 0x10 8))
            (natAt r 0x18 4) (natAt r 0x1C 4) (natAt r 0x20 4) (natAt r 0x24 4))] →
      ChainRuns s s1 op c h seq ch a r → (∀ m ∈ ch.moved, m.1 ≠ seq) → (ch.issue seq).any (fun q => copyStarted s1 c q.id seq) = true →
      let rs : Nat → Nat → Option CopyLoc := fun a _ => some (.virt a)
      let at_ := ((ch.prog.find? (fun p => p.1 == seq)).map (·.2)).getD (0, 0xFFFFFFFF)
      needSnoop s1 (copyAddrs s1 c ch.ctx rs (w r).moves) = none →
      runCopy (chainEscape s1 ch seq) c { ag := agChains c, ctx := ch.ctx, rs := rs, moves := (w r).moves, crc := natBit (natAt r 0 4) 10, stash := natBit (natAt r 0 4) 11, seg := at_.1, part := at_.2 } false none = (s2, x) →
      let s3 := if ch.scope = 6 then flushWrote s2 (agChains c) else s2
      (natBit (natAt r 0 4) 9 = false → exec (i c h seq) s = .next (endRecord s3 c ch seq (some a) x.2 x.1)) ∧
      (natBit (natAt r 0 4) 9 = true → EventRoom s3 c → exec (i c h seq) s = .next (endRecord
        (queueEvent s3 c (eventHdr 4 1 0xFFFF (seq % 2 ^ 32)) (BitVec.ofNat 64 (x.2 + x.1 * 2 ^ 32))) c ch seq (some a) x.2 x.1))) ∧
    (∀ s2 bs s4, ChainRuns s s1 3 c h seq ch a r → engRead s1 c ch.ctx (natAt r 8 8) 8 2 = (s2, .ok bs) →
      let as := storeAddrs s2 c ch.ctx (natAt r 8 8) 8
      let me := chainWho c ch seq
      let s2 := chainEscape s2 ch seq
      let s3 := if ch.scope = 6 then flushWrote s2 (agChains c) else s2
      needSnoop s2 as = none →
      engStore s3 (agChains c)
        { rels := relNow s3 me ch.scope :: carriedFrom s3 me ch.scope s3.clock (storeAddrs s3 c ch.ctx (natAt r 8 8) 8), atom := some (me, ch.scope) }
        c ch.ctx (natAt r 8 8) 8 ((bytesNat bs + natAt r 0x10 8) % 2 ^ 64) 3 = .done s4 →
      exec (.chainAdd c h seq) s = .next (endRecord s4 c ch seq (some a) 0 0)) ∧
    (∀ s2 bs, ChainRuns s s1 4 c h seq ch a r → engRead s1 c ch.ctx (natAt r 8 8) 8 2 = (s2, .ok bs) →
      exec (.chainWait c h seq) s = .next (if natAt r 0x10 8 ≤ bytesNat bs then endRecord s2 c ch seq (some a) 0 0 else s2)) ∧
    (ChainRuns s s1 5 c h seq ch a r → EventRoom s1 c →
      exec (.chainEvent c h seq) s = .next (endRecord (queueEvent s1 c (eventHdr 4 1 0xFFFF (seq % 2 ^ 32)) 0) c ch seq (some a) 0 0)) ∧
    ((s.core c).chains.find? (fun x => x.hdr.toNat == h) = some ch → chainRec s c ch seq = (s1, .ok (a, r)) → recBad s1 ch.ctx r = true →
      recRuns s1 c ch seq r = true → exec (.chainBadRecord c h seq) s = .next (endRecord s1 c ch seq (some a) 0 8))) ∧
  (∀ s c ch seq a crc, (s.core c).chains = [ch] → ch.halt = 0 → ∃ ch', ((endRecord s c ch seq (some a) crc 0).core c).chains = [ch'] ∧
    ch'.tail = ch.tail ∧ ch.done ≤ ch'.done ∧ (seq ≠ ch.done → ch.done ∉ ch.finished → ch'.done = ch.done) ∧
    (seq = ch.done → ch.done < ch'.done ∧ ∀ j, ch.done < j → j < ch'.done → j ∈ ch.finished) ∧
    ∀ j, j ∈ ch'.finished ↔ ch'.done ≤ j ∧ (j = seq ∨ j ∈ ch.finished)) ∧
  (∀ s k b blk off i r, blockAt s k = some b → b.mailbox = (blk, off, i) :: r → ∃ u, exec (.getworkMailbox k) s = .next u ∧ SameMemory s u ∧
    ∀ x, blockAt s blk = some x → ∃ y, blockAt u blk = some y ∧ ∀ j, j < 16 →
      y.spad.look 0 (off + j) = BitVec.ofNat 8 ((i % 2 ^ 32 + (if i < 2 ^ 32 then 1 else 2) * 2 ^ 64) / 256 ^ j))

/-- `rst` sends a packet for each line its lanes store to, `rstf` a flag that closes an epoch, and `rfence` waits for the acknowledgements; the
receiving side stores, counts and lets a flag store once its packets are counted (R375 to R379). -/
def Obligations.RemoteStores : Prop :=
  (∀ s k w (t : TOp) s1 parts, WordReady s k w 0x2E6 t → remoteCheck t s k w (wordLanes (waveView s k w) t false) = (s1, .ok parts) →
    (parts = [] → Retires s s1 k (.rst t)) ∧
    (let ls := gatherLines s1 parts
     let per := ((ls.map LinePack.pkg).eraseDups).map (fun p => (p, (ls.filter (fun l => l.pkg == p)).length))
     parts ≠ [] →
     (remoteFull w per = true → Raises s k (.rst t) { cause := 0x156 }) ∧
     (remoteFull w per = false → (corePackets s1 (coreOf k)).length + ls.length ≤ 2048 → flagRoom w (attOf w t) = true →
       Retires s (escape (ls.foldl (sendLine k w.nextId)
         (setWave s1 k (w.addPend (awaitsPackets w t ((List.range ls.length).map (fun i => s1.nextId + i)))))) w.block) k (.rst t)))) ∧
  (∀ s k w (t : TOp) e lanes s1, WordReady s k w 0x2E6 t → lanes = wordLanes (waveView s k w) t false →
    remoteCheck t s k w lanes = (s1, .error e) → Raises s k (.rst t) e) ∧
  (∀ s k w pend l, waveAt s k = some w → ∃ q, (sendLine k pend s l).packets = s.packets ++ [q] ∧ q.id = s.nextId ∧ q.wave = k ∧ q.pend = some pend ∧
    q.pkg = l.pkg ∧ q.isFlag = false ∧ q.line = l.line ∧ q.mask = l.mask ∧ q.data = l.data ∧ q.epoch = (dstEntry w l.pkg).epoch ∧
    ∀ y, waveAt (sendLine k pend s l) k = some y → (dstEntry y l.pkg).cnt = (dstEntry w l.pkg).cnt + 1) ∧
  (∀ s k w (t : TOp) lane rest s1 parts l ls,
    let v := waveView s k w
    WordReady s k w 0x2E7 t → v.active = lane :: rest →
    remoteCheck t s k w [(lane, (effAddr v t (t.opmod.toNat / 32 % 4) (bitOf t.opmod 7) lane).toNat)] = (s1, .ok parts) →
    gatherLines s1 parts = l :: ls →
    let d := dstEntry w l.pkg
    (remoteFull w [(l.pkg, 0)] = true → Raises s k (.rstf t) { cause := 0x156 }) ∧
    (remoteFull w [(l.pkg, 0)] = false → d.flagOut = false → (corePackets s1 (coreOf k)).length < 2048 → flagRoom w (attOf w t) = true →
      let path := choosePath s1 (coreOf k) l.pkg []
      let q : Packet := { id := s1.nextId, wave := k, pend := some w.nextId, pkg := l.pkg, path := path.1, port := path.2, isFlag := true
                          epoch := d.epoch, count := d.cnt, line := l.line, mask := l.mask, data := l.data }
      let y := (setEntry w { d.onPath path.1 (· + 1) with cnt := 0, epoch := !d.epoch, flagOut := true }).addPend (awaitsPackets w t [q.id])
      Retires s (escape { setWave s1 k y with packets := s1.packets ++ [q], nextId := s1.nextId + 1 } w.block) k (.rstf t))) ∧
  (∀ s k w (t : TOp),
    let busy := w.pend.any (fun p => p.cls == .rst)
    WaveTurn s k w → Clear s k w { sees := fun d => d.atRfence && !busy } →
    (busy = true → exec (.rfence t) s = .next (setWave s k { w with fencing := true })) ∧ (busy = false → Retires s s k (.rfence t))) ∧
  (∀ s src ep line mask data,
    let bytes := ((List.range 128).filter (fun i => natBit mask.toNat i)).map (fun i => (line.addr * 128 + i, BitVec.ofNat 8 (data.toNat / 256 ^ i)))
    (∀ b ∈ bytes, b.1 < 16 * interL s ∧ isPeer s b.1 = false ∧ isLost s b.1 = false) → needSnoop s (bytes.map (·.1)) = none →
    ∃ u, exec (.remoteStorePacket src ep line mask data) s = .next u ∧ u.notices = s.notices ++ [(src, ep)] ∧
      SameMemoryBut s u (bytes.map (·.1)) ∧ ∀ b ∈ bytes, homeByte u b.1 = b.2) ∧
  (∀ s src ep, (src, ep) ∈ s.notices →
    let x := keeperOf s src
    let gone := { s with notices := s.notices.erase (src, ep) }
    (x.failed = true → exec (.keeperNotice src ep) s = .next gone) ∧
    (x.failed = false → x ≠ {} ∨ (s.keepers.filter (fun p => p.1 / 2 ^ 22 == keeperStack src)).length < 8192 →
      exec (.keeperNotice src ep) s = .next (setKeeper gone src (if ep then { x with applied1 := x.applied1 + 1 } else { x with applied0 := x.applied0 + 1 })))) ∧
  (∀ s src ep count addr size (data : DWord),
    let x := keeperOf s src
    let n := if ep then x.applied1 else x.applied0
    let zero := if ep then { x with applied1 := 0 } else { x with applied0 := 0 }
    let flag : HeldFlag := { src := src, epoch := ep, count := count, store := some (addr, min size 8, data) }
    let clear : HeldFlag := { src := src, epoch := ep, count := count, store := none }
    x.failed = false →
    (n < count → flag ∉ s.keeperHeld →
      exec (.keeperFlag src ep count addr size data) s = .next { s with keeperHeld := s.keeperHeld ++ [flag] }) ∧
    (count ≤ n → ∀ u, outsideStore (setKeeper { s with keeperHeld := s.keeperHeld.erase flag } src zero) (bytesOf addr.addr (min size 8) data.toNat) false addr.grade
      [relNow s { kind := .peer, id := src } 5] = (true, u) → exec (.keeperFlag src ep count addr size data) s = .next u) ∧
    (count ≤ n → exec (.keeperClear src ep count) s = .next (setKeeper { s with keeperHeld := s.keeperHeld.erase clear } src zero)) ∧
    (n < count → clear ∉ s.keeperHeld → exec (.keeperClear src ep count) s = .next { s with keeperHeld := s.keeperHeld ++ [clear] })) ∧
  (∀ s src ep f, s.keeperHeld.find? (fun f => f.src == src && f.epoch == ep && decide ((keeperOf s src).applied ep < f.count)) = some f →
    ∃ u, exec (.keeperTimeout src ep) s = .next u ∧ u.keeperHeld = s.keeperHeld.erase f ∧ (keeperOf u src).failed = true ∧ SameMemory s u) ∧
  (∀ s src, (keeperOf s src).failed = true → exec (.keeperEntryFree src) s = .next (setKeeper s src {})) ∧
  (∀ s k q w n p l, s.packets.find? (fun x => x.id == q.id && x.wave == k) = some q → q.wave = k → q.pend = some n → waveAt s k = some w →
    isPend w.pend n p (.packets l) → ∃ u, exec (.remoteAck k q.id false) s = .next u ∧ (∀ x ∈ u.packets, x.id ≠ q.id) ∧ SameMemory s u ∧
      (l.filter (fun i => i != q.id) = [] → Ended s u k n) ∧
      (l.filter (fun i => i != q.id) ≠ [] → ∃ y p', waveAt u k = some y ∧ isPend y.pend n p' (.packets (l.filter (fun i => i != q.id)))))


/-- `srd` reads each special register, LK lane by lane; `swr` writes LK, PQUANT and TVEC and clears bits of CBM; `erd` reads the trap record
and the context's records in its core's bank, and raises 0x1C2 for any other index (R412, R413). -/
def Obligations.SpecialRegisters : Prop :=
  (∀ s k w (t : TOp), WordReady s k w 0x340 t →
    (opndIx t.a = 0x43 → w.comp = none →
      Retires s (applyOut s k { vecs := vecOut 64 (opndIx t.d) ((activeLanes w).map (fun l => (l, ((w.lk.toList[l]?).getD 0).toNat))) tagE }) k (.srd t)) ∧
    (∀ p ∈ specialValues s w t.opmod.toNat, opndIx t.a = p.1 → Retires s (applyOut s k { scas := [(opndIx t.d, p.2)] }) k (.srd t))) ∧
  (∀ s k w (t : TOp), WordReady s k w 0x341 t →
    let v := waveView s k w
    let x := srcBits v t .b64 t.b v.once
    (opndIx t.a = 0x43 → w.comp = none → ∃ u y, exec (.swr t) s = .next u ∧ OnlyWave s u k y ∧ y = ({ w with lk := y.lk } : Wave).retireAt s.time ∧
      ∀ l, (h : l < 32) → y.lk[l] = if bitOf w.exec l then BitVec.ofNat 64 (srcBits v t .b64 t.b l) else w.lk[l]) ∧
    (opndIx t.a = 0x44 → Retires s (setWave s k { w with pquant := BitVec.ofNat 16 x }) k (.swr t)) ∧
    (opndIx t.a = 0x46 → Retires s (setWave s k { w with cbm := w.cbm &&& ~~~ (BitVec.ofNat 512 (x * 2 ^ (64 * t.opmod.toNat))) }) k (.swr t)) ∧
    (opndIx t.a = 0x47 → Retires s (setWave s k { w with tvec := BitVec.ofNat 64 (x / 4 * 4) }) k (.swr t))) ∧
  (∀ s k w (t : TOp), WordReady s k w 0x345 t →
    let i := waveSca w t t.a
    let puts := fun x => Retires s (applyOut s k { scas := [(opndIx t.d, x)] }) k (.erd t)
    (i = 0 → puts w.trec0.toNat) ∧ (i = 1 → puts w.trec1.toNat) ∧ (i = 2 → puts w.trec2.toNat) ∧
    (0x1000 ≤ i → i ≤ 0x1FFF → puts (match (s.banks.look [] (coreOf k)).find? (fun r => r.slot == (i - 0x1000) / 4) with
      | some r => if r.ctx = ctxOf s w then (match (i - 0x1000) % 4 with
          | 0 => 2 ^ 63 + r.sev * 2 ^ 61 + (if r.addr = none then 0 else 2 ^ 60) + (if r.ovf then 2 ^ 59 else 0) + r.unit * 2 ^ 48 +
              r.unitIx * 2 ^ 32 + r.ctx * 2 ^ 16 + r.code
          | 1 => r.addr.getD 0
          | 2 => r.synd.toNat
          | _ => r.die * 2 ^ 56 + r.at_ % 2 ^ 56) else 0
      | none => 0)) ∧
    (3 ≤ i → i < 0x1000 ∨ 0x1FFF < i → Raises s k (.erd t) { cause := 0x1C2 }))

/-- `eret` resumes what its TRAP entry names, or enters the handler again for the lowest cause held in CBM, and traps without an entry; with
`.skip` it resumes past the word; `brk` and `hlt` trap, stop for the debugger or end the wave (R408, R414, R415). -/
def Obligations.TrapReturn : Prop :=
  (∀ s k w (t : TOp) a p c m r, WordReady s k w 0x342 t → w.stack = .trap a p c m :: r → w.spilled ≤ r.length → w.comp = none →
    (w.cbm = 0 → ∃ u, exec (.eret t) s = .next u ∧ OnlyWave s u k
      { (w.retireAt s.time) with stack := r, exec := m &&& liveMask w r, pidx := w.trec2.toNat, pcHdr := a, pcPos := p, clause := none }) ∧
    (∀ n, n < 512 → bitOf w.cbm n = true → (∀ j, j < n → bitOf w.cbm j = false) → ∀ i ∈ [Instr.eret t, .eretSkip t],
      ∃ u, exec i s = .next u ∧ OnlyWave s u k
        { (w.retireAt s.time) with stack := .trap a p n m :: r, cbm := w.cbm &&& ~~~ (BitVec.ofNat 512 (2 ^ n)), tcause := tcauseWord n 0 1 0, trec0 := 0, trec1 := 0, exec := ~~~ w.exited, pcHdr := w.tvec, pcPos := 0, clause := none }) ∧
    (∀ s1 h, w.cbm = 0 → w.inj = [] → fetchWord s k (ctxOf s w) a.toNat 9100 = (s1, some h) →
      ∃ u y, exec (.eretSkip t) s = .next u ∧ waveAt u k = some y ∧ SameMemory s u ∧ y.stack = r ∧ y.exec = m &&& liveMask w r ∧ y.pidx = 0 ∧
        (y.pcHdr, y.pcPos) = if p = 0 ∨ hdrCount h ≤ p then (a + BitVec.ofNat 64 (4 * (hdrCount h + 1)), 0) else (a, p + 1))) ∧
  (∀ s k w (t : TOp), WordReady s k w 0x342 t → w.stack = [] ∨ w.spilled < w.stack.length → (∀ a p c m r, w.stack ≠ .trap a p c m :: r) →
    Raises s k (.eret t) { cause := 0x1C0 } ∧ Raises s k (.eretSkip t) { cause := 0x1C0 }) ∧
  (∀ s k w (t : TOp), WordReady s k w 0x343 t →
    let code := t.imm.toNat % 2 ^ 16
    let armed := s.sys.dbg = 2 ∧ ∃ b, blockAt s w.block = some b ∧ b.launch ∈ s.sys.armed
    (armed → ∃ u, exec (.brk t) s = .next u ∧ OnlyWave s u k { (w.retireAt s.time) with hold := .brk code w.prov }) ∧
    (¬ armed → Raises s k (.brk t) { cause := 0x1C1, detail := code, next := true } ∧
      ∀ c, MayTrap s w c → ∃ u y, exec (.brk t) s = .next u ∧ OnlyWave s u k y ∧
        InTrap w y (c.addr + BitVec.ofNat 64 (4 * (hdrCount c.hdr + 1))) 0 0x1C1 c.pos code)) ∧
  (∀ s k w (t : TOp) b, WordReady s k w 0x348 t → blockAt s w.block = some b →
    (s.sys.dbg = 2 → ∃ u, exec (.hlt t) s = .next u ∧ waveAt u k = some { (w.retireAt s.time) with hold := .halted } ∧
      blockAt u w.block = some { b with halted := true } ∧ SameMemory s u) ∧
    (s.sys.dbg ≠ 2 → w.comp = none → ∃ u, exec (.hlt t) s = .next u ∧ waveAt u k = some (w.retireAt s.time).endAll ∧ SameMemory s u ∧
      ∀ l, launchAt s b.launch = some l → ∃ x, launchAt u b.launch = some x ∧ x.status = (if l.status = 2 then 2 else 1) ∧
        x.err = some (l.err.getD { cls := 3, unit := 1, unitIx := w.block / 64, addr := w.pcValue, tprov := w.prov, num := w.block % 64 }))) ∧
  (∀ s (d : DebugGo) w n x, s.sys.anchorLost = false → waveAt s d.wave = some w → w.hold = .brk n x → exec (.debuggerRelease d) s =
    .next (d.writes.foldl (debugWrite d.wave) (setWave s d.wave { w with hold := .no }))) ∧
  (∀ s k w i v, waveAt s k = some w → w.comp = none → debugWrite k s (.scalar i v) = setWave s k (w.writeSca i v)) ∧
  (∀ s k w b, s.sys.anchorLost = false → waveAt s k = some w → w.hold = .halted → blockAt s w.block = some b → Tab.wf none s.waves = true →
    ∃ u, exec (.debuggerRelease { wave := k }) s = .next u ∧ SameMemory s u ∧ blockAt u w.block = some { b with halted := false } ∧
      ∀ j x, waveAt s j = some x → waveAt u j = some (if x.block = w.block ∧ x.hold = .halted then { x with hold := .no } else x)) ∧
  (∀ s l, s.sys.anchorLost = false → (s.sys.dbg = 2 → exec (.breakpointArm l true) s = .next { s with sys := { s.sys with armed := l :: s.sys.armed.filter (fun x => x != l) } }) ∧
    exec (.breakpointArm l false) s = .next { s with sys := { s.sys with armed := s.sys.armed.filter (fun x => x != l) } })

/-- `tlbi` waits for the wave's stores and for the accesses that used a removed translation, then removes the context's from every TLB; a walk
installs its result; `ctxs` and `ctxr` work in handler mode on an aligned record that fits the wave (R302, R303, R420, R421). -/
def Obligations.TranslationsAndRecords : Prop :=
  (∀ s k w (t : TOp), WordReady s k w 0x344 t →
    let ctx := ctxOf s w
    let a := waveSca w t t.a
    let b := waveSca w t t.b
    ∀ p ∈ [(Instr.tlbiCtx t, true, none), (.tlbiPage t, false, some (a / 65536, 1)), (.tlbiRange t, false, if 2 ^ 32 ≤ b then none else some (a / 65536, b))],
      (p.2.1 = false → 2 ^ 56 ≤ a → Raises s k p.1 { cause := 0x081, addr := a }) ∧
      (p.2.1 = true ∨ a < 2 ^ 56 → fenceBusy w.pend 2 4 = false → tlbiBusy s ctx p.2.2 = false →
        Retires s (tlbiDrop s ctx p.2.2) k p.1)) ∧
  (∀ s ctx set, let u := tlbiDrop s ctx set
    SameMemory s u ∧ (∀ c, (u.core c).tlb = (s.core c).tlb.filter (fun e => !tlbiHits ctx set e)) ∧
    (∀ d, (u.die d).tlb = (s.die d).tlb.filter (fun e => !tlbiHits ctx set e)) ∧
    ∀ e p n, (tlbiHits ctx none e = true ↔ e.ctx = ctx) ∧
      (0 < e.pages → (tlbiHits ctx (some (p, n)) e = true ↔ e.ctx = ctx ∧ ∃ q, e.vpage ≤ q ∧ q < e.vpage + e.pages ∧ p ≤ q ∧ q < p + n))) ∧
  (∀ s c va ctx, (s.core c).ctx = some ctx →
    (∀ x, walk s ctx (va.toNat % 2 ^ 56) = .ok x → extentDetail s x.pa = none →
      exec (.tlbWalk c va) s = .next (tlbInstall s c ctx (va.toNat % 2 ^ 56) x true)) ∧
    (∀ e, walk s ctx (va.toNat % 2 ^ 56) = .error e → exec (.tlbWalk c va) s = .next s)) ∧
  (∀ s k w (t : TOp), w.inHandler = false → (WordReady s k w 0x346 t → Raises s k (.ctxs t) { cause := 0x1C0 }) ∧
    (WordReady s k w 0x347 t → Raises s k (.ctxr t) { cause := 0x1C0 })) ∧
  (∀ s k w (t : TOp) s1 ls s2, WordReady s k w 0x346 t → recordLocs t true s k w = (s1, .ok ls) → recordBusy s1 k w ls = false → scalarParity w = none →
    needSnoop s1 (partAddrs [{ lane := 0, locs := ls, data := 0 }]) = none → each (fun s n => spillReg s k n) s1 (residentRegs w) = .ok s2 →
    Retires s (escape (storeBytes s2 (agWave k) (coreOf k) (ctxOf s2 w) { rels := (sightOf s2 (agWave k)).marks } [ls.zip (recordBytes s2 w)])
      w.block) k (.ctxs t)) ∧
  (∀ s k w (t : TOp) s1 ls s2 bs, WordReady s k w 0x347 t → recordLocs t false s k w = (s1, .ok ls) → recordBusy s1 k w ls = false →
    homeLoad s1 (agWave k) ls 50000 = (s2, bs, false) →
    (recordFits s2 w bs = false → Raises s k (.ctxr t) { cause := 0x1C3 }) ∧
    (∀ u, recordFits s2 w bs = true → each (fun s n => refillReg s k n) (setWave s2 k (w.fromRecord bs)) (residentRegs w) = .ok u →
      Retires s u k (.ctxr t))) ∧
  (∀ (w : Wave) bs,
    (∀ n, n < 64 → (w.fromRecord bs).sregs.look 0 n = BitVec.ofNat 64 (natAt bs (0x200 + 8 * n) 8)) ∧
    (∀ n, 1 ≤ n → n < 8 → (w.fromRecord bs).mregs.look 0 n = BitVec.ofNat 32 (natAt bs (0x60 + 4 * n) 4)) ∧
    (∀ l, (h : l < 32) → (w.fromRecord bs).lk[l] = BitVec.ofNat 64 (natAt bs (0x100 + 8 * l) 8)) ∧
    (w.fromRecord bs).pquant = BitVec.ofNat 16 (natAt bs 0x20 2) ∧ (w.fromRecord bs).tvec = BitVec.ofNat 64 (natAt bs 0x28 8 / 4 * 4) ∧
    (w.fromRecord bs).vregs = w.vregs ∧ (w.fromRecord bs).exec = w.exec ∧ (w.fromRecord bs).stack = w.stack ∧ (w.fromRecord bs).pend = w.pend)

/-- The start of a clause: its flags become pending, its WAIT flags hold it, and a fetch or decode failure is taken at its header; the switch of
paths after a quantum; the answer to private growth; ageing; the end of a block (R38 to R40, R120, R129, R273, R444). -/
def Sys2Proof.Claims.WaveEvents : Prop :=
  (∀ s k w s1 c, AtBoundary s k w → mayStart s w = true → w.pcPos = 0 → fetchClause s k w w.pcHdr = (s1, c, none) →
    ((∃ f ∈ hdrWait c.hdr, w.flagPending f = true) →
      ∃ u, exec (.clauseStart (.wave k)) s = .next u ∧ OnlyWave s1 u k { w with clause := some c, oldWords := [], fenced := ((waveAt s1 k).getD w).fenced }) ∧
    ((∀ f ∈ hdrWait c.hdr, w.flagPending f = false) → (∀ d ∈ w.deferred, ∀ f, d.flag = some f → f ∉ hdrWait c.hdr) → c.words ≠ [] →
      ∃ u y, exec (.clauseStart (.wave k)) s = .next u ∧ OnlyWave (if hdrWait c.hdr = [] then s1 else joinEngines s1 (agWave k)) u k y ∧
        y = { w with flagOpen := y.flagOpen, clause := some { c with pos := 1 }, pcPos := 1, yielded := false, oldWords := []
                     fenced := ((waveAt s1 k).getD w).fenced } ∧
        ∀ f, y.flagOpen.look 0 f = w.flagOpen.look 0 f + (if f ∈ hdrFlags c.hdr then 1 else 0))) ∧
  (∀ s k w s1 c cause pos, AtBoundary s k w → mayStart s w = true → fetchClause s k w w.pcHdr = (s1, c, some (cause, pos)) →
    (w.inHandler = false → w.comp = none → w.tvec ≠ 0 → StackRoom s w 1 → ∃ u y, exec (.clauseStart (.wave k)) s = .next u ∧
      OnlyWave s1 u k y ∧ InTrap w y w.pcHdr 0 cause pos 0)) ∧
  (∀ s k w a p m b q n j tm em r, AtBoundary s k w → w.pcPos = 0 → pathQuantum w ≤ w.count →
    (w.stack = .path b q n false :: .path a p m true :: .reconv j tm em :: r →
      exec (.pathSwitch k) s = .next (setWave s k
        { w with stack := .path b q n true :: .path w.pcHdr 0 m false :: .reconv j tm em :: r, exec := n, pcHdr := b, pcPos := q, count := 0 })) ∧
    (w.stack = .path b q n true :: .path a p m false :: .reconv j tm em :: r →
      exec (.pathSwitch k) s = .next (setWave s k
        { w with stack := .path w.pcHdr 0 n false :: .path a p m true :: .reconv j tm em :: r, exec := m, pcHdr := a, pcPos := p, count := 0 }))) ∧
  (∀ s k w e, waveAt s k = some w → w.hold = .growth e →
    exec (.privateGrowthResolved k true) s = .next (setWave s k { w with hold := .no }) ∧
    exec (.privateGrowthResolved k false) s = .next (trapWord (setWave s k { w with hold := .no }) k e)) ∧
  (∀ s k w e r kept c, waveAt s k = some w → w.hold = .entryGrowth e r kept c →
    exec (.privateGrowthResolved k true) s = .next (enterTrap (setWave s k { w with hold := .no }) k e r kept c) ∧
    exec (.privateGrowthResolved k false) s = .next (killBlock (setWave s k { w with hold := .no }) w.block 2 w.pcValue 0x082 r.prov)) ∧
  (∀ s k w, waveAt s k = some w → w.ended = false → w.hold = .no →
    (w.issuedAt + 2048 ≤ s.time → exec (.issueAgePromote k) s = .next (setWave s k { w with aged := true })) ∧
    (s.time < w.issuedAt + 2048 → exec (.issueAgePromote k) s = .next s)) ∧
  (∀ s b x l, blockAt s b = some x → wavesOf s b = [] → x.mailbox = [] → blockBusy s b = false → launchAt s x.launch = some l →
    (x.killed = true ∨ x.last = true ∧ ∀ n ∈ x.spawned, n ∈ x.gone) → EventRoom s (b / 64) →
    ∃ u, exec (.blockFinish b) s = .next u ∧ blockAt u b = none ∧ SameMemory s u ∧
      launchAt u x.launch = some { l with toEnd := l.toEnd - (1 + x.withdrawn.length) } ∧
      (coxAt u (b / 64)).events = (coxAt s (b / 64)).events ++ [(eventHdr 5 0 (b % 64) x.spawned.length, 0)])

/-- `brd.cmp` holds its wave at the block's meeting, which closes once every other wave lets it or in time; a compacted wave, and one that
comes after a meeting at its address has closed, branch as `brd`; a compacted wave's lanes are threads of their own lane in a home wave
(R132, R133). -/
def Sys2Proof.Claims.Compaction : Prop :=
  (∀ s k w b i m, WaveTurn s k w → Clear s k w { reads := [.m m.toNat] } → blockAt s w.block = some b → w.num ∉ b.meeting →
    let late := (w.num, w.hdrAddr)
    (w.comp ≠ none → exec (.brdCmp i m) s = exec (.brd i m) s) ∧
    (w.comp = none → late ∈ b.missed → StackRoom s w 3 →
      exec (.brdCmp i m) s = exec (.brd i m) (setBlock s w.block { b with missed := b.missed.filter (fun p => p != late) })) ∧
    (w.comp = none → late ∉ b.missed → b.shut = true → exec (.brdCmp i m) s = .next s) ∧
    (w.comp = none → late ∉ b.missed → b.shut = false →
      let b1 := { b with meeting := b.meeting ++ [w.num] }
      let s1 := setBlock (setWave s k { w with hold := .meeting }) w.block b1
      let met := fun p => meetingDone s1 b1 p.1 p.2 = true
      ((∃ p ∈ wavesOf s1 w.block, ¬ met p) → exec (.brdCmp i m) s = .next s1) ∧
      ((∀ p ∈ wavesOf s1 w.block, met p) → meetingQuiet s1 w.block b1 = true → exec (.brdCmp i m) s = .next (closeMeeting s1 w.block)) ∧
      ((∀ p ∈ wavesOf s1 w.block, met p) → meetingQuiet s1 w.block b1 = false →
        exec (.brdCmp i m) s = .next (modBlock (noteMissed s1 w.block) w.block (fun x => { x with shut := true }))))) ∧
  (∀ s b x, blockAt s b = some x → x.meeting ≠ [] →
    (meetingQuiet s b x = true → exec (.compactionMeetingTimeout b) s = .next (closeMeeting s b)) ∧
    (meetingQuiet s b x = false → x.shut = false →
      exec (.compactionMeetingTimeout b) s = .next (modBlock (noteMissed s b) b (fun x => { x with shut := true })))) ∧
  (∀ homes path taken tgt, ∀ c ∈ compactPath homes path taken tgt, c.addr = tgt ∧ c.taken = taken ∧ ∀ l, (hl : l < 32) →
    bitOf c.mask l = (c.homes[l]).isSome ∧ ∀ h, c.homes[l] = some h → ∃ x, (h, x) ∈ path ∧ bitOf x l = true) ∧
  (∀ homes path taken tgt h x l, (h, x) ∈ path → l < 32 → bitOf x l = true →
    ∃ c ∈ compactPath homes path taken tgt, (c.homes.toList[l]?).join = some h)


/-- The crossbar words: an array is owned and released, a record is queued for an array that the context owns and has programmed, `xstat`
reports, `xfix` accepts a bound, `xbnd` reads a tag; each check raises its cause (R252 to R255, R257, R258, R260). -/
def Obligations.CrossbarWords : Prop :=
  (∀ s k w (t : TOp), WordReady s k w 0x200 t →
    let av := waveSca w t t.a
    let a := xarr s (coreOf k) av
    (2 ≤ av → Raises s k (.xown t) { cause := 0x113 }) ∧
    (av < 2 → Owns a (ctxOf s w) → Retires s s k (.xown t)) ∧
    (av < 2 → a.owner = some (ctxOf s w) → ¬ Owns a (ctxOf s w) → exec (.xown t) s = .next s) ∧
    (av < 2 → ∀ o, a.owner = some o → o ≠ ctxOf s w → Raises s k (.xown t) { cause := 0x110 }) ∧
    (av < 2 → a.owner = none → Retires s (setXarr s (coreOf k) av
      { a with owner := some (ctxOf s w), state := .empty, drift := 0, dreg := 0, derr := 0, dref := 0 }) k (.xown t))) ∧
  (∀ s k w (t : TOp), WordReady s k w 0x201 t →
    let av := waveSca w t t.a
    let a := xarr s (coreOf k) av
    (2 ≤ av → Raises s k (.xrel t) { cause := 0x113 }) ∧
    (av < 2 → ¬ Owns a (ctxOf s w) → Raises s k (.xrel t) { cause := 0x111 }) ∧
    (av < 2 → Owns a (ctxOf s w) → Retires s { setXarr s (coreOf k) av
      { a with queue := a.queue ++ [{ id := s.nextId, wave := k, pend := 0, work := .xrel }] } with nextId := s.nextId + 1 } k (.xrel t))) ∧
  (∀ s k w (t : TOp),
    let av := waveSca w t t.a
    let img := waveSca w t t.b
    (WordReady s k w 0x202 t →
      AsksArray s k w t (.xprog t) av (img % 64 != 0) false (fun a => { a with state := .programming }) [] (.xprog (BitVec.ofNat 64 img))) ∧
    (WordReady s k w 0x203 t →
      AsksArray s k w t (.xverify t) av (img % 64 != 0) true id (opndRegs w 1 t.d) (.xverify (BitVec.ofNat 64 img) (opndIx t.d))) ∧
    (WordReady s k w 0x206 t → AsksArray s k w t (.xcal t) av false true id [] .xcal) ∧
    (WordReady s k w 0x207 t → AsksArray s k w t (.xref t) av false true id (opndRegs w 1 t.d) (.xref (w.phys (opndIx t.d))))) ∧
  (∀ s k w (t : TOp),
    let v := waveView s k w
    let av := waveSca w t t.b
    let sh := waveSca w t t.c
    let d := opndIx t.d
    let i := opndIx t.a
    let dst := (List.range 8).map (fun j => w.phys (d + j))
    let a := xarr s (coreOf k) av
    let inputs := (List.range 512).map (fun r => (BitVec.ofNat 8 (v.vec (i + r / 128) (r % 128 / 4) / 256 ^ (r % 4))).toInt)
    let poison := ∃ j, j < 8 ∧ tagIsP (v.tag (d + j)) = true
    (WaveTurn s k w → Clear s k w (productGate { t with c := .k 0 } false w) →
      (i + 4 ≤ w.bud → d + 8 ≤ w.bud → AsksArray s k w t (.xmv t) av false true id (dst.map .v) (.xmv inputs dst d)) ∧
      (av < 2 → Owns a (ctxOf s w) → a.state ≠ .empty → a.state ≠ .failed → w.bud < i + 4 ∨ w.bud < d + 8 →
        Raises s k (.xmv t) { cause := 0x114 })) ∧
    (WaveTurn s k w → Clear s k w (productGate t true w) →
      (i + 4 ≤ w.bud → d + 8 ≤ w.bud → ¬ poison → AsksArray s k w t (.xmva t) av (decide (16 ≤ sh)) true id (dst.map .v)
        (.xmva inputs ((List.range 8).map (fun j => Vector.ofFn (fun l => BitVec.ofNat 32 (v.vec (d + j) l.val))))
          ((List.range 8).map (fun j => v.tag (d + j))) sh dst d)))) ∧
  (∀ s k w (t : TOp), WordReady s k w 0x208 t →
    let av := waveSca w t t.a
    let a := xarr s (coreOf k) (av % 2)
    (4 ≤ av → Raises s k (.xstat t) { cause := 0x113 }) ∧
    (av < 4 → ¬ Owns a (ctxOf s w) → Raises s k (.xstat t) { cause := 0x111 }) ∧
    (av < 4 → Owns a (ctxOf s w) → Retires s (writeScaAt s k (opndIx t.d)
      (if av < 2 then a.state.code + queued a * 2 ^ 6 + a.sh * 2 ^ 10 + a.err * 2 ^ 16 + a.drift * 2 ^ 24 + a.pcount * 2 ^ 32 + a.tempc.toNat * 2 ^ 48
        else a.dreg + a.derr * 2 ^ 8 + a.dref * 2 ^ 16)) k (.xstat t))) ∧
  (∀ s k w (t : TOp), w.comp = none →
    (WordReady s k w 0x209 t → ∃ u y, exec (.xfix t) s = .next u ∧ OnlyWave s u k y ∧
      y = { w with vregs := y.vregs, vtags := y.vtags, parity := y.parity, freshPoison := y.freshPoison }.retireAt s.time ∧
      y.vtags.look 0 (w.phys (opndIx t.d)) = tagE ∧
      (∀ l, l < 32 → vecLane y (w.phys (opndIx t.d)) l = vecLane w (w.phys (opndIx t.a)) l) ∧
      ∀ q, q ≠ w.phys (opndIx t.d) → y.vregs.look (Vector.replicate 32 0) q = w.vregs.look (Vector.replicate 32 0) q ∧
        y.vtags.look 0 q = w.vtags.look 0 q) ∧
    (WordReady s k w 0x20A t → Retires s (writeScaAt s k (opndIx t.d) ((waveView s k w).tag (opndIx t.a)).toNat) k (.xbnd t)))

/-- What an array does: a release takes effect in order; programming writes the image's weights; a product delivers each column within its
bound and digitised, and a drift is reported; calibration and reference products (R246, R247, R252 to R257). -/
def Obligations.CrossbarEvents : Prop :=
  (∀ s c x r, AtHead s c x r .xrel → exec (.xrelTakesEffect c x) s = .next (setXarr s c x
    { xarr s c x with queue := (xarr s c x).queue.drop 1, owner := none, state := .empty })) ∧
  (∀ s c x r img miss ok temp s1 sh crc ws,
    let a := xarr s c x
    AtHead s c x r (.xprog img) → forkReady s r.wave r.pend = true → readWeights s c (a.owner.getD 0xFFFF) img.toNat = (s1, .ok (sh, crc, ws)) →
    (∀ q, a.prog ≤ q → q < 512 → rowBad ws q = false ∧ miss ≠ some q) →
    ∃ u, exec (.xprogComplete c x miss ok temp) s = .next u ∧ Ended s1 u r.wave r.pend ∧ SameMemory s1 u ∧
      let b := xarr u c x
      b.queue = (if ok then a.queue.drop 1 else failedBehind (a.queue.drop 1)) ∧ b.owner = a.owner ∧ b.image = img ∧ b.icrc = BitVec.ofNat 32 crc ∧ b.sh = sh ∧ b.tempc = temp ∧ b.drift = 0 ∧
      b.calibrated = true ∧ b.pcount = min 65535 (a.pcount + 1) ∧ (ok = true → b.state = .ready) ∧ (ok = false → b.state = .failed ∧ b.err = 6) ∧
      (a.prog = 0 → ∀ q, q < 131072 → b.cells.look 0 q = weightAt ws (q / 256) (q % 256))) ∧
  (∀ s c x r img d s1 sh crc ws w,
    let a := xarr s c x
    AtHead s c x r (.xverify img d) → forkReady s r.wave r.pend = true → readWeights s c (a.owner.getD 0xFFFF) img.toNat = (s1, .ok (sh, crc, ws)) →
    waveAt s r.wave = some w → w.comp = none →
    ∃ u y, exec (.xverifyComplete c x) s = .next u ∧ Ended s1 u r.wave r.pend ∧ SameMemory s1 u ∧ waveAt u r.wave = some y ∧
      xarr u c x = { a with queue := a.queue.drop 1 } ∧
      y.sregs.look 0 d = BitVec.ofNat 64 ((List.range 131072).countP (fun q => a.cells.look 0 q != weightAt ws (q / 256) (q % 256)))) ∧
  (∀ (a : XArr) x col delta,
    let e := exactCol a x col
    let b : Int := if a.calibrated then 4 else 8
    ∃ y, (y * 2 ^ a.sh - e).natAbs ≤ b * 2 ^ a.sh ∧
      column a x false col delta = (max (-32768) (min 32767 y), decide (y < -32768 ∨ 32767 < y))) ∧
  (∀ s c x r work xs acc dst dreg delta meas w,
    let a := xarr s c x
    let sums := (acc : Option (List (Vector Word 32) × List Byte × Nat))
    (work, sums) ∈ [(XWork.xmv xs dst dreg, none)] ∨ (∃ vs ts sh, sums = some (vs, ts, sh) ∧ work = .xmva xs vs ts sh dst dreg) →
    AtHead s c x r work → r.failed = false → waveAt s r.wave = some w → opHomes s r.wave r.pend = [] →
    dst.Nodup → dst.length = 8 → xs.length = 512 →
    (∀ j, j < 8 → ∃ e, RefExpects a.sh xs j e ∧ (meas.getD j 0 - e).natAbs ≤ 8) →
    let ys := fun col => column a xs false col (delta.getD col 0)
    let lane := fun j l => productLane (fun q => (ys q).1) (sums.map (fun p => (p.1.getD j (Vector.replicate 32 0), p.2.2))) j l
    ∃ u y, exec (.xmvComplete c x delta meas) s = .next u ∧ waveAt u r.wave = some y ∧ SameMemory s u ∧
      y.pend = (w.endPend r.pend).pend ∧ y.flagCnt = (w.endPend r.pend).flagCnt ∧
      xarr u c x = { a with queue := a.queue.drop 1, calibrated := false } ∧
      ∀ j p, dst[j]? = some p → (∀ l, l < 32 → vecLane y p l = (BitVec.ofInt 32 (clamp32 (lane j l))).toNat) ∧
        y.vtags.look 0 p = (if ∃ l, l < 32 ∧ ((ys (32 * j + l)).2 = true ∨ clamp32 (lane j l) ≠ lane j l) then tagP
          else boundTag (match sums with
            | none => ⟨8, 0⟩
            | some (_, ts, sh) => (tagBound (ts.getD j tagE)).add ⟨8, sh⟩))) ∧
  (∀ s c x r xs dst dreg delta meas w j0 (errs : List Int),
    let a := xarr s c x
    AtHead s c x r (.xmv xs dst dreg) → r.failed = false → waveAt s r.wave = some w → opHomes s r.wave r.pend = [] →
    dst.Nodup → dst.length = 8 → xs.length = 512 → j0 < 8 →
    (∀ j, j < 8 → ∃ e, RefExpects a.sh xs j e ∧ errs.getD j 0 = meas.getD j 0 - e) → 8 < (errs.getD j0 0).natAbs →
    (∀ j, j < 8 → (errs.getD j 0).natAbs ≤ (errs.getD j0 0).natAbs ∧ (j < j0 → (errs.getD j 0).natAbs < (errs.getD j0 0).natAbs)) →
    ∃ u y, exec (.xmvComplete c x delta meas) s = .next u ∧ waveAt u r.wave = some y ∧ (∀ p ∈ dst, y.vtags.look 0 p = tagP) ∧
      (∃ d ∈ y.deferred, d.cause = 0x115 ∧ d.detail = x ∧ d.run = dst.map w.unphys ∧ d.cls = .xbar) ∧
      (xarr u c x).drift = min 255 (a.drift + 1) ∧ (xarr u c x).dreg = dreg ∧ (xarr u c x).dref = j0 ∧
      (xarr u c x).derr = min 255 (errs.getD j0 0).natAbs) ∧
  (∀ s c x r ok temp,
    let a := xarr s c x
    AtHead s c x r .xcal → r.failed = false → ∃ u, exec (.xcalComplete c x ok temp) s = .next u ∧ Ended s u r.wave r.pend ∧ SameMemory s u ∧
      let b : XArr := { a with queue := a.queue.drop 1, corr := (xarr u c x).corr, tempc := temp, drift := 0, calibrated := true }
      xarr u c x = if ok then b else { b with queue := failedBehind b.queue, state := .failed, err := 6, prog := 0 }) ∧
  (∀ s c x r p meas temp w,
    let a := xarr s c x
    AtHead s c x r (.xref p) → waveAt s r.wave = some w → opHomes s r.wave r.pend = [] →
    ∃ u y, exec (.xrefComplete c x meas temp) s = .next u ∧ waveAt u r.wave = some y ∧ SameMemory s u ∧ y.pend = (w.endPend r.pend).pend ∧
      (r.failed = false → y.vtags.look 0 p = tagE ∧ vecLane y p 8 = (temp.signExtend 32).toNat ∧ (∀ l, 8 < l → l < 32 → vecLane y p l = 0) ∧
        ∀ l, l < 8 → ∃ e, RefExpects a.sh ((List.range 512).map (fun r => if r % 8 < 4 then 64 else 0)) l e ∧
          vecLane y p l = (BitVec.ofInt 32 (meas.getD l 0 - e)).toNat) ∧
      (r.failed = true → y.vtags.look 0 p = tagP ∧ ∀ l, l < 32 → vecLane y p l = 0))


/-- The words of scarabs: rows are opened, closed, read and written; the mask stack; collectives are sent and received; each check faults the
launch (R384, R390 to R396). -/
def Obligations.ScarabWords : Prop :=
  (∀ s k (t : TOp),
    let x := scarabAt s k
    let sum := (scSca s k x t t.a : Int) + t.imm.toInt
    let b := sum.toNat
    ScarabTurn s k (scOpRegs 0x320 t) → ScRoom x t →
    (sum < 0 ∨ 64 ≤ sum → ScFaults s k (.rowact t) 0x161) ∧
    (0 ≤ sum → b < 64 → b ∈ x.open_ → ScRetires s k (.rowact t) x) ∧
    (0 ≤ sum → b < 64 → b ∉ x.open_ → 16 ≤ x.open_.length → ScFaults s k (.rowact t) 0x162) ∧
    (0 ≤ sum → b < 64 → b ∉ x.open_ → x.open_.length < 16 → ScRetires s k (.rowact t) { x with open_ := x.open_ ++ [b] })) ∧
  (∀ s k (t : TOp),
    let x := scarabAt s k
    let b := scSca s k x t t.a
    (ScarabTurn s k (scOpRegs 0x321 t) → ScRoom x t → (64 ≤ b → ScFaults s k (.rowpre t) 0x161) ∧
      (b < 64 → ScRetires s k (.rowpre t) { x with open_ := x.open_.filter (fun o => o != b) })) ∧
    (ScarabTurn s k (scOpRegs 0x322 t) → ScRoom x t →
      (∀ c, rowFault x b t.imm.toNat = some c → ScFaults s k (.rowld t) c) ∧
      (rowFault x b t.imm.toNat = none → x.exec ≠ 0 → ScRetires s k (.rowld t)
        (scWith s k t .mem [.v (opndIx t.d)] (.load (.vec (opndIx t.d) none) (burst s k b t.imm.toNat (fun _ => 0)) 0)))) ∧
    (ScarabTurn s k (scOpRegs 0x323 t) → ScRoom x t →
      (∀ c, rowFault x b t.imm.toNat = some c → ScFaults s k (.rowst t) c) ∧
      (rowFault x b t.imm.toNat = none → x.exec ≠ 0 → ScRetires s k (.rowst t)
        (scWith s k t .mem [] (.store (burst s k b t.imm.toNat (fun l => scLane x (opndIx t.b) l)) none false))))) ∧
  (∀ s k (t : TOp),
    let x := scarabAt s k
    (∀ m, t.a = .m m → ScarabTurn s k (scOpRegs 0x327 t) →
      let y := x.exec &&& (if m = 0 then x.exec else x.mregs.look 0 m.toNat)
      (4 ≤ x.maskStack.length → ScFaults s k (.mif t) 0x164) ∧
      (x.maskStack.length < 4 → ScRetires s k (.mif t)
        { x with maskStack := { saved := x.exec, taken := y, els := false } :: x.maskStack, exec := y })) ∧
    (ScarabTurn s k [] →
      (x.maskStack = [] → ScFaults s k (.melse t) 0x165 ∧ ScFaults s k (.mend t) 0x165) ∧
      (∀ e r, x.maskStack = e :: r →
        (e.els = true → ScFaults s k (.melse t) 0x165) ∧
        (e.els = false → ScRetires s k (.melse t) { x with maskStack := { e with els := true } :: r, exec := e.saved &&& ~~~ e.taken }) ∧
        ScRetires s k (.mend t) { x with maskStack := r, exec := e.saved }))) ∧
  (∀ s k (t : TOp),
    let x := scarabAt s k
    let d := scSca s k x t t.a
    let bad := 2 ^ 25 ≤ d ∨ (d < 2 ^ 24 ∧ d / 2 ^ 16 % 256 ≠ 0) ∨ (2 ^ 24 ≤ d ∧ d / 2 ^ 16 % 256 = s.pkg)
    let words := fun (o : Opnd) => (List.range 64).map (fun l => (BitVec.ofNat 32 (scLane x (opndIx o) l) : Word))
    let recv := fun op other => (scWith s k t .async [.v (opndIx t.d)] (.collRecv (opndIx t.d) (BitVec.ofNat 64 d) x.exec op other))
    (ScarabTurn s k (scOpRegs 0x324 t) → ScRoom x t → (bad → ScFaults s k (.colsend t) 0x166) ∧
      (¬ bad → ScRetires s k (.colsend t) (scWith s k t .async [] (.collSend (BitVec.ofNat 64 d) (words t.b))))) ∧
    (ScarabTurn s k (scOpRegs 0x325 t) → ScRoom x t → (bad → ScFaults s k (.colrecv t) 0x166) ∧
      (¬ bad → exec (.colrecv t) s = .next (retireScarab (takeMessages (setScarab s k (recv none [])) k) k))) ∧
    (ScarabTurn s k (scOpRegs 0x326 t) → ScRoom x t → (bad → ScFaults s k (.colred t) 0x166) ∧
      (¬ bad → exec (.colred t) s =
        .next (retireScarab (takeMessages (setScarab s k (recv (some (t.opmod.toNat % 8, t.fmt)) (words t.b))) k) k)))) ∧
  (∀ s k p d src lanes op other m,
    let x := scarabAt s k
    x.pend = [p] → p.work = .collRecv d src lanes op other → x.msgs.find? (fun m => m.src == src && m.grp == groupOfScarab s x) = some m →
    let y := scarabAt (takeMessages s k) k
    y.pend = [] ∧ y.msgs = x.msgs.erase m ∧ (∀ r, r ≠ d → y.vregs.look (Vector.replicate 64 0) r = x.vregs.look (Vector.replicate 64 0) r) ∧
    ∀ l, l < 64 → scLane y d l = if bitOf lanes l then
      (match op with
        | none => ((m.data[l]?).getD 0).toNat
        | some (o, f) => collCombine o f ((other[l]?).getD 0).toNat ((m.data[l]?).getD 0).toNat) % 2 ^ 32
      else scLane x d l) ∧
  (∀ s k c,
    let x := scarabAt s k
    x.clause = some c → c.words.length = 1 → c.pos = 1 → hdrCount c.hdr = 1 → c.addr = x.pcHdr →
    let goes := fun i (tgt : DWord) => ScRetires s k i { x with pcHdr := tgt, pcPos := 0, clause := none, flagOpen := closeFlags x.flagOpen c.hdr }
    (∀ i, ScarabTurn s k [] → goes (.bra i) (jumpTo x.pcHdr i)) ∧
    (∀ i a, ScarabTurn s k [.s a.toNat] →
      goes (.brsZ i a) (if x.sregs.look 0 a.toNat = 0 then jumpTo x.pcHdr i else x.pcHdr + 8) ∧
      goes (.brsNz i a) (if x.sregs.look 0 a.toNat ≠ 0 then jumpTo x.pcHdr i else x.pcHdr + 8))) ∧
  (∀ s k, ScarabTurn s k [] →
    let x := scarabAt s k
    ScRetires s k .nop x ∧ ScRetires s k .yield x ∧ (x.pend ≠ [] → exec .exit s = .next s) ∧
    (x.pend = [] → ∃ u, exec .exit s = .next u ∧ OnlyScarab s u k { dict := x.dict, cause := x.cause, nextId := x.nextId, msgs := x.msgs }))

/-- The start of a block on the scarabs of a stack, of a scarab's clause, the arrival of messages, their time limits, and the stop of a
launch's scarabs (R383 to R389, R393 to R397). -/
def Obligations.ScarabEvents : Prop :=
  (∀ s l stack x s1 dicts x1,
    launchAt s l = some x → x.state = .posted → x.status = 0 → stack ∉ s.sys.stacksLost →
    loadScarabDict s l x = (s1, some dicts) → launchAt s1 l = some x1 → (x1.rowBlocks.map (·.1)).Nodup →
    ∃ u, exec (.scarabBlockStart l stack) s = .next u ∧ SameMemory s1 u ∧
      (∀ k, k / 16 ≠ stack → scarabAt u k = scarabAt s1 k) ∧
      ∀ c, c < 16 → let k := stack * 16 + c
        let y := scarabAt u k
        (scarabFree s1 k = false ∨ nextRow x1 stack c = none → y = scarabAt s1 k) ∧
        ∀ b row g, scarabFree s1 k = true → nextRow x1 stack c = some (b, stack, row, g) →
        (∀ z, launchAt u l = some z → (b, c) ∈ z.scStarted ∨ ∀ r ∈ z.rowBlocks, r.1 ≠ b) ∧
        y.state = .running ∧ y.launch = l ∧ y.ctx = x.ctx ∧ y.block = b ∧ y.row = row ∧ y.grade = g ∧ y.exec = BitVec.allOnes 64 ∧ y.vregs = [] ∧ y.mregs = [] ∧
        y.maskStack = [] ∧ y.open_ = [] ∧ y.clause = none ∧ y.pcPos = 0 ∧ y.dict = dicts.look [] stack ∧
        y.sregs.look 0 8 = BitVec.ofNat 64 b ∧ y.sregs.look 0 9 = BitVec.ofNat 64 c ∧ y.sregs.look 0 10 = BitVec.ofNat 64 s.pkg ∧
        y.sregs.look 0 11 = BitVec.ofNat 64 stack) ∧
  (∀ s k h ws,
    let x := scarabAt s k
    let c : Clause := { hdr := h, addr := x.pcHdr, words := ws.map (scResolve x), pos := 0, prov := x.pcHdr, inj := false }
    x.state = .running → scarabHeld s k = false → x.clause = none → x.stopping = false → scFetchWord s x.ctx x.pcHdr.toNat = some h →
    scFetchWords s x.ctx (x.pcHdr.toNat + 4) (hdrCount h) = some ws →
    (∀ e, scClauseFault h c.words = some e → exec (.clauseStart (.scarab k)) s = .next (scarabFault s k e)) ∧
    (scClauseFault h c.words = none → (∀ f ∈ hdrWait h, flagPending x.flagCnt x.flagOpen f = false) →
      (∀ d ∈ x.deferred, ∀ f, d.flag = some f → f ∉ hdrWait h) → ws ≠ [] → exec (.clauseStart (.scarab k)) s =
        .next (setScarab s k { x with flagOpen := openFlags x.flagOpen h, clause := some { c with pos := 1 }, pcPos := 1 }))) ∧
  (∀ s dst src grp data released, dst < 256 → bitOf src 24 = true → canPlace s dst grp = true →
    let m : CollMsg := { src := src, grp := grp, data := data.take 64, launch := (scarabAt s dst).launch
                         rels := if released then [relNow s { kind := .peer, id := src.toNat } 6] else [] }
    exec (.collMessageArrive dst (.peer released) src grp data) s =
      .next (takeMessages (setScarab s dst { scarabAt s dst with msgs := (scarabAt s dst).msgs ++ [m] }) dst)) ∧
  (∀ s k n p d words src grp data,
    let x := scarabAt s k
    let g := groupOfScarab s x
    let tgt := d.toNat / 2 ^ 12 % 16 * 16 + d.toNat / 2 ^ 8 % 16
    k / 16 ∉ s.sys.stacksLost → isPend x.pend n p (.collSend d words) → (∀ q ∈ x.pend, ∀ e ws, q.work = .collSend e ws → e.toNat / 256 = d.toNat / 256 → n ≤ q.id) →
    (bitOf d 24 = true → ∀ dst, exec (.collMessageArrive dst (.scarab k n) src grp data) s = .next (setScarab s k (x.endPend n))) ∧
    (bitOf d 24 = false → canPlace s tgt g = true →
      let t := setScarab s k (x.endPend n)
      exec (.collMessageArrive tgt (.scarab k n) src grp data) s = .next (takeMessages (setScarab t tgt { scarabAt t tgt with
        msgs := (scarabAt t tgt).msgs ++ [{ src := BitVec.ofNat 64 (k / 16 * 2 ^ 12 + k % 16 * 2 ^ 8 + d.toNat % 256), grp := g, data := words, rels := p.rels
                                            launch := (scarabAt t tgt).launch }] }) tgt))) ∧
  (∀ s k n p d words,
    let x := scarabAt s k
    let y := scarabAt s (d.toNat / 2 ^ 12 % 16 * 16 + d.toNat / 2 ^ 8 % 16)
    isPend x.pend n p (.collSend d words) → bitOf d 24 = false → y.bound = false ∨ groupOfScarab s y ≠ groupOfScarab s x →
    exec (.collHoldTimeout k n) s = .next (setScarab s k { x.endPend n with deferred := (x.endPend n).deferred ++
      [{ cause := 0x167, detail := 0, regs := [], flag := p.flag, cls := .async }] })) ∧
  (∀ s k p d src lanes op other, (scarabAt s k).state = .running → p ∈ (scarabAt s k).pend → p.work = .collRecv d src lanes op other →
    exec (.colrecvTimeout k) s = .next (scarabFault s k 0x151)) ∧
  (∀ s k cause l,
    let x := scarabAt s k
    launchAt s x.launch = some l → let u := scarabFault s k cause
    (scarabAt u k).state = .stopped ∧ (scarabAt u k).cause = cause ∧ SameMemory s u ∧
    ∃ y, launchAt u x.launch = some y ∧ y.rowBlocks = [] ∧ y.status = (if l.status = 2 then 2 else 1) ∧
      y.err = some (l.err.getD { cls := 9, unit := 7, unitIx := k, addr := x.pcValue, cause := cause })) ∧
  (∀ s l, ∃ u, exec (.scarabFaultStop l) s = .next u ∧ SameMemory s u ∧ ∀ k, k < 256 →
    let x := scarabAt s k
    let stops := x.launch = l ∧ x.stopping = true ∧ x.bound = true ∧ (∀ c, x.clause = some c → c.pos = 0) ∧
      ∀ p ∈ x.pend, ∀ d parts cp tag ap, p.work ≠ .load d parts cp ∧ p.work ≠ .store parts tag ap
    (stops → scarabAt u k = { dict := x.dict, cause := x.cause, nextId := x.nextId, msgs := (x.dropMsgs l).msgs }) ∧ (¬ stops → scarabAt u k = x))


/-- Cox arithmetic: each instruction writes its result to gD and nothing else, g0 discards, and a bit field that leaves the register is illegal
(R76, R85 to R88). -/
def Obligations.CoxArithmetic : Prop :=
  (∀ p ∈ coxSpecs, ∀ s c d a b, CoxTurn s c [a, b] → WritesReg s c (p.1 d a b) d (p.2 (gReg (coxAt s c) a) (gReg (coxAt s c) b))) ∧
  (∀ p ∈ coxImmSpecs, ∀ s c d a i, CoxTurn s c [a] → WritesReg s c (p.1 d a i) d (p.2 (gReg (coxAt s c) a) i)) ∧
  (∀ p ∈ coxShiftSpecs, ∀ s c d a k, CoxTurn s c [a] → WritesReg s c (p.1 d a k) d (p.2 (gReg (coxAt s c) a) k.toNat)) ∧
  (∀ s c d i, CoxTurn s c [] → WritesReg s c (.lui d i) d (i.signExtend 64 <<< 16) ∧
    WritesReg s c (.apc d i) d ((coxAt s c).pc + i.signExtend 64 <<< 16)) ∧
  (∀ s c d a (p l : BitVec 6),
    let x := coxAt s c
    let n := l.toNat + 1
    (64 < p.toNat + n → (CoxTurn s c [a] → CoxFaults s s c (.ext d a p l) 0x180 0 ((coxWordOf (.ext d a p l)).zeroExtend 64)) ∧
      (CoxTurn s c [a, d] → CoxFaults s s c (.ins d a p l) 0x180 0 ((coxWordOf (.ins d a p l)).zeroExtend 64))) ∧
    (p.toNat + n ≤ 64 → (CoxTurn s c [a] → WritesReg s c (.ext d a p l) d (((gReg x a).extractLsb' p.toNat n).zeroExtend 64)) ∧
      (CoxTurn s c [a, d] → WritesReg s c (.ins d a p l) d
        ((gReg x d &&& ~~~ fieldMask 64 p.toNat n) ||| ((gReg x a <<< p.toNat) &&& fieldMask 64 p.toNat n)))))

/-- Cox loads, stores, atomics and fences: local memory at once, global stores through a buffer of 16, releases after it has drained (R77, R89
to R92). -/
def Obligations.CoxMemory : Prop :=
  (∀ p ∈ coxLoads, ∀ s c d a i s1, CoxTurn s c [a] →
    let x := coxAt s c
    let addr := (gReg x a + i.signExtend 64).toNat
    let wait := coxLoadWaits s c x addr p.2.1
    (wait = true → exec (p.1 d a i) s = .next s) ∧
    (∀ v, wait = false → coxLoad s c x addr p.2.1 = (s1, .ok v) → ∃ u y, exec (p.1 d a i) s = .next u ∧ OnlyCox s1 u c y ∧
      y = { coxNext (coxAt s1 c) (x.pc + 4) with gregs := y.gregs, parity := y.parity } ∧
      ∀ r, gReg y r = if r = d ∧ d ≠ 0 then (if p.2.2 then (BitVec.ofNat (8 * p.2.1) v).signExtend 64 else (BitVec.ofNat (8 * p.2.1) v).zeroExtend 64)
        else gReg (coxAt s1 c) r) ∧
    (∀ cause v, wait = false → coxLoad s c x addr p.2.1 = (s1, .error (cause, v)) → CoxFaults s s1 c (p.1 d a i) cause 0 v)) ∧
  (∀ s c x a n write, n ∈ [1, 2, 4, 8] →
    (2 ^ 56 ≤ a → coxAddr s c x a n write = (s, .error (0x183, BitVec.ofNat 64 a))) ∧
    (a < 2 ^ 56 → a % n ≠ 0 → coxAddr s c x a n write = (s, .error (0x182, BitVec.ofNat 64 a))) ∧
    (a < 0x10000 → a % n = 0 → x.lmlim * 4096 < a + n → coxAddr s c x a n write = (s, .error (0x185, BitVec.ofNat 64 a))) ∧
    (a % n = 0 → a + n ≤ x.lmlim * 4096 → a < 0x10000 → coxAddr s c x a n write = (s, .ok (.lm a)) ∧
      coxLoad s c x a n = (s, .ok (((List.range n).map (fun i => (x.lmem.look 0 (a + i)).toNat * 256 ^ i)).sum)))) ∧
  (∀ p ∈ coxStores, ∀ s c b a i s1, CoxTurn s c [a, b] →
    let x := coxAt s c
    let addr := (gReg x a + i.signExtend 64).toNat
    (∀ o, coxAddr s c x addr p.2 true = (s1, .ok (.lm o)) → ∃ u y, exec (p.1 b a i) s = .next u ∧ OnlyCox s1 u c y ∧
      y = { coxNext (coxAt s1 c) (x.pc + 4) with lmem := y.lmem } ∧
      ∀ q, y.lmem.look 0 q = if o ≤ q ∧ q < o + p.2 then BitVec.ofNat 8 ((gReg x b).toNat / 256 ^ (q - o)) else (coxAt s1 c).lmem.look 0 q) ∧
    (∀ ls, coxAddr s c x addr p.2 true = (s1, .ok (.glob ls)) →
      (16 ≤ x.sbuf.length → exec (p.1 b a i) s = .next s1) ∧
      (x.sbuf.length < 16 → ∃ u, exec (p.1 b a i) s = .next u ∧ OnlyCox s1 u c (coxNext { coxAt s1 c with
        sbuf := (coxAt s1 c).sbuf ++ [{ id := x.nextId, flag := none, cls := .mem, dst := [], rels := (sightOf s1 (agCox c)).marks
                                        work := .store [{ lane := 0, locs := ls, data := gReg x b }] none false, port := s1.tick + 1
                                        reqs := sendReqs s1 c (farLines s1 [{ lane := 0, locs := ls, data := gReg x b }]) }]
        nextId := (coxAt s1 c).nextId + 1 } (x.pc + 4)))) ∧
    (∀ cause v, coxAddr s c x addr p.2 true = (s1, .error (cause, v)) → CoxFaults s s1 c (p.1 b a i) cause 0 v)) ∧
  (∀ s c d a b (o : BitVec 4) sc (z : BitVec 1) (r : BitVec 2) s1, CoxTurn s c ([a, b] ++ (if o = 9 then [d] else [])) →
    let x := coxAt s c
    let n := if z = 1 then 8 else 4
    let i := Instr.coxAmo d a b o sc z r
    let w := fun (q : Nat) => (BitVec.ofNat (8 * n) q)
    let new := fun old => coxAtomicNew o.toNat (w old) (w (gReg x b).toNat) (w (gReg x d).toNat)
    (9 < o.toNat ∨ coxScopeOk sc = false → CoxFaults s s c i 0x180 0 ((coxWordOf i).zeroExtend 64)) ∧
    (o.toNat ≤ 9 → coxScopeOk sc = true →
      (∀ cause v, coxAddr s c x (gReg x a).toNat n true true = (s1, .error (cause, v)) → CoxFaults s s1 c i cause 0 v) ∧
      (2 ≤ r.toNat → x.sbuf ≠ [] → ∀ l, coxAddr s c x (gReg x a).toNat n true true = (s1, .ok l) → exec i s = .next s1) ∧
      let rel := decide (2 ≤ r.toNat)
      let t := if rel then releaseWork s1 (agCox c) sc.toNat else s1
      let goes := fun u => exec i s = .next (coxRetire (if r.toNat % 2 = 1 then coxAcquire u c sc.toNat else u) c (x.pc + 4))
      (∀ off, coxAddr s c x (gReg x a).toNat n true true = (s1, .ok (.lm off)) → (2 ≤ r.toNat → x.sbuf = []) →
        ∃ u y, goes u ∧ OnlyCox t u c y ∧
          y = { coxAt s1 c with lmem := y.lmem, gregs := y.gregs, parity := y.parity } ∧
          let old := ((List.range n).map (fun i => (x.lmem.look 0 (off + i)).toNat * 256 ^ i)).sum
          (∀ q, gReg y q = if q = d ∧ d ≠ 0 then (w old).signExtend 64 else gReg (coxAt s1 c) q) ∧
          ∀ q, y.lmem.look 0 q = if off ≤ q ∧ q < off + n then BitVec.ofNat 8 ((new old).toNat / 256 ^ (q - off)) else (coxAt s1 c).lmem.look 0 q) ∧
      (∀ ls s2 wr g s3, coxAddr s c x (gReg x a).toNat n true true = (s1, .ok (.glob ls)) → (2 ≤ r.toNat → x.sbuf = []) →
        olderConflict t x.sbuf x.nextId [{ lane := 0, locs := ls, data := 0 }] = false →
        (c < 256 → portBehind t c none 0 [{ lane := 0, locs := ls, data := 0 }] = false) →
        atomRead t c (coxCtx x) (agCox c) sc.toNat 0 ls = (s2, wr, g) → g.bad = false →
        let me := whoOf s1 (agCox c)
        let own := if rel then [relNow s1 me sc.toNat] else []
        coxStoreNow s2 c x { rels := (sightOf s2 (agCox c)).marks ++ own ++ carried s2 me sc.toNat wr ls, atom := some (me, sc.toNat) }
          [{ lane := 0, locs := ls, data := BitVec.ofNat 64 (new g.val).toNat }] = some s3 →
        goes (setCox s3 c ((coxAt s3 c).setG d ((w g.val).signExtend 64).toNat))))) ∧
  (∀ s c sc (r : BitVec 2), CoxTurn s c [] →
    let x := coxAt s c
    let i := Instr.coxFence sc r
    (r = 0 ∨ coxScopeOk sc = false → CoxFaults s s c i 0x180 0 ((coxWordOf i).zeroExtend 64)) ∧
    (r ≠ 0 → coxScopeOk sc = true → (2 ≤ r.toNat → x.sbuf ≠ [] → exec i s = .next s) ∧
      ((2 ≤ r.toNat → x.sbuf = []) →
        let s1 := if 2 ≤ r.toNat then releaseAt s (agCox c) sc.toNat else s
        exec i s = .next (coxRetire (if r.toNat % 2 = 1 then coxAcquire s1 c sc.toNat else s1) c (x.pc + 4))))) ∧
  (∀ s x a, x.sbuf = [] → forwarded s x a = none)

/-- Cox branches, jumps, CSRs, traps, returns and events; what only a core's cox or only an umpire has is illegal on the other (R80, R81, R84, R93
to R96). -/
def Obligations.CoxControl : Prop :=
  (∀ p ∈ coxBranches, ∀ s c a b i, CoxTurn s c [a, b] →
    let x := coxAt s c
    CoxGoes s c (p.1 a b i) x (if p.2 (gReg x a) (gReg x b) then x.pc + 4 * i.signExtend 64 else x.pc + 4)) ∧
  (∀ s c d i, CoxTurn s c [] → let x := coxAt s c
    CoxGoes s c (.jal d i) (x.setG d (x.pc + 4).toNat) (x.pc + 4 * i.signExtend 64)) ∧
  (∀ s c d a i, CoxTurn s c [a] → let x := coxAt s c
    CoxGoes s c (.jalr d a i) (x.setG d (x.pc + 4).toNat) ((gReg x a + i.signExtend 64) &&& ~~~ 3)) ∧
  (∀ s c d n, CoxTurn s c [] →
    let x := coxAt s c
    (∀ p ∈ csrValues s c x, n.toNat = p.1 → WritesReg s c (.csrr d n) d (BitVec.ofNat 64 p.2)) ∧
    (∀ ctx k, c < 256 → x.ctx = some ctx → contextAt s ctx = some k →
      ∀ p ∈ [(0x020, BitVec.ofNat 64 ctx), (0x021, BitVec.ofNat 64 c), (0x022, k.arena), (0x023, k.arenaSize), (0x025, k.kbase), (0x026, k.args)],
        n.toNat = p.1 → WritesReg s c (.csrr d n) d p.2) ∧
    (∀ u, 256 ≤ c → s.umps.look none (c - 256) = some u →
      ∀ p ∈ [(0x800, if u.active then 1 else 0), (0x801, u.qtab), (0x802, u.jbase), (0x803, u.jsize.zeroExtend 64), (0x804, u.jseq)
          , (0x805, u.quant.zeroExtend 64), (0x806, u.lwindef), (0x807, u.pwindef)], n.toNat = p.1 → WritesReg s c (.csrr d n) d p.2) ∧
    (n.toNat = 0 ∨ 0x809 ≤ n.toNat → CoxFaults s s c (.csrr d n) 0x180 0 ((coxWordOf (.csrr d n)).zeroExtend 64))) ∧
  (∀ s c a n, CoxTurn s c [a] →
    let x := coxAt s c
    (∀ p ∈ csrWritten x (gReg x a), n.toNat = p.1 → CoxGoes s c (.csrw a n) p.2 (x.pc + 4)) ∧
    (∀ u, 256 ≤ c → s.umps.look none (c - 256) = some u →
      let v := gReg x a
      ∀ p ∈ [(0x801, { u with qtab := v }), (0x802, { u with jbase := v }), (0x803, { u with jsize := v.setWidth 32 })
          , (0x805, { u with quant := v.setWidth 32 }), (0x806, { u with lwindef := v }), (0x807, { u with pwindef := v })], n.toNat = p.1 →
        exec (.csrw a n) s = .next (coxRetire { s with umps := s.umps.put none (c - 256) (some p.2) } c (x.pc + 4))) ∧
    (n.toNat = 0 ∨ 0x809 ≤ n.toNat → CoxFaults s s c (.csrw a n) 0x180 0 ((coxWordOf (.csrw a n)).zeroExtend 64))) ∧
  (∀ s c cause detail val,
    let x := coxAt s c
    (x.hm = false → OnlyCox s (coxTrapAt s c cause detail val) c { x with
      xepc := BitVec.ofNat 64 (x.pc.toNat / 4 * 4), xcause := BitVec.ofNat 64 (cause + detail * 2 ^ 16), xval := val, hm := true, pc := x.xvec, wait := .no }) ∧
    (x.hm = true →
      let t := setCox s c { x with stopped := true, wait := .no }
      (x.ctx = none → coxTrapAt s c cause detail val = t) ∧
      ∀ ctx k l, x.ctx = some ctx → contextAt s ctx = some k → launchAt s k.launch = some l →
        (l.state = .completed ∨ launchOver t k.launch l = true → coxTrapAt s c cause detail val = t) ∧
        (l.state ≠ .completed → launchOver t k.launch l = false → coxTrapAt s c cause detail val =
          cancelLaunch (inBand t k.launch { cls := 6, unit := 1, unitIx := c, addr := x.pc, cause := cause }) k.launch))) ∧
  (∀ s c i, CoxTurn s c [] → CoxFaults s s c (.coxTrap i) 0x187 i.toNat 0) ∧
  (∀ s c, CoxTurn s c [] → let x := coxAt s c
    (x.hm = true → CoxGoes s c .coxEret { x with hm := false } x.xepc) ∧
    (x.hm = false → CoxFaults s s c .coxEret 0x180 0 ((coxWordOf .coxEret).zeroExtend 64))) ∧
  (∀ s c a, CoxTurn s c [a] → let x := coxAt s c
    (x.events ≠ [] → CoxGoes s c (.wfe a) x (x.pc + 4)) ∧
    (x.events = [] → exec (.wfe a) s = .next (setCox s c { x with wait := .wfe (gReg x a) }))) ∧
  (∀ s c l, (coxAt s c).wait = .wfe l → exec (.wfeTimeout c) s = .next (if l = 0 then s else coxRetire s c ((coxAt s c).pc + 4))) ∧
  (∀ s c (d : BitVec 4), CoxTurn s c [] →
    let x := coxAt s c
    let lo : BitVec 5 := BitVec.ofNat 5 (2 * d.toNat)
    let hi : BitVec 5 := BitVec.ofNat 5 (2 * d.toNat + 1)
    (x.events = [] → CoxGoes s c (.evq d) ((x.setG lo 0).setG hi 0) (x.pc + 4)) ∧
    (∀ e r, x.events = e :: r → (s.core c).heldEvents = [] →
      let s1 := setCox s c (({ x with events := r }.setG lo e.1.toNat).setG hi e.2.toNat)
      let scope := if fieldOf e.1 0 8 = 1 then 4 else if fieldOf e.1 0 8 = 3 ∨ fieldOf e.1 0 8 = 4 then 3 else 0
      exec (.evq d) s = .next (coxRetire (if scope = 0 then s1 else coxAcquire (joinAll s1 (agCox c)) c scope) c (x.pc + 4)))) ∧
  (∀ d a b i n l, WrongKind .core (.hdr a i) ∧ WrongKind .core (.cmpw d a b n) ∧ WrongKind .core (.emw a) ∧ WrongKind .core (.emw2 a b) ∧
    WrongKind .core (.emc d a) ∧ WrongKind .core (.ems d a) ∧ WrongKind .core (.emsC d a) ∧ WrongKind .core (.dld d a n) ∧
    WrongKind .core (.stk d a i) ∧ WrongKind .core (.spawn d a b) ∧ WrongKind .umpire (.qmap d a b) ∧ WrongKind .umpire (.qunmap d a) ∧
    WrongKind .umpire (.kscan d a) ∧ WrongKind .umpire (.japp d a) ∧ WrongKind .umpire (.jsync d a b) ∧ WrongKind .umpire (.lpost d a) ∧
    WrongKind .umpire (.lcan d a l) ∧ WrongKind .umpire (.hold a))


/-- The generator: the clause buffer, words composed from a dictionary's holes, commits to the arena and to a wave's injection queue, stock
clauses, dictionary loads and the start of waves; each check faults with its cause (R101 to R119). -/
def Obligations.Generator : Prop :=
  (∀ s c a i, CoxTurn s c [a] → c < 256 → let x := coxAt s c
    CoxGoes s c (.hdr a i) { x with hv := true, cbh := (gReg x a).setWidth 32 ||| i.zeroExtend 32, cbw := [] } (x.pc + 4)) ∧
  (∀ s c a b, c < 256 →
    let x := coxAt s c
    let full := fun n => x.hv = false ∨ 15 < x.cbw.length + n
    (CoxTurn s c [a] → (full 1 → CoxFaults s s c (.emw a) 0x192 0 (BitVec.ofNat 64 x.cbw.length)) ∧
      (¬ full 1 → CoxGoes s c (.emw a) { x with cbw := x.cbw ++ [(gReg x a).setWidth 32] } (x.pc + 4))) ∧
    (CoxTurn s c [a, b] → (full 2 → CoxFaults s s c (.emw2 a b) 0x192 0 (BitVec.ofNat 64 x.cbw.length)) ∧
      (¬ full 2 → CoxGoes s c (.emw2 a b) { x with cbw := x.cbw ++ [(gReg x a).setWidth 32, (gReg x b).setWidth 32] } (x.pc + 4)))) ∧
  (∀ s c d a b (n : BitVec 3), CoxTurn s c [a, b] → c < 256 →
    let x := coxAt s c
    let ix := (gReg x a).toNat
    (256 ≤ ix ∨ indexHoles s c (coxCtx x) n.toNat ix = none → CoxFaults s s c (.cmpw d a b n) 0x190 0 (BitVec.ofNat 64 (ix % 256))) ∧
    (∀ hs, ix < 256 → indexHoles s c (coxCtx x) n.toNat ix = some hs →
      (∀ k, fillWord hs (gReg x b).toNat [0, 1, 2, 3] 0 = .error k → CoxFaults s s c (.cmpw d a b n) 0x191 0 (BitVec.ofNat 64 k)) ∧
      (∀ h, fillWord hs (gReg x b).toNat [0, 1, 2, 3] 0 = .ok h → WritesReg s c (.cmpw d a b n) d (BitVec.ofNat 64 (ix * 2 ^ 24 + h))))) ∧
  (∀ s c d a, CoxTurn s c [a] → c < 256 →
    let x := coxAt s c
    let va := (gReg x a).toNat
    (x.hv = false → CoxFaults s s c (.emc d a) 0x192 0 (BitVec.ofNat 64 x.cbw.length)) ∧
    (x.hv = true → x.cbw.length ≤ 15 → ¬ Commits x → CoxFaults s s c (.emc d a) 0x194 0 ((committed x).zeroExtend 64)) ∧
    (∀ ctx k, Commits x → x.ctx = some ctx → contextAt s ctx = some k → va % 4 ≠ 0 ∨ va < k.arena.toNat ∨
      k.arena.toNat + k.arenaSize.toNat < va + 4 * (x.cbw.length + 1) → CoxFaults s s c (.emc d a) 0x193 0 (gReg x a)) ∧
    (∀ u, Commits x → ArenaWritten s c x va (committed x :: x.cbw) u →
      WritesIn s u c (.emc d a) d ((gReg x a + BitVec.ofNat 64 (4 * (x.cbw.length + 1))).toNat))) ∧
  (∀ s c d a, CoxTurn s c [a] → c < 256 → ∀ i busy, (i, busy) ∈ [(Instr.ems d a, false), (.emsC d a, true)] →
    let x := coxAt s c
    let q := (gReg x a).toNat
    ((∀ w, ¬ SlotOf s c x q w) → CoxFaults s s c i 0x195 0 (gReg x a)) ∧
    (∀ w, SlotOf s c x q w → Commits x →
      let ctrl := x.cbw.find? isCtrlWord
      (∀ v, ctrl = some v → CoxFaults s s c i 0x196 0 (v.zeroExtend 64)) ∧
      (ctrl = none → hdrClass (committed x) = 5 → ∃ v, CoxFaults s s c i 0x196 0 v) ∧
      (ctrl = none → hdrClass (committed x) ≠ 5 → roomInQueue w < x.cbw.length + 1 →
        (busy = true ∨ w.inHandler = true → WritesReg s c i d (BitVec.allOnes 64)) ∧
        (busy = false → w.inHandler = false → exec i s = .next s)) ∧
      (∀ ctx k, ctrl = none → hdrClass (committed x) ≠ 5 → x.cbw.length + 1 ≤ roomInQueue w → x.sbuf = [] → x.ctx = some ctx →
        contextAt s ctx = some k →
        let pos := ((x.pc - k.kbase).setWidth 32 : Word).toNat / 4
        let e : InjClause := { hdr := committed x, words := x.cbw, ipos := 0, started := false, at_ := s.clock
                               prov := BitVec.ofNat 64 (2 ^ 63 + pos * 2 ^ 32 + x.eseq.toNat) }
        exec i s = .next (coxRetire (setCox (setWave s (64 * c + q) { w with inj := w.inj ++ [e] }) c
          { x.setG d x.eseq.toNat with eseq := x.eseq + 1 }) c (x.pc + 4))))) ∧
  (∀ s c d a i ctx k s1 bs u, CoxTurn s c [a] → c < 256 →
    let x := coxAt s c
    let addr := (gReg x a).toNat
    let n := lm64 x (addr + 8)
    let recs := (List.range n).map (fun j => patchOf (lm64 x (addr + 16 + 8 * j)))
    let kb := k.kbase.toNat
    let e := kb + peekVirt s ctx (kb + 0x18) 4 + 8 * i.toNat
    let len := peekVirt s ctx (e + 4) 2
    let slot := peekVirt s ctx (e + 6) 2
    x.ctx = some ctx → contextAt s ctx = some k → addr % 8 = 0 → addr < 0x10000 → addr + (16 + 8 * n) ≤ x.lmlim * 4096 → n < 16 →
    i.toNat < peekVirt s ctx (kb + 4) 4 / 2 ^ 16 → engRead s c ctx (kb + peekVirt s ctx e 4) (4 * len) 0 = (s1, .ok bs) →
    let ws : List Word := (List.range len).map (fun j => BitVec.ofNat 32 (natAt bs (4 * j) 4))
    let hdrs := (groupHeaders ws len 0).2
    let sl := (s1.core c).slots.look {} slot
    (groupHeaders ws len 0).1 = true →
    (8 ≤ slot ∨ sl.state ≠ .ready ∨ sl.owner ≠ ctx → CoxFaults s s1 c (.stk d a i) 0x190 0 (BitVec.ofNat 64 slot)) ∧
    (slot < 8 → sl.state = .ready → sl.owner = ctx → (∀ p ∈ recs, ∃ h, patchHole s1 c ctx slot ws hdrs p = some h ∧ fitsHole 32 p.val h = true) →
      let out := recs.foldl (fun ws p => match patchHole s1 c ctx slot ws hdrs p, ws[p.off]? with
        | some h, some w => ws.set p.off (BitVec.ofNat 32 (insertBits w.toNat h.pos h.width p.val))
        | _, _ => ws) ws
      ArenaWritten s1 c x (lm64 x addr) out u →
      WritesIn s u c (.stk d a i) d (BitVec.ofNat 64 (lm64 x addr + 4 * len)).toNat)) ∧
  (∀ s c d a (n : BitVec 3), CoxTurn s c [a] → c < 256 →
    let x := coxAt s c
    let slot := (s.core c).slots.look {} n.toNat
    (0 < slot.selcnt ∨ slot.state = .loading → WritesReg s c (.dld d a n) d 1) ∧
    (slot.selcnt = 0 → slot.state ≠ .loading → exec (.dld d a n) s = .next (setCox (s.setCore c { s.core c with
      slots := (s.core c).slots.put {} n.toNat { slot with state := .loading, owner := coxCtx x, image := gReg x a, entries := [], icrc := 0 } })
      c { x with wait := .dict n.toNat d.toNat }))) ∧
  (∀ s c n d s1 r,
    let slot := (s.core c).slots.look {} n
    slot.state = .loading → (coxAt s c).wait = .dict n d → loadDict s c slot.owner slot.image.toNat = (s1, r) →
    ∃ u, exec (.dictLoadEnd c n) s = .next u ∧ (coxAt u c).pc = (coxAt s c).pc + 4 ∧ (coxAt u c).wait = .no ∧
      (BitVec.ofNat 5 d ≠ 0 → gReg (coxAt u c) (BitVec.ofNat 5 d) = BitVec.ofNat 64 r.status) ∧
      let y := (u.core c).slots.look {} n
      (r.status = 0 → y.state = .ready ∧ y.entries = r.entries ∧ y.icrc = BitVec.ofNat 32 r.icrc) ∧ (r.status ≠ 0 → y.state = .empty ∧ y.entries = []) ∧
      y.owner = slot.owner) ∧
  (∀ s c d a b blk k, CoxTurn s c [a, b] → c < 256 →
    let x := coxAt s c
    let addr := (gReg x a).toNat
    let bk := 64 * c + (gReg x b).toNat
    let buds := (waveBudgets s blk.ctx k.kbase.toNat).map (fun n => if blk.shadowed then n / 2 else n)
    let ctl := lm64 x (addr + 8)
    let first := ctl / 2 ^ 32 % 256
    let n := ctl / 2 ^ 40 % 256
    (gReg x b).toNat < 64 → blockAt s bk = some blk → contextAt s blk.ctx = some k → MaySpawn s c x addr blk buds →
    ∃ u map blk', exec (.spawn d a b) s = .next u ∧ SameMemory s u ∧ (d ≠ 0 → gReg (coxAt u c) d = BitVec.ofNat 64 map) ∧
      blockAt u bk = some blk' ∧ blk'.spawned = blk.spawned ++ (List.range n).map (fun j => first + j) ∧ blk'.last = natBit ctl 48 ∧
      ∀ j, j < n → ∃ q w, q / 16 = (first + j) % 4 ∧ q < 64 ∧ natBit map q = true ∧ waveAt s (64 * c + q) = none ∧
        waveAt u (64 * c + q) = some w ∧ w.block = bk ∧ w.num = first + j ∧ buds[first + j]? = some w.bud ∧ w.exec = BitVec.ofNat 32 ctl ∧
        w.pcHdr = BitVec.ofNat 64 (lm64 x addr) ∧ w.spillBase = BitVec.ofNat 64 (lm64 x (addr + 0x10) + j * lm64 x (addr + 0x18)) ∧
        w.tvec = BitVec.ofNat 64 (lm64 x (addr + 0x60)) &&& ~~~ 3 ∧
        ∀ r, r < 8 → w.sregs.look 0 r = BitVec.ofNat 64 (lm64 x (addr + 0x20 + 8 * r)))

/-- The umpire's instructions: queues are mapped and unmapped, kicks scanned, the journal appended and read, launches posted and cancelled,
completions held back (R437, R438, R445). Which admitted launch a posting block names is a free choice (log entry 13). -/
def Obligations.UmpireWords : Prop :=
  (∀ s c d a b, CoxTurn s c [a, b] → 256 ≤ c →
    let x := coxAt s c
    let q := (gReg x a).toNat
    let n := (gReg x b).toNat
    let i := Instr.qmap d a b
    (2 ^ 14 ≤ q ∨ 64 ≤ n → CoxFaults s s c i 0x180 0 ((coxWordOf i).zeroExtend 64)) ∧
    (q < 2 ^ 14 → n < 64 →
      ((s.qslots.look none n).isSome = true → WritesIn s s c i d 1) ∧
      (s.qslots.look none n = none →
        (readDesc s (umpOf s c).qtab.toNat q = none → WritesIn s s c i d 2) ∧
        (∀ y, readDesc s (umpOf s c).qtab.toNat q = some y →
          ((slotOf s q).isSome = true → WritesIn s s c i d 3) ∧
          (slotOf s q = none → WritesIn s { s with qslots := s.qslots.put none n (some y) } c i d 0))))) ∧
  (∀ s c d a, CoxTurn s c [a] → 256 ≤ c →
    let x := coxAt s c
    let n := (gReg x a).toNat
    let i := Instr.qunmap d a
    (64 ≤ n → CoxFaults s s c i 0x180 0 ((coxWordOf i).zeroExtend 64)) ∧
    (n < 64 → s.qslots.look none n = none → WritesIn s s c i d 0) ∧
    (∀ y, n < 64 → s.qslots.look none n = some y →
      (queueRuns s y.queue = true → WritesIn s s c i d 1) ∧
      (queueRuns s y.queue = false →
        let t := descPut (descPut s y.queue 0x30 y.rdidx) y.queue 0x34 y.cwridx
        WritesIn s { t with qslots := t.qslots.put none n none } c i d 0))) ∧
  (∀ s c d a, CoxTurn s c [a] → 256 ≤ c →
    let x := coxAt s c
    let g := (gReg x a).toNat
    let i := Instr.kscan d a
    (2 ^ 14 ≤ g → CoxFaults s s c i 0x180 0 ((coxWordOf i).zeroExtend 64)) ∧
    (g < 2 ^ 14 → s.kicks = [] → WritesIn s s c i d (2 ^ 64 - 1)) ∧
    (∀ q, g < 2 ^ 14 → q ∈ s.kicks → (g ≤ q → ∀ k ∈ s.kicks, g ≤ k → q ≤ k) → (q < g → ∀ k ∈ s.kicks, k < g ∧ q ≤ k) →
      ∃ u, u = { s with kicks := s.kicks.filter (fun k => k != q), taken := u.taken, qslots := u.qslots, complQ := u.complQ } ∧ q ∈ u.taken ∧
        (∀ p ∈ s.taken, p ∈ u.taken) ∧
        (∀ n x, s.qslots.look none n = some x → u.qslots.look none n = some (if x.queue = q then { x with blocked := false } else x)) ∧
        u.complQ = s.complQ.map (fun r => if r.queue = q then { r with waits := false } else r) ∧ WritesIn s u c i d q)) ∧
  (∀ s c d a, CoxTurn s c [a] → 256 ≤ c →
    let x := coxAt s c
    let u := umpOf s c
    let at_ := u.jbase.toNat + 32 * (u.jseq.toNat % u.jsize.toNat)
    let i := Instr.japp d a
    let fits := (gReg x a).toNat % 8 = 0 ∧ (gReg x a).toNat + 32 ≤ x.lmlim * 4096
    let held := (List.range 32).map (fun i => at_ + i)
    (¬ fits → CoxFaults s s c i 0x185 0 (gReg x a)) ∧
    (fits → u.jsize ≠ 0 → (∀ b ∈ held, physKind s b ≠ .nothing) → needSnoop s held = none →
      WritesIn s (umpWrite (setUmp s (c - 256) { u with jseq := u.jseq + 1, lastJ := s.time }) at_ 32 (lmRead x (gReg x a).toNat 32)) c i d u.jseq.toNat)) ∧
  (∀ s c d a b, CoxTurn s c [a, b] → 256 ≤ c →
    let x := coxAt s c
    let u := umpOf s c
    let next := match activeUmp s with
      | some (_, y) => y.jseq.toNat
      | none => u.jseq.toNat
    let n := (gReg x a).toNat
    let tgt := (gReg x b).toNat
    let i := Instr.jsync d a b
    let fits := tgt % 8 = 0 ∧ tgt + 32 ≤ x.lmlim * 4096
    (¬ fits → CoxFaults s s c i 0x185 0 (gReg x b)) ∧
    (fits → next ≤ n → WritesIn s s c i d 1) ∧
    (fits → n < next → u.jsize.toNat < next - n → WritesIn s s c i d 2) ∧
    (∀ v, fits → n < next → next - n ≤ u.jsize.toNat → umpRead s (u.jbase.toNat + 32 * (n % u.jsize.toNat)) 32 = some v →
      WritesIn s (setCox s c (lmWrite x tgt 32 v)) c i d 0)) ∧
  (∀ s c d a, CoxTurn s c [a] → 256 ≤ c →
    let x := coxAt s c
    let i := Instr.lpost d a
    let fits := (gReg x a).toNat % 8 = 0 ∧ (gReg x a).toNat + 8 ≤ x.lmlim * 4096
    (¬ fits → CoxFaults s s c i 0x185 0 (gReg x a)) ∧
    (fits → postedNext s = none → ∃ v, v < 2 ∧ WritesIn s s c i d v) ∧
    (∀ l y, fits → postedNext s = some (l, y) →
      let full := y.scarab = false ∧ ∃ e ∈ maskDies s y, 16 ≤ heldBy s e
      (full → WritesIn s s c i d 1) ∧ (∀ u, ¬ full → postLaunch s l y = some u → WritesIn s u c i d 0))) ∧
  (∀ s c d a (l : BitVec 2), CoxTurn s c [a] → 256 ≤ c →
    let x := coxAt s c
    let v := (gReg x a).toNat
    let one := v % 2 ^ 16
    let two := v / 2 ^ 16 % 2 ^ 16
    let i := Instr.lcan d a l
    let hits := fun (y : Launch) => if l = 0 then y.ix == one && y.graph == two else if l = 1 then y.graph == one && y.phase == two
      else if l = 2 then y.phase == one && y.job == two else y.job == one
    (2 ^ 48 ≤ v → CoxFaults s s c i 0x180 0 ((coxWordOf i).zeroExtend 64)) ∧
    (v < 2 ^ 48 → WritesIn s (cancelThose s (v / 2 ^ 32) hits).1 c i d (cancelThose s (v / 2 ^ 32) hits).2)) ∧
  (∀ s c a, CoxTurn s c [a] → 256 ≤ c →
    let x := coxAt s c
    let u := umpOf s c
    let i := Instr.hold a
    (2 ≤ (gReg x a).toNat → CoxFaults s s c i 0x180 0 ((coxWordOf i).zeroExtend 64)) ∧
    (gReg x a = 1 → exec i s = .next (coxRetire (setUmp s (c - 256) { u with holding := true }) c (x.pc + 4))) ∧
    (gReg x a = 0 → exec i s = .next (coxRetire
      { setUmp s (c - 256) { u with holding := false, kept := [] } with complQ := s.complQ ++ u.kept } c (x.pc + 4))))

/-- Links and ports: a replay is counted and recorded, the first failing lane gets the spare and a second failure takes the port down, a
port drains, retrains and comes up (R372 to R374, R380). Which stack records a replay inside the package is a free value. -/
def Sys2Proof.Claims.LinksAndPorts : Prop :=
  (∀ s n, n < 32 → let p := s.ports.look {} n
    (∀ f, exec (.flitReplay ⟨n, f⟩) s =
      .next (stackRecord (withPort s n { p with retries := min 65535 (p.retries + max 1 (min f 128)) }) (n / 2) 1 6 n errLink none)) ∧
    (∀ lane, lane.toNat < 8 → p.state ≠ .down →
      (p.spare = false → exec (.portLaneFail n lane) s = .next (withPort s n { p with spare := true, failLane := lane })) ∧
      (p.spare = true → exec (.portLaneFail n lane) s = .next (withPort s n { p with state := .down }))) ∧
    (s.sys.anchorLost = false → n / 2 ∉ s.sys.stacksLost →
      exec (.portDrain n) s = .next (withPort s n { p with drain := true, state := if p.state = .drained then .drained else .draining }) ∧
      exec (.portRetrain n) s = .next (withPort s n { p with drain := false, state := if p.state = .drained then .training else p.state })) ∧
    (s.sys.anchorLost = true ∨ n / 2 ∈ s.sys.stacksLost → exec (.portDrain n) s = .next s ∧ exec (.portRetrain n) s = .next s) ∧
    (p.state ≠ .draining ∨ portBusy s n = true → exec (.portDrained n) s = .next s) ∧
    (p.state = .draining → portBusy s n = false →
      exec (.portDrained n) s = .next (withPort s n { p with state := if p.drain then .drained else .training })) ∧
    (portBusy s n = false → (∀ q ∈ s.packets, q.port ≠ n) ∧ (∀ k w q r, waveAt s k = some w → q ∈ w.pend → r ∈ q.reqs → r.port ≠ n)) ∧
    exec (.portTrainingComplete n) s =
      .next (if p.state = .training ∧ n / 2 ∉ s.sys.stacksLost then withPort s n { p with state := .up } else s)) ∧
  (∀ s n f, 32 ≤ n → n < 112 → ∃ stack, stack < 16 ∧ exec (.flitReplay ⟨n, f⟩) s =
    .next (if n < 80 then stackRecord s stack 1 5 (n - 32) errLink none else stackRecord s stack 1 9 (n - 80) errLink none)) ∧
  (∀ s stack sev unit ix kind a, stack < 16 → ∃ u, stackRecord s stack sev unit ix kind a = u ∧
    u = { s with banks := u.banks, cper := u.cper, nextId := s.nextId + 1, sys := { s.sys with msix := u.sys.msix } } ∧
    (sev ≠ 1 → ∃ x, u.cper = s.cper ++ [x] ∧ u.sys.msix = s.sys.msix + 1 ∧ x.serial = Config.serial ∧ x.sev = sev ∧ x.unit = unit ∧ x.unitIx = ix ∧ x.addr = a ∧ x.die = 32 + stack) ∧
    ((s.banks.look [] (264 + stack)).length < 64 →
      ∃ x, u.banks.look [] (264 + stack) = s.banks.look [] (264 + stack) ++ [x] ∧ x.sev = sev ∧ x.unit = unit ∧ x.unitIx = ix ∧
        x.addr = a ∧ x.ctx = 0xFFFF ∧ x.die = 32 + stack ∧ x.at_ = s.time * 5 / 6 % 2 ^ 56 ∧
        x.slot < 64 ∧ ∀ y ∈ s.banks.look [] (264 + stack), y.slot ≠ x.slot)) ∧
  (∀ s n f, 112 ≤ n → exec (.flitReplay ⟨n, f⟩) s = .next s) ∧
  ∀ s n lane, 32 ≤ n → exec (.portLaneFail n lane) s = .next s ∧ exec (.portDrain n) s = .next s ∧ exec (.portRetrain n) s = .next s ∧
    exec (.portDrained n) s = .next s ∧ exec (.portTrainingComplete n) s = .next s

/-- What a timeout of a peer comes to, the accesses of the host and of other packages, the loss of a package (R298, R329, R381, R448). -/
def Sys2Proof.Claims.OtherAgents : Prop :=
  (∀ s k w id p n, n < 32 → (s.ports.look {} n).pool = false → waveAt s k = some w → isPend w.pend id p p.work →
    let late := p.reqs.filter (fun r => r.port == n)
    let path := (late.head?.map (·.path)).getD 0
    (∀ parts tag, p.work = .store parts tag true → late ≠ [] → id < 2 ^ 64 →
      exec (.peerTimeout (.wave k) id n) s = .next (modWave (late.foldl (fun s r => portTimeout s r.port) s) k (fun w => { w.endPend id with
        deferred := (w.endPend id).deferred ++ [{ cause := 0x151, detail := path, regs := [], flag := p.flag, cls := p.cls, atFence := true
                                                  atRfence := p.cls == .rst, pathIx := path }] }))) ∧
    (∀ op d it ap got, p.work = .atomic op d it ap got → late ≠ [] → id < 2 ^ 64 →
      exec (.peerTimeout (.wave k) id n) s = .next (modWave (late.foldl (fun s r => portTimeout s r.port) s) k (fun w => deferPend (w.endPend id) p 0x151 path
        (if d = none then [] else p.dst))))) ∧
  (∀ s n, n < 32 → portTimeout s n = linkTimeout (withPort s n { s.ports.look {} n with timeouts := more (s.ports.look {} n).timeouts }) (n / 2) n) ∧
  (∀ s c id p parts tag n, n < 32 → (s.ports.look {} n).pool = false → isPend (coxAt s c).sbuf id p (.store parts tag true) →
    let late := p.reqs.filter (fun r => r.port == n)
    late ≠ [] → exec (.peerTimeout (.cox c) id n) s =
      .next (late.foldl (fun s r => portTimeout s r.port) (setCox s c { coxAt s c with sbuf := (coxAt s c).sbuf.filter (fun q => q.id != id) }))) ∧
  (∀ s g id n, 32 ≤ n ∨ (s.ports.look {} n).pool = true → exec (.peerTimeout g id n) s = .next s) ∧
  (∀ s p, exec (.peerPackageLost p) s = .next { s with
    keepers := s.keepers.filter (fun x => decide (x.1 % 2 ^ 22 / 16384 ≠ p)), keeperHeld := s.keeperHeld.filter (fun f => decide (f.src / 16384 ≠ p)) }) ∧
  (∀ s a, (a < 16 * interL s → ∀ host, outsideHas s host a = true) ∧
    (∀ st o, physKind s a = .stackLocal st o → outsideHas s true a = true ∧ outsideHas s false a = false)) ∧
  (∀ s a g data, s.sys.anchorLost = false → s.sys.bootFailed = false → (∀ i, i < data.length → outsideHas s true (a + i) = true) →
    (∃ u, exec (.hostAccess false ⟨a, g⟩ data) s = .next u ∧ u = { s with hostLines := u.hostLines } ∧
      ∀ l, l ∈ u.hostLines ↔ l ∈ s.hostLines ∨ ∃ i, i < data.length ∧ l = (a + i) / 128) ∧
    (s.sys.stacksLost = [] → ∃ u, exec (.hostAccess true ⟨a, g⟩ data) s = .next u ∧ SameMemoryBut s u ((List.range data.length).map (a + ·)) ∧
      (∀ i v, data[i]? = some v → homeByte u (a + i) = v) ∧
      ∀ l, l ∈ u.hostLines ↔ l ∈ s.hostLines ∨ ∃ i, i < data.length ∧ l = (a + i) / 128)) ∧
  (∀ s a g data, data ≠ [] →
    (a + data.length ≤ 16 * interL s → exec (.peerAccess false ⟨a, g⟩ data) s = .next s) ∧
    ((∃ i, i < data.length ∧ outsideHas s false (a + i) = false) → ∀ write, ∃ u, exec (.peerAccess write ⟨a, g⟩ data) s = .next u ∧ SameMemory s u ∧
      ∃ sev, 1 ≤ sev ∧ sev ≤ 3 ∧ u = stackRecord s (homeStack a) sev 3 (homeStack a * 16 + homeSlice a) errRefused (some a)) ∧
    (a + data.length ≤ 16 * interL s → s.sys.stacksLost = [] → (∀ i, i < data.length → (a + i) / 128 ∉ s.hostLines) →
      ∃ u, exec (.peerAccess true ⟨a, g⟩ data) s = .next u ∧ SameMemoryBut s u ((List.range data.length).map (a + ·)) ∧
        ∀ i v, data[i]? = some v → homeByte u (a + i) = v) ∧
    (a + data.length ≤ 16 * interL s → ∀ i, i < data.length → (a + i) / 128 ∈ s.hostLines →
      ∃ u, exec (.peerAccess true ⟨a, g⟩ data) s = .next u ∧ u = { s with snoops := u.snoops } ∧ (a + i) / 128 ∈ u.snoops)) ∧
  ∀ s l, exec (.backInvalidationResponse l) s = .next (if l ∈ s.snoops then
    { s with snoops := s.snoops.filter (fun x => decide (x ≠ l)), hostLines := s.hostLines.filter (fun x => decide (x ≠ l)) } else s)

/-- Epochs, pinned windows and extents of pool memory: an epoch clears the filters and ages the windows, an enable that R311 forbids sets
REFUSED, an extent is granted where none overlaps, released in its two phases, or revoked with its dirty lines counted (R310 to R313). -/
def Obligations.WindowsAndExtents : Prop :=
  (∀ s, ∃ u, exec .epochBoundary s = .next u ∧ u = { s with bloom := [], mscw := u.mscw } ∧ ∀ n, n < 64 →
    let x : Window := s.mscw.look {} n
    let y := u.mscw.look {} n
    (x.en = false → y = x) ∧
    (x.en = true → y = { x with idle := more x.idle, en := decide (x.fade = 0 ∨ more x.idle < x.fade) })) ∧
  (∀ s n v, n < 64 →
    let x : Window := s.mscw.look {} n
    let size := fieldOf v 0 16
    let w : Window := { x with refused := x.refused && !bitOf v 62, fade := fieldOf v 32 16, size := size }
    s.sys.anchorLost = false → let tgt := fun (y : Window) => exec (.mscwEnable n v) s = .next { s with mscw := s.mscw.put {} n y }
    (bitOf v 63 = false → tgt { w with en := false }) ∧
    (bitOf v 63 = true → MayEnable s n x.base.toNat size → tgt { w with en := true, idle := if x.en then x.idle else 0 }) ∧
    (bitOf v 63 = true → ¬ MayEnable s n x.base.toNat size → tgt { w with en := false, refused := true })) ∧
  (∀ s n v, 64 ≤ n ∨ s.sys.anchorLost = true → exec (.mscwEnable n v) s = .next s) ∧
  (∀ s n base size, s.sys.anchorLost = false → n < 512 → 2 ^ 51 ≤ base → base + size ≤ 2 ^ 52 →
    (∀ p ∈ s.extents, p.1 ≠ n → p.2.state ≠ .absent → p.2.base + p.2.size ≤ base ∨ base + size ≤ p.2.base) →
    (s.extents.look {} n).state = .absent ∨ (s.extents.look {} n).state = .revoked →
    exec (.extentGrant n base size) s =
      .next { s with extents := s.extents.put {} n { base := base, size := size, state := .granted, dropped := 0 } }) ∧
  (∀ s n e, s.extents.look {} n = e →
    (e.state = .granted → s.sys.anchorLost = false → ∃ u, exec (.extentRelease n) s = .next u ∧ SameMemory s u ∧ u.dirty = s.dirty ∧
      u.extents.look {} n = { e with state := .releasing } ∧ (∀ m, m ≠ n → u.extents.look {} m = s.extents.look {} m) ∧
      (∀ c x, x ∈ (u.core c).tlb ∨ x ∈ (u.die c).tlb → ¬ mapsPart e x) ∧
      (∀ c x, x ∈ (s.core c).tlb → ¬ mapsPart e x → x ∈ (u.core c).tlb)) ∧
    (e.state = .releasing → extentBusy s e = true → exec (.extentRelease n) s = .next s) ∧
    (e.state = .releasing → extentBusy s e = false → ∃ u, exec (.extentRelease n) s = .next u ∧ SameMemory s u ∧
      u.extents.look {} n = { e with state := .absent } ∧
      (∀ p ∈ u.dirty, inExtent e (p.1 * 128) = false) ∧ (∀ p ∈ s.dirty, inExtent e (p.1 * 128) = false → p ∈ u.dirty) ∧
      (∀ p ∈ u.mscw, inExtent e p.2.base.toNat = true → p.2.en = false) ∧ ∀ l ∈ u.msc, inExtent e (l.1 * 128) = false) ∧
    (e.state = .granted ∨ e.state = .releasing → s.sys.anchorLost = false → ∃ u lost, exec (.extentForcedRelease n) s = .next u ∧ lost ≤ s.dirty.length ∧
      u.extents.look {} n = { e with state := .revoked, dropped := min 65535 (e.dropped + lost) } ∧
      (∀ p ∈ u.dirty, inExtent e (p.1 * 128) = false) ∧ (∀ p ∈ u.mscw, inExtent e p.2.base.toNat = true → p.2.en = false) ∧
      (∀ c x, x ∈ (u.core c).tlb ∨ x ∈ (u.die c).tlb → ¬ mapsPart e x) ∧
      (∀ a, inExtent e (a / 128 * 128) = false → s.mem.look 0 a = u.mem.look 0 a) ∧
      ∃ r ∈ u.cper, r.sev = 3 ∧ r.addr = some e.base))

/-- Doorbells, the records of a command ring and the records of a completion ring, time slices, heartbeats and the takeover (R428, R429, R432,
R435, R445, R446). What a heartbeat holds is a free value. -/
def Obligations.QueuesAndRecords : Prop :=
  (∀ s v n, UmpireUp s → v < 128 → n < 128 → let q := 128 * v + n
    ∃ u, exec (.doorbellWrite ⟨v, 8 * n⟩) s = .next u ∧ u = { s with kicks := u.kicks } ∧
      (q ∈ s.kicks → u.kicks = s.kicks) ∧ (q ∉ s.kicks → u.kicks = s.kicks ++ [q])) ∧
  (∀ s v o, ¬ UmpireUp s ∨ 128 ≤ v ∨ o % 8 ≠ 0 ∨ 1024 ≤ o → exec (.doorbellWrite ⟨v, o⟩) s = .next s) ∧
  (∀ s i u, activeUmp s = some (i, u) → (u.jsize = 0 → journalNow s = s) ∧ (u.jsize ≠ 0 → ∃ v, journalNow s =
    umpWrite (setUmp s i { u with jseq := u.jseq + 1, lastJ := s.time }) (u.jbase.toNat + 32 * (u.jseq.toNat % u.jsize.toNat)) 32 v)) ∧
  (∀ s n x r, UmpireUp s → HasRecord s n x → recordBytesAt s x = some r →
    let t := consumed s n x
    let typ := le r 0 1
    let k := kernelBytes t x (le r 0x10 8)
    let cancel := typ = 2 ∧ le r 0 4 / 2 ^ 10 = 0 ∧ ∀ i, 0xC ≤ i → i < 128 → (r[i]?).getD 0 = 0
    (typ ≠ 1 → exec (.launchRecord n) s = .next s) ∧ (¬ cancel → exec (.cancelRecord n) s = .next s) ∧
    (typ = 1 ∨ cancel ∨ holdFull s = true → exec (.badCommandRecord n) s = .next s) ∧
    (typ = 1 → ∃ u y, exec (.launchRecord n) s = .next u ∧ u = { t with launches := u.launches, nextId := t.nextId + 1 } ∧
      launchAt u t.nextId = some y ∧ (∀ l, l ≠ t.nextId → launchAt u l = launchAt t l) ∧
      let z := parseLaunch x.queue r (fun o m => natAt (k.getD []) o m)
      LaunchOf x.queue r (k.getD []) z ∧
      (s.sys.refuseLaunches = false → (∃ b, k = some b ∧ kernelOk (natAt b) = true) → recordOk r z = true → y = z) ∧
      (s.sys.refuseLaunches = true ∨ (∀ b, k = some b → kernelOk (natAt b) = false) ∨ recordOk r z = false →
        y = { z with unplaced := [], toEnd := 0, status := 1, err := some { cls := 1, unit := 8, unitIx := 0, addr := z.kbase } })) ∧
    (cancel → exec (.cancelRecord n) s = .next (cancelThose t x.queue
      (atLevel (le r 0 4 / 2 ^ 8 % 4) (le r 4 2) (le r 6 2) (le r 8 2) (le r 10 2))).1) ∧
    (typ ≠ 1 → ¬ cancel → holdFull s = false → exec (.badCommandRecord n) s = .next (putCompl t
      { queue := x.queue, level := 0, status := 1, ident := le r 4 2, errWord := 0x801, errAddr := 0, user := 0, energy := 0 }))) ∧
  (∀ s n x, UmpireUp s → HasRecord s n x → recordBytesAt s x = none → holdFull s = false →
    let u := queueRecord { s with qslots := s.qslots.put none n (some { x with blocked := true }) } x.queue
    exec (.launchRecord n) s = .next u ∧ exec (.cancelRecord n) s = .next u ∧ exec (.badCommandRecord n) s = .next u ∧
    ∃ r ∈ u.cper, r.sev = 3 ∧ r.unit = 8 ∧ r.synd.toNat = x.queue % 2 ^ 64) ∧
  (∀ s n, ¬ UmpireUp s ∨ s.qslots.look none n = none → exec (.launchRecord n) s = .next s ∧ exec (.cancelRecord n) s = .next s ∧
    exec (.badCommandRecord n) s = .next s) ∧
  (∀ s q n x r, slotOf s q = some (n, x) → s.complQ.find? (fun y => y.queue == q) = some r → r.waits = false →
    (∀ c, descField s q 0x38 = some c → (x.cwridx + 2 ^ 32 - c) % 2 ^ 32 = 2 ^ x.clg → exec (.completionRecordWrite q) s = .next s) ∧
    (r.intent = false → (∃ u, activeUmp s = some u ∧ u.2.holding = true) → exec (.completionRecordWrite q) s = .next s) ∧
    (∀ c, descField s q 0x38 = some c → (x.cwridx + 2 ^ 32 - c) % 2 ^ 32 ≠ 2 ^ x.clg → r.intent = false →
      (∀ u, activeUmp s = some u → u.2.holding = false) → exec (.completionRecordWrite q) s =
        .next (journalNow { s with complQ := s.complQ.map (fun y => if y = r then { y with intent := true } else y) })) ∧
    (∀ c, descField s q 0x38 = some c → (x.cwridx + 2 ^ 32 - c) % 2 ^ 32 ≠ 2 ^ x.clg → r.intent = true →
      (complXlat s x = none → ∃ u, exec (.completionRecordWrite q) s = .next u ∧ u.qslots = s.qslots ∧ SameMemory s u ∧
        u.complQ = s.complQ.map (fun y => if y = r then { y with failed := true, waits := true } else y) ∧
        (r.failed = true → u.cper = s.cper) ∧ (r.failed = false → ∃ e ∈ u.cper, e.sev = 3 ∧ e.synd.toNat = q % 2 ^ 64)) ∧
      (∀ v, complXlat s x = some v →
        needSnoop s (([v.pa] ++ v.others).flatMap (fun a => (List.range 32).map (fun i => a + i))) = none →
        let t := storeVia (flushDirty s) v 32 (r.level + r.status * 2 ^ 8 + r.ident % 2 ^ 16 * 2 ^ 16 + r.errWord.toNat * 2 ^ 32 +
          r.errAddr.toNat * 2 ^ 64 + r.user.toNat * 2 ^ 128 + r.energy % 2 ^ 64 * 2 ^ 192)
        exec (.completionRecordWrite q) s = .next (journalNow (descPut { t with
          complQ := t.complQ.erase r, qslots := t.qslots.put none n (some { x with cwridx := (x.cwridx + 1) % 2 ^ 32 }) } q 0x34
          ((x.cwridx + 1) % 2 ^ 32)))))) ∧
  (∀ s q, slotOf s q = none ∨ (∀ r ∈ s.complQ, r.queue ≠ q) → exec (.completionRecordWrite q) s = .next s) ∧
  (∀ s q n x, UmpireUp s → slotOf s q = some (n, x) →
    (x.suspended = false → 64 ≤ s.qslots.length → (∀ p ∈ s.qslots, ∀ y, p.2 = some y → x.since ≤ y.since) →
      (∃ k ∈ s.kicks, slotOf s k = none) → ∃ u, exec (.queueQuantumExpire q) s = .next u ∧
        u = { s with qslots := s.qslots.put none n (some { x with suspended := true }), contexts := u.contexts } ∧
        ∀ c k, contextAt s c = some k → contextAt u c = some (if c ∈ runningCtxs s q then { k with saving := true } else k)) ∧
    (x.suspended = false → s.qslots.length < 64 ∨ (∀ k ∈ s.kicks, slotOf s k ≠ none) → exec (.queueQuantumExpire q) s = .next s) ∧
    (x.suspended = true → queueRuns s q = true → exec (.queueQuantumExpire q) s = .next s) ∧
    (x.suspended = true → queueRuns s q = false → ∃ u t, exec (.queueQuantumExpire q) s = .next u ∧
      t = descPut (descPut s x.queue 0x30 x.rdidx) x.queue 0x34 x.cwridx ∧ u = { t with qslots := u.qslots } ∧
      (∀ m, m ≠ n → u.qslots.look none m = s.qslots.look none m) ∧ ∀ y, u.qslots.look none n = some y → y.queue ∈ s.kicks ∧ y.queue ≠ q)) ∧
  (∀ s i u, UmpireUp s → activeUmp s = some (i, u) → (u.jsize = 0 → exec .journalHeartbeat s = .next s) ∧
    (let at_ := u.jbase.toNat + 32 * (u.jseq.toNat % u.jsize.toNat)
     let l := (List.range 32).map (fun j => at_ + j)
     i < 2 → s.umps.look none i = some u → u.jsize ≠ 0 → (∀ b ∈ l, physKind s b ≠ .nothing) → needSnoop s l = none → ∃ v t,
      t = umpWrite (setUmp s i { u with jseq := u.jseq + 1, lastJ := s.time }) at_ 32 v ∧
      exec .journalHeartbeat s = .next { t with sys := { t.sys with beats := t.sys.beats + 1 } })) ∧
  (∀ s i old, activeUmp s = some (i, old) → s.time < old.lastJ + 120000 → exec .umpireTakeoverSilence s = .next s) ∧
  (∀ s i old e, e ∈ [Instr.umpireTakeoverFault, Instr.umpireTakeoverSilence] → UmpireUp s → activeUmp s = some (i, old) →
    (e = .umpireTakeoverSilence → old.lastJ + 120000 ≤ s.time) →
    let new := (s.umps.look none (1 - i)).getD { active := false }
    ∃ u, exec e s = .next u ∧ u = { s with umps := u.umps, coxes := u.coxes, kicks := u.kicks, taken := [] } ∧
      u.umps.look none i = some { old with active := false, holding := false, kept := [] } ∧
      u.umps.look none (1 - i) = some { new with active := true, holding := true, kept := new.kept ++ old.kept, jseq := old.jseq, lastJ := s.time } ∧
      (coxAt u (256 + i)).stopped = true ∧ (∀ c, c ≠ 256 + i → coxAt u c = coxAt s c) ∧ (∀ q ∈ s.kicks, q ∈ u.kicks) ∧
      ∀ q p w r, q < 2 ^ 14 → descAddr s new.qtab.toNat q = some p → umpRead s (p + 0x24) 4 = some w → umpRead s (p + 0x30) 4 = some r →
        w ≠ r → q ∈ u.kicks) ∧
  ∀ s e, ¬ UmpireUp s → e ∈ [Instr.umpireTakeoverFault, Instr.umpireTakeoverSilence, Instr.journalHeartbeat] → exec e s = .next s

/-- A launch from admission to completion: it is admitted with its context when its turn has come and its estimate fits, its blocks are placed on
the core that R440 chooses with their event, the context comes to the cox, and the completed launch reports (R433 to R435, R440 to R442, R100).
Which free block handle and private slot a block gets are free values. -/
def Obligations.LaunchesAndBlocks : Prop :=
  (∀ s l ctx arena size x n q, UmpireUp s → launchAt s l = some x → slotOf s x.queue = some (n, q) → q.suspended = false → FirstReady s l x →
    (fitsAccount s x = true ↔ s.acctUse.look 0 (x.queue / 128) + x.est ≤ s.acctBud.look 0 (x.queue / 128) ∧ s.sys.admitStop = false ∧
      s.sys.throttling = false) ∧
    (fitsAccount s x = false ∨ freeCtx s ctx = false → ∀ p, exec (.launchAdmit l ctx arena size p) s = .next s) ∧
    (fitsAccount s x = true → s.sys.refuseLaunches = false → freeCtx s ctx = true → arena.toNat % 65536 = 0 → size.toNat % 65536 = 0 →
      exec (.launchAdmit l ctx arena size false) s = .next (setLaunch s l { x with short := true })) ∧
    (fitsAccount s x = true → s.sys.refuseLaunches = false → freeCtx s ctx = true → arena.toNat % 65536 = 0 → size.toNat % 65536 = 0 →
      x.scarab = false → ∃ u k, exec (.launchAdmit l ctx arena size true) s = .next u ∧
        u = { journalNow s with contexts := u.contexts, acctUse := u.acctUse, launches := u.launches, ctxMeter := u.ctxMeter } ∧
        launchAt u l = some { x with state := .admitted, ctx := ctx, rowBlocks := [], short := false } ∧ contextAt u ctx = some k ∧
        u.ctxMeter.look 0 ctx = 0 ∧ u.acctUse.look 0 (x.queue / 128) = (s.acctUse.look 0 (x.queue / 128) + x.est) % 2 ^ 48 ∧
        k.launch = l ∧ k.troot = q.troot ∧ k.pbase = q.pbase ∧ k.plim = q.plim ∧ k.cbase = x.args ∧ k.args = x.args ∧ k.kbase = x.kbase ∧
        k.arena = arena ∧ k.arenaSize = size ∧ k.saving = false ∧ ∀ i y, activeUmp (journalNow s) = some (i, y) → k.lwin = y.lwindef ∧ k.pwin = y.pwindef)) ∧
  (∀ s l x, UmpireUp s → launchAt s l = some x → standsReady s l x = false → ∀ ctx a b p, exec (.launchAdmit l ctx a b p) s = .next s) ∧
  (∀ s die c l x i r, die < 8 → (s.die die).lost = false → (candidates s die).head? = some (l, x) → launchAt s l = some x →
    x.unplaced = i :: r → (∀ j ∈ r, j / x.clusterSize ≠ i / x.clusterSize) →
    let buds := launchBudgets s x
    let spad := peekVirt s x.ctx (x.kbase.toNat + 0x38) 4
    Chosen s die c x buds spad → freePslots s l x ≠ [] → (∀ y ∈ blocksOf s l, y.2.cluster ≠ i / x.clusterSize) →
    ∃ u h p t blk, exec (.blockPlacement die) s = .next u ∧ h < 64 ∧ blockAt s (c * 64 + h) = none ∧ p < x.psmax ∧
      (∀ y ∈ blocksOf s l, y.2.pslot ≠ p) ∧
      blk = { launch := l, ctx := x.ctx, index := i, cluster := i / x.clusterSize, rank := i % x.clusterSize, pslot := p, spadSize := spad
              shadowed := bitOf x.attr 0, idempotent := bitOf x.attr 1, mates := blk.mates } ∧ blk.mates.look 0 (i % x.clusterSize) = c + 1 ∧
      blockAt u (c * 64 + h) = some blk ∧ (∀ b, b ≠ c * 64 + h → blockAt u b = blockAt s b) ∧ (u.core c).ctx = some x.ctx ∧
      launchAt u l = some { x with unplaced := x.unplaced.filter (fun j => j != i) } ∧ SameMemory s u ∧
      u = offerEvent t c (BitVec.ofNat 64 (1 + (if bitOf x.attr 2 then 1 else 0) * 2 ^ 8 + 0xFFFE * 2 ^ 16 +
          (p * 2 ^ 16 + i % x.clusterSize * 2 ^ 8 + h) * 2 ^ 32))
        (BitVec.ofNat 64 (if bitOf x.attr 2 then
          let first := x.ntiles * x.tileIt * i / (x.gx * x.gy * x.gz)
          first + (x.ntiles * x.tileIt * (i + 1) / (x.gx * x.gy * x.gz) - first) * 2 ^ 32 else i))) ∧
  (∀ s die, 8 ≤ die ∨ (s.die die).lost = true ∨ candidates s die = [] → exec (.blockPlacement die) s = .next s) ∧
  (∀ s c ctx k, contextAt s ctx = some k → c < 256 → (s.core c).ctx = some ctx → (coxAt s c).ctx = none → k.saving = false → s.sys.pwr = 0 →
    ∃ u, exec (.contextInstall c ctx) s = .next u ∧ u = { s with cores := u.cores, coxes := u.coxes, sights := u.sights, dies := u.dies } ∧
      coxAt u c = { pc := k.kbase + (BitVec.ofNat 64 (peekVirt s ctx (k.kbase.toNat + 0x10) 4) &&& ~~~ 3)
                    xvec := k.kbase + (BitVec.ofNat 64 (peekVirt s ctx (k.kbase.toNat + 0x14) 4) &&& ~~~ 3)
                    ctx := some ctx, lmlim := k.lmlim, events := (coxAt s c).events, held := (coxAt s c).held } ∧
      u.core c = { s.core c with accs := [], fregs := [], l1 := [], fills := (s.core c).fills.map (fun f => { f with inst := false, die := false }) } ∧
      u.die (c / 32) = { s.die (c / 32) with cache := [] } ∧ (∀ e, e ≠ c / 32 → u.die e = s.die e) ∧ ∀ d, d ≠ c → coxAt u d = coxAt s d ∧
        u.core d = if d / 32 = c / 32 then { s.core d with fills := (s.core d).fills.map (fun f => { f with die := false }) } else s.core d) ∧
  (∀ s c ctx, contextAt s ctx = none ∨ (s.core c).ctx ≠ some ctx ∨ (coxAt s c).ctx ≠ none ∨ s.sys.pwr ≠ 0 → exec (.contextInstall c ctx) s = .next s) ∧
  (∀ s l e x, launchAt s l = some x → launchOver s l x = true → (slotOf s x.queue).isSome = true → x.status ≤ 2 →
    reportsBefore s l x = false → (∀ u, activeUmp s = some u → u.2.holding = false) →
    let v := x.queue / 128
    let all := s.ctxMeter.look 0 x.ctx + e
    let energy := if x.state = .waiting then 0 else all
    let used := if x.state = .waiting then s.acctUse.look 0 v else s.acctUse.look 0 v + all - min x.est (s.acctUse.look 0 v + all)
    ∃ u y rest, exec (.launchComplete l e) s = .next u ∧ u.complQ = s.complQ ++ launchRecordOf x energy :: rest ∧ SameMemory s u ∧
      launchAt u l = some y ∧ y = { x with state := .completed, energy := energy, ended := s.nextId, unplaced := []
                                           graphDone := y.graphDone, phaseDone := y.phaseDone, jobDone := y.jobDone } ∧
      (∀ r ∈ rest, 1 ≤ r.level ∧ r.level ≤ 3 ∧ r.queue = x.queue) ∧
      u.acctUse.look 0 v < 2 ^ 48 ∧ (used < 2 ^ 48 → u.acctUse.look 0 v = used)) ∧
  ∀ s l e, (∀ x, launchAt s l = some x → launchOver s l x = false ∨ slotOf s x.queue = none) → exec (.launchComplete l e) s = .next s

/-- A context is stopped, then saved whole once nothing of it is in flight, restored to the cores named, and removed when its launch has completed
(R417, R418, R433). -/
def Obligations.ContextSwitch : Prop :=
  (∀ s ctx k, contextAt s ctx = some k → s.sys.anchorLost = false → (∀ v ∈ s.saved, v.ctx ≠ ctx) →
    (k.saving = false → exec (.contextSave ctx) s = .next { s with contexts := s.contexts.put none ctx (some { k with saving := true }) }) ∧
    (k.saving = true → ctxQuiet s ctx = false → exec (.contextSave ctx) s = .next s) ∧
    (k.saving = true → ctxQuiet s ctx = true → Sound s → Tab.wf none s.blocks = true → ∃ u v, exec (.contextSave ctx) s = .next u ∧ u.saved = s.saved ++ [v] ∧ v.ctx = ctx ∧
      (∀ j w, waveAt s j = some w → ctxOf s w = ctx → waveAt u j = none ∧ ∃ y, (j, y) ∈ v.waves ∧ y.num = w.num ∧ y.sregs = w.sregs ∧
        y.exec = w.exec ∧ y.vregs = w.vregs ∧ y.vtags = w.vtags ∧ y.mregs = w.mregs ∧ y.stack = w.stack) ∧
      (∀ j w, waveAt s j = some w → ctxOf s w ≠ ctx → (waveAt u j).isSome = true) ∧
      (∀ b x, blockAt s b = some x → x.ctx = ctx → blockAt u b = none ∧ ∃ y, (b, y) ∈ v.blocks ∧ y.index = x.index ∧ y.pslot = x.pslot) ∧
      (∀ c, (s.core c).ctx = some ctx → (u.core c).ctx = none ∧ (u.core c).tileQ = [] ∧ (u.core c).copies = [] ∧ (u.core c).chains = [] ∧
        coxAt u c = {} ∧ ∃ x, (c, x, coxAt s c) ∈ v.cores ∧ x.slots = (s.core c).slots ∧
        ((∀ r ∈ (s.core c).tileQ, r.running = false) → x.tileQ = (s.core c).tileQ) ∧
        (∀ r ∈ x.tileQ, r.running = false ∧ ∃ q ∈ (s.core c).tileQ, q.id = r.id ∧ q.work = r.work) ∧
        x.copies.map (fun r => (r.id, r.work)) = (s.core c).copies.map (fun r => (r.id, r.work)) ∧
        x.chains.map (·.hdr) = (s.core c).chains.map (·.hdr) ∧
        ∀ n, (x.arrays.look {} n).owner = ((s.core c).arrays.look {} n).owner ∧ (x.arrays.look {} n).queue = ((s.core c).arrays.look {} n).queue) ∧
      ∀ c, (scarabAt s c).bound = true → (scarabAt s c).ctx = ctx → (scarabAt u c).state = .saved)) ∧
  (∀ s ctx, contextAt s ctx = none ∨ s.sys.anchorLost = true ∨ (∃ v ∈ s.saved, v.ctx = ctx) → exec (.contextSave ctx) s = .next s) ∧
  (∀ s ctx m k v l n q, contextAt s ctx = some k → s.saved.find? (fun y => y.ctx == ctx) = some v → s.sys.anchorLost = false →
    launchAt s k.launch = some l → slotOf s l.queue = some (n, q) →
    (q.suspended = true ∨ restoreFits s v m = false → exec (.contextRestore ctx m) s = .next s) ∧
    (q.suspended = false → restoreFits s v m = true →
      let s0 := v.cores.foldl (freeArrays m ctx) s
      (∀ c i a, restoreImages m ctx s0 v.cores = .error (c, i, a) → ∃ u y, exec (.contextRestore ctx m) s = .next u ∧ (∀ z ∈ u.saved, z.ctx ≠ ctx) ∧
        launchAt u k.launch = some y ∧ y.status = (if l.status = 2 then 2 else 1) ∧ y.unplaced = [] ∧ y.toEnd = 0 ∧
        y.err = some (l.err.getD { cls := 7, unit := 1, unitIx := c, addr := a, num := i })) ∧
      (∀ t, restoreImages m ctx s0 v.cores = .ok t → (v.waves.map (fun p => moveKey m p.1)).Nodup → (v.blocks.map (fun p => moveKey m p.1)).Nodup →
        (v.cores.map (·.1)).Nodup → ∃ u, exec (.contextRestore ctx m) s = .next u ∧ (∀ z ∈ u.saved, z.ctx ≠ ctx) ∧
        (∀ y, contextAt u ctx = some y → y.saving = false) ∧
        (∀ p ∈ v.waves, ∃ y, waveAt u (moveKey m p.1) = some y ∧ y.num = p.2.num ∧ y.sregs = p.2.sregs ∧ y.exec = p.2.exec ∧ y.mregs = p.2.mregs ∧
          y.stack = p.2.stack ∧ y.block = moveKey m p.2.block) ∧
        (∀ p ∈ v.blocks, ∃ y, blockAt u (moveKey m p.1) = some y ∧ y.index = p.2.index ∧ y.pslot = p.2.pslot ∧ y.rank = p.2.rank) ∧
        ∀ p ∈ v.cores, (u.core (moveCore m p.1)).ctx = some ctx ∧ coxAt u (moveCore m p.1) = { p.2.2 with icache := [] } ∧
          (u.core (moveCore m p.1)).tileQ = p.2.1.tileQ.map (moveTile m)))) ∧
  (∀ s ctx m, contextAt s ctx = none ∨ (∀ v ∈ s.saved, v.ctx ≠ ctx) → exec (.contextRestore ctx m) s = .next s) ∧
  (∀ s ctx k, contextAt s ctx = some k →
    (∀ x, launchAt s k.launch = some x → x.state = .completed → x.ctx = ctx → s.sys.anchorLost = false → coxesDrained s ctx = true →
      ∃ u, exec (.contextRemove ctx) s = .next u ∧ u = { s with cores := u.cores, coxes := u.coxes, dies := u.dies, contexts := u.contexts } ∧
        contextAt u ctx = none ∧ (∀ c, c ≠ ctx → contextAt u c = contextAt s c) ∧ (∀ c, (u.core c).ctx ≠ some ctx) ∧
        (∀ c, (s.core c).ctx = some ctx → coxAt u c = {}) ∧
        (∀ c e, e ∈ (u.core c).tlb ∨ e ∈ (u.die c).tlb → e.ctx ≠ ctx) ∧
        ∀ c a x, (c, a) ∈ u.cores → x ∈ a.arrays → x.2.owner ≠ some ctx) ∧
    (∀ x, launchAt s k.launch = some x → x.state = .completed → x.ctx = ctx → s.sys.anchorLost = false → coxesDrained s ctx = false →
      exec (.contextRemove ctx) s = .next { s with contexts := s.contexts.put none ctx (some { k with saving := true }) }) ∧
    ((∀ x, launchAt s k.launch = some x → x.state ≠ .completed) → exec (.contextRemove ctx) s = .next s))

/-- Replays and storms, meters, accounts, and the cap: its shares, its measurement and what throttling leaves an island (R426, R450 to R452). -/
def Obligations.MetersAndCap : Prop :=
  (∀ s n, n < 24 → let x := island s n
    (x.gated = true → exec (.timingReplay n) s = .next s) ∧
    (x.gated = false → max 1 x.limit ≤ x.count ∨ more x.count < max 1 x.limit →
      exec (.timingReplay n) s = .next (setIsland s n { x with count := more x.count })) ∧
    (x.gated = false → x.count < max 1 x.limit → max 1 x.limit ≤ more x.count → exec (.timingReplay n) s =
      .next (islandRecord (setIsland s n { x with count := more x.count, steps := min 255 (x.steps + 1), storms := more x.storms
                                                  mhz := BitVec.ofNat 16 (x.mhz.toNat - 25) }) n)) ∧
    exec (.replayWindowEnd n) s = .next (setIsland s n { x with count := 0 }) ∧
    (x.steps = 0 → exec (.replayStepUp n) s = .next s) ∧
    (x.steps ≠ 0 → exec (.replayStepUp n) s = .next (setIsland s n { x with steps := x.steps - 1, mhz := BitVec.ofNat 16 (x.mhz.toNat + 25) }))) ∧
  (∀ s n, 24 ≤ n → exec (.timingReplay n) s = .next s ∧ exec (.replayWindowEnd n) s = .next s ∧ exec (.replayStepUp n) s = .next s) ∧
  (∀ s n e, 24 < n → exec (.meterTick n e) s = .next s) ∧
  (∀ s n e, n ≤ 24 →
    let whole := e + s.charged.look 0 n / 10000
    let cs := if n < 24 then (islandCtxs s n).eraseDups else []
    let cfg := s.sys.capcfg
    let watts := if cfg.toNat % 2 ^ 16 = 0 ∨ 2800 < cfg.toNat % 2 ^ 16 then 2800 else cfg.toNat % 2 ^ 16
    let ms := max 1 (cfg.toNat / 2 ^ 32 % 2 ^ 8)
    let ewin := cfg.toNat / 2 ^ 16 % 2 ^ 16
    ∃ u, exec (.meterTick n e) s = .next u ∧
      u = { s with meters := u.meters, charged := u.charged, ctxMeter := u.ctxMeter, islands := u.islands, sys := u.sys } ∧
      (∀ m, u.meters.look 0 m = (if m = n then s.meters.look 0 n + BitVec.ofNat 64 whole else s.meters.look 0 m) ∧
        u.charged.look 0 m = (if m = n then s.charged.look 0 m % 10000 else s.charged.look 0 m)) ∧
      (∀ c, c ∉ cs → u.ctxMeter.look 0 c = s.ctxMeter.look 0 c) ∧ (∀ c, s.ctxMeter.look 0 c ≤ u.ctxMeter.look 0 c) ∧
      (cs ≠ [] → (cs.map (u.ctxMeter.look 0)).sum = (cs.map (s.ctxMeter.look 0)).sum + whole) ∧
      (s.sys.anchorLost = true → u.sys = s.sys ∧ u.islands = s.islands) ∧
      (s.sys.anchorLost = false →
        let total := ((List.range 25).map (fun i => (u.meters.look 0 i).toNat)).sum
        let used := total - windowStart s
        u.sys = { s.sys with avgw := min 65535 (used / (1000 * ms)), throttling := u.sys.throttling, admitStop := u.sys.throttling
                             throttles := u.sys.throttles, hist := u.sys.hist } ∧
        (u.sys.throttling = true ↔ watts * 1000 * ms < used ∨ (ewin ≠ 0 ∧ ewin * 10 ^ 6 < used)) ∧
        u.sys.throttles = (if u.sys.throttling = true ∧ s.sys.throttling = false then more s.sys.throttles else s.sys.throttles) ∧
        (∃ h, u.sys.hist = h ++ [(s.time, total)]) ∧ (u.sys.throttling = s.sys.throttling → u.islands = s.islands))) ∧
  (∀ s n v, ∃ u, exec (.acctuseWrite n v) s = .next u ∧ u = { s with acctUse := u.acctUse } ∧
    ∀ m, u.acctUse.look 0 m = if m = n ∧ n < 128 ∧ s.sys.anchorLost = false then v.toNat % 2 ^ 48 else s.acctUse.look 0 m) ∧
  (∀ s v, exec (.capcfgWrite v) s = .next (if s.sys.capcfg.msb ∨ s.sys.anchorLost = true then s else { s with sys := { s.sys with capcfg := v &&& 0x8000FFFFFFFFFFFF } })) ∧
  (∀ s ws, s.sys.anchorLost = true → exec (.capDistribute ws) s = .next s) ∧
  ∀ s ws, s.sys.anchorLost = false →
    let cfg := s.sys.capcfg
    let watts := if cfg.toNat % 2 ^ 16 = 0 ∨ 2800 < cfg.toNat % 2 ^ 16 then 2800 else cfg.toNat % 2 ^ 16
    let part := fun n => if (island s n).gated then 0 else (if n < 16 then 100 else 130) * (ws[n]?).getD 0
    ∃ u, exec (.capDistribute ws) s = .next u ∧ u = { s with islands := u.islands } ∧
      ∀ n, n < 24 →
        let x := island s n
        let y := island u n
        let full := (Config.islandMhz n).toNat - 25 * x.steps
        y = { x with limw := y.limw, mhz := y.mhz, mv := y.mv, duty := y.duty } ∧
        y.limw = watts * part n / max 1 ((List.range 24).map part).sum ∧
        (s.sys.throttling = false → y.mhz.toNat = full ∧ y.mv = Config.islandMv n ∧ y.duty = false) ∧
        y.mhz.toNat ≤ full ∧ (400 ≤ full → 400 ≤ y.mhz.toNat) ∧ (y.duty = true → y.mhz.toNat ≤ 400)

/-- Power requests: a write during another request is ignored, a refused one has only its status, and each target has its effect (R400, R454,
R455). -/
def Obligations.PowerRequests : Prop :=
  (∀ s e kind ix ch target, (e, kind, ix, ch, target) ∈
      ([(.pkgA0, 0, 0, 0, 0), (.pkgA2, 0, 0, 0, 2), (.pkgA3, 0, 0, 0, 3), (.islandReturn ix, 1, ix, 0, 0), (.islandGate ix, 1, ix, 0, 1),
        (.stackReturn ix, 2, ix, 0, 0), (.stackSelfRefresh ix, 2, ix, 0, 2), (.stackPowerOff ix, 2, ix, 0, 3), (.channelReturn ix ch, 3, ix, ch, 0),
        (.channelSelfRefresh ix ch, 3, ix, ch, 2), (.channelPowerOff ix ch, 3, ix, ch, 3)] : List (Instr × Nat × Nat × Nat × Nat)) →
    ¬ TakesRequest s kind ix ch target → exec e s = .next s) ∧
  (∀ s v, TakesRequest s (fieldOf v 20 4) (fieldOf v 12 8) (fieldOf v 8 4) (fieldOf v 0 3) →
    exec (.pwrreqMalformed v) s = .next (if reqListed v then s
      else { s with sys := { s.sys with pwrreq := request (fieldOf v 20 4) (fieldOf v 12 8) (fieldOf v 8 4) (fieldOf v 0 3) 5 } })) ∧
  (∀ v, reqListed v = true ↔
    let ix := fieldOf v 12 8
    let ch := fieldOf v 8 4
    let t := fieldOf v 0 3
    (fieldOf v 20 4 = 0 ∧ ix = 0 ∧ ch = 0 ∧ t ∈ [0, 2, 3]) ∨ (fieldOf v 20 4 = 1 ∧ ix < 24 ∧ ch = 0 ∧ t ∈ [0, 1]) ∨
    (fieldOf v 20 4 = 2 ∧ ix < 16 ∧ ch = 0 ∧ t ∈ [0, 2, 3]) ∨ (fieldOf v 20 4 = 3 ∧ ix < 16 ∧ t ∈ [0, 2, 3])) ∧
  (∀ s n, TakesRequest s 1 n 0 1 →
    (24 ≤ n → Answers (.islandGate n) s 1 n 0 1 5 s) ∧
    (n < 24 → ¬ Allowed s.sys.life s.sys.dbg 1 s.sys.session s.sys.conf (haltedOn s n) → Answers (.islandGate n) s 1 n 0 1 4 s) ∧
    (n < 24 → Allowed s.sys.life s.sys.dbg 1 s.sys.session s.sys.conf (haltedOn s n) →
      (islandCtxs s n ≠ [] → ∃ t, Answers (.islandGate n) s 1 n 0 1 1 t ∧ t = { s with contexts := t.contexts } ∧
        ∀ c k, contextAt s c = some k → contextAt t c = some (if c ∈ islandCtxs s n then { k with saving := true } else k)) ∧
      (islandCtxs s n = [] → ∃ t, Answers (.islandGate n) s 1 n 0 1 0 t ∧ t = { s with islands := t.islands, cores := t.cores, dies := t.dies } ∧
        island t n = { island s n with gated := true } ∧ (∀ m, m ≠ n → island t m = island s m) ∧
        ∀ c, (c / 16 = n → n < 16 → t.core c = { s.core c with l1 := [], fills := [], icache := [], tlb := [] }) ∧
          (c / 16 ≠ n → t.core c = s.core c)))) ∧
  (∀ s n, TakesRequest s 1 n 0 0 → (24 ≤ n → Answers (.islandReturn n) s 1 n 0 0 5 s) ∧
    (n < 24 → Answers (.islandReturn n) s 1 n 0 0 0 (setIsland s n { island s n with gated := false }))) ∧
  (∀ s n ch e, let ks := if e = 2 then (List.range 16).map (fun c => n * 16 + c) else [n * 16 + ch]
    let c := if e = 2 then 0 else ch
    let bad := 16 ≤ n ∨ (e = 3 ∧ 16 ≤ ch)
    e = 2 ∨ e = 3 →
    (TakesRequest s e n c 2 → let i := if e = 2 then Instr.stackSelfRefresh n else .channelSelfRefresh n ch
      (bad → Answers i s e n c 2 5 s) ∧ (¬ bad → chansQuiet s ks = false → Answers i s e n c 2 1 s) ∧
      (¬ bad → chansQuiet s ks = true → ∃ t, Answers i s e n c 2 0 t ∧ ChannelsTo s t ks .selfRefresh ∧ ScarabsSleep s t ks)) ∧
    (TakesRequest s e n c 0 → let i := if e = 2 then Instr.stackReturn n else .channelReturn n ch
      (bad → Answers i s e n c 0 5 s) ∧
      (¬ bad → ∃ t, Answers i s e n c 0 0 t ∧ ChannelsTo s t ks .on ∧ ScarabsWake s t ks)) ∧
    (TakesRequest s e n c 3 → let i := if e = 2 then Instr.stackPowerOff n else .channelPowerOff n ch
      (bad → Answers i s e n c 3 5 s) ∧ (¬ bad → HoldsLive s ks → Answers i s e n c 3 2 s) ∧
      (¬ bad → ¬ HoldsLive s ks → ∃ t, Answers i s e n c 3 0 t ∧ ChannelsTo s t ks .off ∧ t.scarabs = s.scarabs))) ∧
  (∀ s, TakesRequest s 0 0 0 2 →
    (s.sys.dbg = 2 → Answers .pkgA2 s 0 0 0 2 4 s) ∧
    (allSaved s = true ↔ (∀ p ∈ s.cores, p.2.ctx = none) ∧ ∀ p ∈ s.scarabs, p.2.bound = false) ∧
    (s.sys.dbg ≠ 2 → allSaved s = false → ∃ t, Answers .pkgA2 s 0 0 0 2 1 t ∧ t = { s with contexts := t.contexts }) ∧
    (s.sys.dbg ≠ 2 → allSaved s = true → ∃ t, Answers .pkgA2 s 0 0 0 2 0 t ∧ t.sys.pwr = 2 ∧ SameMemory s t ∧
      (s.mcGiB = 0 → t.dirty = []) ∧ (∀ c, (t.core c).l1 = [] ∧ (t.core c).accs = [] ∧ (t.core c).icache = []) ∧ (∀ d, (t.die d).cache = []) ∧
      ∀ k, k < 256 → t.sys.chans.look .on k = .selfRefresh)) ∧
  (∀ s, TakesRequest s 0 0 0 3 →
    let work := (∃ p ∈ s.qslots, p.2 ≠ none) ∨ ∃ p ∈ s.contexts, p.2 ≠ none ∧ ∀ v ∈ s.saved, v.ctx ≠ p.1
    (s.sys.dbg = 2 → Answers .pkgA3 s 0 0 0 3 4 s) ∧ (s.sys.dbg ≠ 2 → work → Answers .pkgA3 s 0 0 0 3 3 s) ∧
    (s.sys.dbg ≠ 2 → ¬ work → HoldsLive s (List.range 256) → Answers .pkgA3 s 0 0 0 3 2 s) ∧
    (s.sys.dbg ≠ 2 → ¬ work → ¬ HoldsLive s (List.range 256) → ∃ t, Answers .pkgA3 s 0 0 0 3 0 t ∧ t.sys.pwr = 3 ∧ SameMemory s t ∧
      (∀ c x, ((t.core c).arrays.look {} x).owner = none ∧ ((t.core c).arrays.look {} x).state = .empty) ∧
      (∀ n, n < 24 → (island t n).gated = true) ∧ ∀ k, k < 256 → t.sys.chans.look .on k = .off)) ∧
  ∀ s, TakesRequest s 0 0 0 0 → ∃ t, Answers .pkgA0 s 0 0 0 0 0 t ∧ t.sys.pwr = 0 ∧ SameMemory s t ∧ (∀ n, n < 24 → (island t n).gated = false) ∧
    (∀ k, k < 256 → t.sys.chans.look .on k = .on) ∧ ScarabsWake s t (List.range 256) ∧
    ∀ n, (t.ports.look {} n) = if s.sys.pwr = 0 ∨ (s.ports.look {} n).state = .down then s.ports.look {} n
      else { s.ports.look {} n with state := .training }

/-- Debug and confidential states, the lifecycle, package reset, the loss of a compute die, of the anchor die and of a stack, and the management
registers (R20 to R23, R453, R454, R457, R459). What the dies of a lost compute die had in flight is a free value; that memory of the stacks
reads 0 after a reset is the model's choice (assumption 2). -/
def Obligations.SecurityAndLoss : Prop :=
  (∀ s (m : BitVec 2), s.sys.anchorLost = false → m ≠ 3 → Allowed s.sys.life m.toNat (pwrState s) s.sys.session s.sys.conf (haltedGated s) →
    exec (.debugRequest m) s = .next { s with sys := { s.sys with dbg := m.toNat, answer := 0 } }) ∧
  (∀ s (m : BitVec 2), s.sys.anchorLost = false → m ≠ 3 → ¬ Allowed s.sys.life m.toNat (pwrState s) s.sys.session s.sys.conf (haltedGated s) →
    exec (.debugRequest m) s = .next { s with sys := { s.sys with answer := 4 } }) ∧
  (∀ s (m : BitVec 2), m = 3 ∨ s.sys.anchorLost = true → exec (.debugRequest m) s = .next s) ∧
  (∀ s vf, (vf < 128 → s.sys.anchorLost = false → s.sys.life = 2 → s.sys.dbg ≠ 2 → vf ∉ s.sys.running →
      exec (.tdispBind vf) s = .next { s with sys := { s.sys with running := s.sys.running ++ [vf], answer := 0 } }) ∧
    (vf < 128 → s.sys.anchorLost = false → vf ∉ s.sys.running → s.sys.life ≠ 2 ∨ s.sys.dbg = 2 →
      exec (.tdispBind vf) s = .next { s with sys := { s.sys with answer := 4 } }) ∧
    (s.sys.anchorLost = true → exec (.tdispRunExit vf) s = .next s) ∧
    (s.sys.anchorLost = false → exec (.tdispRunExit vf) s = .next { s with sys := { s.sys with running := s.sys.running.filter (fun v => decide (v ≠ vf)) } })) ∧
  (∀ s on, s.sys.anchorLost = false → exec (.spdmSession on) s = .next { s with sys := { s.sys with session := on } }) ∧
  (∀ s, s.sys.anchorLost = false →
    exec (.lifecycleAdvance false) s = .next s ∧ (3 ≤ s.sys.life → exec (.lifecycleAdvance true) s = .next s) ∧
    (s.sys.life < 2 → exec (.lifecycleAdvance true) s = .next { s with sys := { s.sys with life := s.sys.life + 1 } }) ∧
    (s.sys.life = 2 → ∃ u, exec (.lifecycleAdvance true) s = .next u ∧ u.sys = { s.sys with life := 3 } ∧ u.saved = [] ∧ u.scRows = [] ∧ (∀ c, (u.core c).l1 = []) ∧ (∀ d, (u.die d).cache = []) ∧
      ∀ a, u.mem.look 0 a = if a < 2 ^ 51 then 0 else s.mem.look 0 a)) ∧
  (∀ s ok, ∃ u, exec (.packageReset ok) s = .next u ∧
    u = { State.reset with tick := s.tick, agenda := s.agenda, cur := s.cur, mem := u.mem, md := u.md, poison := u.poison, grades := u.grades, pkg := s.pkg, slGiB := s.slGiB, mcGiB := s.mcGiB
                           ports := u.ports, coxes := u.coxes, cores := u.cores
                           sys := { State.reset.sys with life := s.sys.life, bootFailed := !ok, measure := Config.firmware s.tick } } ∧
    (∀ a, a < 2 ^ 51 → u.mem.look 0 a = 0) ∧ (s.dirty = [] → ∀ a, 2 ^ 51 ≤ a → u.mem.look 0 a = s.mem.look 0 a) ∧
    (∀ n, n < 32 → ok = true → (u.ports.look {} n).state = .training) ∧
    (∀ c, u.core c = { arrays := (u.core c).arrays } ∧ ∀ x, let a := (s.core c).arrays.look {} x
      (u.core c).arrays.look {} x = { cells := a.cells, pcount := a.pcount }) ∧
    (ok = false → (coxAt u 256).stopped = true ∧ (coxAt u 257).stopped = true)) ∧
  (∀ s d, d < 8 → (s.die d).lost = false → ∃ u, exec (.computeDieFailure d) s = .next u ∧ (u.die d).lost = true ∧
    (∀ k, dieOf k = d → waveAt u k = none) ∧ (∀ b, b / 2048 = d → blockAt u b = none) ∧ (∀ c, c / 32 = d → coxAt u c = {} ∧ u.core c = {}) ∧
    (∀ q ∈ u.packets, dieOf q.wave ≠ d) ∧
    ∀ b x l, blockAt s b = some x → b / 2048 = d → launchAt s x.launch = some l → ∃ y, launchAt u x.launch = some y ∧ y.unplaced = [] ∧
      d ∈ y.failedDies ∧ (y.status = 1 ∨ y.status = 2) ∧ (l.err = none → ∃ e, y.err = some e)) ∧
  (∀ s d, 8 ≤ d ∨ (s.die d).lost = true → exec (.computeDieFailure d) s = .next s) ∧
  (∀ s, ∃ u, exec .anchorDieLoss s = .next u ∧ u = { s with hostLines := [], snoops := [], umps := u.umps, complQ := u.complQ, sys := { s.sys with anchorLost := true, session := false } } ∧
    u.complQ = s.complQ ++ s.umps.flatMap (fun p => match p.2 with
      | some y => y.kept
      | none => []) ∧ ∀ i y, s.umps.look none i = some y → u.umps.look none i = some { y with holding := false, kept := [] }) ∧
  (∀ s n, n < 16 → n ∉ s.sys.stacksLost → ∃ u, exec (.stackBaseDieLoss n) s = .next u ∧
    u = { s with sys := { s.sys with stacksLost := s.sys.stacksLost ++ [n], refuseLaunches := true, msix := u.sys.msix }
                 ports := u.ports, banks := u.banks, cper := u.cper, nextId := u.nextId } ∧ (∃ r ∈ u.cper, r.sev = 3 ∧ r.die = 32 + n) ∧
    (∀ p, (u.ports.look {} p) = if p / 2 = n then { s.ports.look {} p with state := .down } else s.ports.look {} p) ∧
    ∀ a, homeStack (physNorm u a) = n → (physKind u a = .inter ∨ physKind u a = .pool) → isPoison u a = true) ∧
  (∀ s b n, s.sys.anchorLost = false → ∃ u, exec (.errorRecordFree b n) s = .next u ∧ u = { s with banks := u.banks } ∧
    u.banks.look [] b = (s.banks.look [] b).filter (fun r => decide (r.slot ≠ n)) ∧ ∀ c, c ≠ b → u.banks.look [] c = s.banks.look [] c) ∧
  (∀ s r v, s.sys.anchorLost = true → exec (.registerWrite r v) s = .next s) ∧
  ∀ s v, s.sys.anchorLost = false →
    exec (.registerWrite .peerto v) s = .next { s with peerto := v.toNat % 2 ^ 20 } ∧
    exec (.registerWrite .readOnly v) s = .next s ∧
    (∀ p, p < 256 → exec (.registerWrite (.peerrt p) v) s = .next { s with peerrt := s.peerrt.put 0 p (v.setWidth 32 &&& 0x9F9F9F9F) }) ∧
    (∀ n, n < 128 → exec (.registerWrite (.acctbud n) v) s = .next { s with acctBud := s.acctBud.put 0 n (v.toNat % 2 ^ 48) }) ∧
    (∀ n, n < 64 → exec (.registerWrite (.mscwbase n) v) s =
      .next { s with mscw := s.mscw.put {} n { s.mscw.look {} n with base := v &&& 0x000FFFFFFFE00000 } }) ∧
    (∀ n, n < 24 → exec (.registerWrite (.islreplay n) v) s = .next (setIsland s n { island s n with limit := v.toNat / 2 ^ 32 % 2 ^ 16 })) ∧
    (∀ vf i n u, vf < 128 → i < 128 → activeUmp s = some (n, u) →
      exec (.registerWrite (.queuePtr vf i) v) s = .next (umpWrite s (u.qtab.toNat + 8 * (128 * vf + i)) 8 v.toNat)) ∧
    ∀ n, exec (.registerWrite (.portctl n) v) s = exec (if v.toNat.testBit 0 then .portDrain n else .portRetrain n) s

/-- A step takes the first turn listed, or the arbiter's, and runs the instruction decoded from where its agent stands; at a clause boundary a
wave starts its next clause, a wave polling polls, and a wave that waits does nothing. -/
def Obligations.StepRunsDecoded : Prop :=
  (∀ s, s.agenda = [] → step s = step { s with agenda := [Config.arbiter s.tick] }) ∧
  (∀ s i r, s.agenda = .event i :: r → step s = exec i (begun s r .outside)) ∧
  (∀ s r, s.agenda = .agent .outside :: r → step s = .next (begun s r .outside)) ∧
  (∀ s r u, s.agenda = .upset u :: r → step s = .next (upset (begun s r .outside) u)) ∧
  (∀ s r k w, s.agenda = .agent (.wave k) :: r → waveAt s k = some w → w.ended = false → Runs s (ctxOf s w) →
    (∀ b, blockAt s w.block = some b → b.rolling = false) →
    let t := begun s r (.wave k)
    (outranked t k w = true → step s = .next t) ∧
    (w.hold = .no → (∀ c i, w.clause = some c → outranked t k w = false → StandsAt c i → step s = exec i t) ∧
      (∀ b, blockAt s w.block = some b → b.halted = false → (∀ c, w.clause = some c → c.pos = 0) →
        (w.clause ≠ none ∨ switchDue t w = false → step s = exec (.clauseStart (.wave k)) t) ∧
        (w.clause = none → switchDue t w = true → step s = exec (.pathSwitch k) t))) ∧
    (w.hold = .waitm → step s = exec (.waitmPoll k) t) ∧ (w.hold = .parked → step s = .next t)) ∧
  (∀ s r k c i, s.agenda = .agent (.scarab k) :: r → (scarabAt s k).state = .running → k / 16 ∉ s.sys.stacksLost →
    (scarabAt s k).clause = some c → StandsAt c i → step s = exec i (begun s r (.scarab k))) ∧
  ∀ s r c u w i, s.agenda = .agent (.cox c) :: r →
    let x := coxAt s c
    x.stopped = false → (c < 256 → x.ctx ≠ none) → c < 258 → (256 ≤ c → s.sys.anchorLost = false) → (∀ k, x.ctx = some k → Runs s k) →
    (∀ n l, x.wait ≠ .dict n l) → coxFetch (begun s r (.cox c)) c = (u, some w) → decode (.cox w) = .ok i → step s = exec i u

/-- Encoding loses nothing: the bits of every well-formed word of a wave, a scarab, a cox or an umpire decode to it, and every
instruction that some bits decode to has an encoding that decodes to it (R52, R67, R73, R83). -/
def Obligations.DecodeEncode : Prop :=
  (∀ (i : Instr) (c : Code), i.wf = true → encode i = some c → decode c = .ok i) ∧
  ∀ c i, decode c = .ok i → ∃ c', encode i = some c' ∧ decode c' = .ok i

/-- Words written out from the spec's encodings decode to the instructions they stand for (R52, R67, R83). -/
def Obligations.SpecWordsDecode : Prop :=
  decode (.fixed 0x01FFFFFC) = .ok (.bra (BitVec.ofInt 24 (-4))) ∧ decode (.fixed 0x08000032) = .ok (.brdCmp 6 2) ∧
  decode (.fixed 0x0902CA03) = .ok (.jmpt 11 10 3) ∧ decode (.fixed 0x0B100006) = .ok (.call 2 6) ∧ decode (.fixed 0x0F000000) = .ok .exit ∧
  decode (.cox 0xA2800025) = .ok (.csrr 20 0x025) ∧ decode (.cox 0x09A00001) = .ok (.addi 13 0 1) ∧
  decode (.cox 0xC0050000) = .ok (.hdr 5 0) ∧ decode (.cox 0xC5043000) = .ok (.cmpw 8 4 6 0) ∧ decode (.cox 0xE8A60000) = .ok (.kscan 5 6) ∧
  (∃ t, decode (.template 0x00F5D390000000000000000000002C40) = .ok (.add t) ∧ t.fmt = .i32)

/-- Every step keeps memory and the collection of waves in canonical form. -/
def Obligations.StepsKeepSound : Prop := ∀ s s', Sound s → step s = .next s' → Sound s'

/-- The machine right after reset: memory and waves in canonical form, no wave, block, launch or context, every status register of the package
at the value its table gives (R311, R374, R426, R450 to R453). -/
def Obligations.ResetState : Prop :=
  let s := State.reset
  Sound s ∧ s.waves = [] ∧ s.blocks = [] ∧ s.launches = [] ∧ s.contexts = [] ∧ s.qslots = [] ∧ s.kicks = [] ∧ s.complQ = [] ∧ s.time = 0 ∧
  s.banks = [] ∧ s.hostLines = [] ∧ s.peerto = 1000 ∧
  (∀ n, n < 32 → portst s n = (s.ports.look {} n).pool.toNat + 0xF * 2 ^ 20) ∧
  (∀ n, n < 24 → islreplay s n = 4096 * 2 ^ 32) ∧ (∀ n, n < 64 → s.mscw.look {} n = { base := 0, en := false, refused := false, fade := 0, idle := 0, size := 0 }) ∧
  (∀ n, s.meters.look 0 n = 0 ∧ s.acctBud.look 0 n = 0 ∧ s.acctUse.look 0 n = 0 ∧ s.peerrt.look 0 n = 0) ∧
  s.sys.capcfg = 10 * 2 ^ 40 + 10 * 2 ^ 32 + 2800 ∧ capst s = 0 ∧ secst s = s.sys.life ∧ s.sys.pwrreq = 0 ∧
  ∀ k, k < 256 → (scarabAt s k).state = .idle ∧ (scarabAt s k).maskStack = [] ∧ (scarabAt s k).msgs = []

/-- Each event of the package completes with its effect, under the conditions of its rule alone: epochs, windows and extents (R310 to R313), power
requests (R400, R454, R455), security states, losses, reset and register writes (R20 to R23, R453, R454, R457, R459). -/
def Obligations.PackageEventsComplete : Prop :=
  (∀ s, ∃ u, exec .epochBoundary s = .next u ∧ u.bloom = []) ∧
  (∀ s n v, n < 64 → s.sys.anchorLost = false →
    (bitOf v 63 = false → ∃ u, exec (.mscwEnable n v) s = .next u ∧ (u.mscw.look {} n).en = false ∧ (u.mscw.look {} n).size = fieldOf v 0 16) ∧
    (bitOf v 63 = true → MayEnable s n (s.mscw.look {} n).base.toNat (fieldOf v 0 16) →
      ∃ u, exec (.mscwEnable n v) s = .next u ∧ (u.mscw.look {} n).en = true ∧ (u.mscw.look {} n).size = fieldOf v 0 16)) ∧
  (∀ s n base size, s.sys.anchorLost = false → n < 512 → 2 ^ 51 ≤ base → base + size ≤ 2 ^ 52 → (s.extents.look {} n).state = .absent →
    (∀ p ∈ s.extents, p.1 ≠ n → p.2.state ≠ .absent → p.2.base + p.2.size ≤ base ∨ base + size ≤ p.2.base) →
    ∃ u, exec (.extentGrant n base size) s = .next u ∧ u.extents.look {} n = { base := base, size := size, state := .granted, dropped := 0 }) ∧
  (∀ s n, let e : Extent := s.extents.look {} n
    s.sys.anchorLost = false →
    (e.state = .granted → ∃ u, exec (.extentRelease n) s = .next u ∧ u.extents.look {} n = { e with state := .releasing }) ∧
    (e.state = .releasing → extentBusy s e = false → ∃ u, exec (.extentRelease n) s = .next u ∧ u.extents.look {} n = { e with state := .absent }) ∧
    (e.state = .granted ∨ e.state = .releasing →
      ∃ u, exec (.extentForcedRelease n) s = .next u ∧ (u.extents.look {} n).state = .revoked)) ∧
  (∀ s, TakesRequest s 0 0 0 0 → ∃ u, exec .pkgA0 s = .next u ∧ u.sys.pwr = 0 ∧ u.sys.pwrreq = request 0 0 0 0 0) ∧
  (∀ s, TakesRequest s 0 0 0 2 → s.sys.dbg ≠ 2 → allSaved s = true →
    ∃ u, exec .pkgA2 s = .next u ∧ u.sys.pwr = 2 ∧ u.sys.pwrreq = request 0 0 0 2 0) ∧
  (∀ s, TakesRequest s 0 0 0 3 → s.sys.dbg ≠ 2 → (∀ p ∈ s.qslots, p.2 = none) →
    (∀ p ∈ s.contexts, p.2 ≠ none → ∃ v ∈ s.saved, v.ctx = p.1) → ¬ HoldsLive s (List.range 256) →
    ∃ u, exec .pkgA3 s = .next u ∧ u.sys.pwr = 3 ∧ u.sys.pwrreq = request 0 0 0 3 0) ∧
  (∀ s n, n < 24 →
    (TakesRequest s 1 n 0 0 → ∃ u, exec (.islandReturn n) s = .next u ∧ (island u n).gated = false ∧ u.sys.pwrreq = request 1 n 0 0 0) ∧
    (TakesRequest s 1 n 0 1 → Allowed s.sys.life s.sys.dbg 1 s.sys.session s.sys.conf (haltedOn s n) → islandCtxs s n = [] →
      ∃ u, exec (.islandGate n) s = .next u ∧ (island u n).gated = true ∧ u.sys.pwrreq = request 1 n 0 1 0)) ∧
  (∀ s n, n < 16 →
    let all := fun (u : State) c => ∀ ch, ch < 16 → u.sys.chans.look .on (n * 16 + ch) = c
    let ks := (List.range 16).map (fun ch => n * 16 + ch)
    (TakesRequest s 2 n 0 0 → ∃ u, exec (.stackReturn n) s = .next u ∧ all u .on ∧ u.sys.pwrreq = request 2 n 0 0 0) ∧
    (TakesRequest s 2 n 0 2 → chansQuiet s ks = true →
      ∃ u, exec (.stackSelfRefresh n) s = .next u ∧ all u .selfRefresh ∧ u.sys.pwrreq = request 2 n 0 2 0) ∧
    (TakesRequest s 2 n 0 3 → ¬ HoldsLive s ks → ∃ u, exec (.stackPowerOff n) s = .next u ∧ all u .off ∧ u.sys.pwrreq = request 2 n 0 3 0)) ∧
  (∀ s n ch, n < 16 → ch < 16 →
    let at_ := fun (u : State) => u.sys.chans.look .on (n * 16 + ch)
    (TakesRequest s 3 n ch 0 → ∃ u, exec (.channelReturn n ch) s = .next u ∧ at_ u = .on ∧ u.sys.pwrreq = request 3 n ch 0 0) ∧
    (TakesRequest s 3 n ch 2 → chansQuiet s [n * 16 + ch] = true →
      ∃ u, exec (.channelSelfRefresh n ch) s = .next u ∧ at_ u = .selfRefresh ∧ u.sys.pwrreq = request 3 n ch 2 0) ∧
    (TakesRequest s 3 n ch 3 → ¬ HoldsLive s [n * 16 + ch] →
      ∃ u, exec (.channelPowerOff n ch) s = .next u ∧ at_ u = .off ∧ u.sys.pwrreq = request 3 n ch 3 0)) ∧
  (∀ s v, TakesRequest s (fieldOf v 20 4) (fieldOf v 12 8) (fieldOf v 8 4) (fieldOf v 0 3) → reqListed v = false →
    ∃ u, exec (.pwrreqMalformed v) s = .next u ∧
      u.sys.pwrreq = request (fieldOf v 20 4) (fieldOf v 12 8) (fieldOf v 8 4) (fieldOf v 0 3) 5) ∧
  (∀ s, s.sys.anchorLost = false →
    (∀ b n, ∃ u, exec (.errorRecordFree b n) s = .next u ∧ ∀ r ∈ u.banks.look [] b, r.slot ≠ n) ∧
    (∀ m : BitVec 2, m ≠ 3 → Allowed s.sys.life m.toNat (pwrState s) s.sys.session s.sys.conf (haltedGated s) →
      ∃ u, exec (.debugRequest m) s = .next u ∧ u.sys.dbg = m.toNat) ∧
    (∀ vf, vf < 128 → s.sys.life = 2 → s.sys.dbg ≠ 2 → ∃ u, exec (.tdispBind vf) s = .next u ∧ vf ∈ u.sys.running) ∧
    (∀ vf, ∃ u, exec (.tdispRunExit vf) s = .next u ∧ vf ∉ u.sys.running) ∧
    (∀ on, ∃ u, exec (.spdmSession on) s = .next u ∧ u.sys.session = on) ∧
    (s.sys.life < 3 → ∃ u, exec (.lifecycleAdvance true) s = .next u ∧ u.sys.life = s.sys.life + 1) ∧
    ∀ v, ∃ u, exec (.registerWrite .peerto v) s = .next u ∧ u.peerto = v.toNat % 2 ^ 20) ∧
  (∀ s ok, ∃ u, exec (.packageReset ok) s = .next u ∧ u.waves = [] ∧ u.blocks = [] ∧ u.launches = [] ∧ u.sys.bootFailed = !ok) ∧
  (∀ s d, d < 8 → (s.die d).lost = false → ∃ u, exec (.computeDieFailure d) s = .next u ∧ (u.die d).lost = true) ∧
  (∀ s, ∃ u, exec .anchorDieLoss s = .next u ∧ u.sys.anchorLost = true) ∧
  ∀ s n, n < 16 → n ∉ s.sys.stacksLost → ∃ u, exec (.stackBaseDieLoss n) s = .next u ∧ n ∈ u.sys.stacksLost ∧ u.sys.refuseLaunches = true

/-- Integer arithmetic, logic, shifts and bit operations: each lane's result by its rule (R152, R154 to R161). -/
def Obligations.IntegerOperations : Prop := Claims.IntegerArithmetic ∧ Claims.LogicAndShifts ∧ Claims.BitOperations

/-- Floating-point arithmetic, comparison and classification (R196 to R200, R204, R205). -/
def Obligations.FloatOperations : Prop := Claims.FloatArithmetic ∧ Claims.FloatCompareAndClass

/-- Uniform branches and indirect jumps (R136, R138, R139). -/
def Obligations.UniformJumps : Prop := Claims.UniformBranches ∧ Claims.IndirectJumps

/-- `join` and `exit` (R130, R142, R143). -/
def Obligations.JoinsAndExits : Prop := Claims.Joins ∧ Claims.ExitEndsLanes

/-- Where a result lands: registers, pairs, scalars and masks (R35, R148, R149, R151). -/
def Obligations.ResultDestinations : Prop := Claims.ResultDestination ∧ Claims.MaskDestination

/-- The words that queue tile records, and `trd` and `twr` (10_tile_tasks.md). -/
def Obligations.TileWords : Prop := Claims.TileWordsQueue ∧ Claims.TileRegisterWrite

/-- The completion of tile tasks, of compression and of multicast (10_tile_tasks.md). -/
def Obligations.TileTasks : Prop := Claims.TmmaCompletes ∧ Claims.CompressAndMulticast

/-- Loads and stores, and register runs (12_memory_access.md). -/
def Obligations.LoadsStoresAndRuns : Prop := Claims.LoadsAndStores ∧ Claims.RegisterRuns

/-- The events of waves, and compaction (06_control_flow.md, 02_clauses_and_words.md). -/
def Obligations.WavesAndCompaction : Prop := Claims.WaveEvents ∧ Claims.Compaction

/-- Links, ports, and the accesses of other agents (16_async_fabric.md, 20_system.md). -/
def Obligations.LinksAndAgents : Prop := Claims.LinksAndPorts ∧ Claims.OtherAgents
end

