-- ==== Sys2Proof/Laws/Tab.lean ====
section
/-! SUPPORT. Laws of sparse tables: a read after a write, and the canonical form every write keeps. -/

namespace Sys2Proof.Tab

variable {α : Type}

@[simp] theorem look_nil (d : α) (k : Nat) : Tab.look d [] k = d := rfl

theorem look_ins_self (d : α) (t : Tab α) (k : Nat) (v : α) : Tab.look d (Tab.ins t k v) k = v := by
  induction t with
  | nil => simp [Tab.ins, Tab.look]
  | cons p t ih =>
    obtain ⟨j, u⟩ := p
    simp only [Tab.ins]
    split
    · simp [Tab.look]
    · split <;> simp_all [Tab.look]

theorem look_ins_ne (d : α) (t : Tab α) {k j : Nat} (v : α) (h : j ≠ k) :
    Tab.look d (Tab.ins t k v) j = Tab.look d t j := by
  induction t with
  | nil => simp [Tab.ins, Tab.look, h]
  | cons p t ih =>
    obtain ⟨i, u⟩ := p
    simp only [Tab.ins]
    split
    · subst i; simp [Tab.look, h]
    · split <;> simp_all [Tab.look]

theorem look_del_self (d : α) (t : Tab α) (k : Nat) : Tab.look d (Tab.del t k) k = d := by
  induction t with
  | nil => rfl
  | cons p t ih =>
    obtain ⟨j, u⟩ := p
    simp only [Tab.del]
    split <;> simp_all [Tab.look]

theorem look_del_ne (d : α) (t : Tab α) {k j : Nat} (h : j ≠ k) :
    Tab.look d (Tab.del t k) j = Tab.look d t j := by
  induction t with
  | nil => rfl
  | cons p t ih =>
    obtain ⟨i, u⟩ := p
    simp only [Tab.del]
    split <;> simp_all [Tab.look]

variable [DecidableEq α]

@[simp] theorem look_put_self (d : α) (t : Tab α) (k : Nat) (v : α) : Tab.look d (Tab.put d t k v) k = v := by
  unfold Tab.put
  split
  · simp_all [look_del_self]
  · exact look_ins_self d t k v

theorem look_put_ne (d : α) (t : Tab α) {k j : Nat} (v : α) (h : j ≠ k) :
    Tab.look d (Tab.put d t k v) j = Tab.look d t j := by
  unfold Tab.put
  split
  · exact look_del_ne d t h
  · exact look_ins_ne d t v h

theorem look_put (d : α) (t : Tab α) (k j : Nat) (v : α) :
    Tab.look d (Tab.put d t k v) j = if j = k then v else Tab.look d t j := by
  split
  · subst j; exact look_put_self d t k v
  · exact look_put_ne d t v ‹_›

/-! ## The canonical form -/

/-- Every key of a table lies above `b`. -/
def above (b : Nat) (t : Tab α) : Prop := ∀ p ∈ t, b < p.1

theorem wf_cons (d : α) (j : Nat) (v : α) (t : Tab α) :
    Tab.wf d ((j, v) :: t) = true ↔ v ≠ d ∧ above j t ∧ Tab.wf d t = true := by
  induction t generalizing j v with
  | nil => simp [Tab.wf, above]
  | cons p t ih =>
    obtain ⟨k, u⟩ := p
    simp only [Tab.wf, Bool.and_eq_true, decide_eq_true_eq, above, List.mem_cons, forall_eq_or_imp]
    constructor
    · rintro ⟨⟨hv, hjk⟩, ht⟩
      have := ((ih k u).1 ht).2.1
      exact ⟨hv, ⟨hjk, fun p hp => Nat.lt_trans hjk (this p hp)⟩, ht⟩
    · rintro ⟨hv, ⟨hjk, -⟩, ht⟩
      exact ⟨⟨hv, hjk⟩, ht⟩

omit [DecidableEq α] in
theorem del_sub {t : Tab α} {k : Nat} {p : Nat × α} (h : p ∈ Tab.del t k) : p ∈ t := by
  induction t with
  | nil => exact h
  | cons q t ih =>
    obtain ⟨j, u⟩ := q
    simp only [Tab.del] at h
    split at h
    · exact List.mem_cons_of_mem _ (ih h)
    · rcases List.mem_cons.1 h with h | h
      · simp [h]
      · exact List.mem_cons_of_mem _ (ih h)

omit [DecidableEq α] in
theorem ins_sub {t : Tab α} {k : Nat} {v : α} {p : Nat × α} (h : p ∈ Tab.ins t k v) : p = (k, v) ∨ p ∈ t := by
  induction t with
  | nil => simpa [Tab.ins] using h
  | cons q t ih =>
    obtain ⟨j, u⟩ := q
    simp only [Tab.ins] at h
    split at h
    · rcases List.mem_cons.1 h with h | h
      · exact .inl h
      · exact .inr (List.mem_cons_of_mem _ h)
    · split at h
      · rcases List.mem_cons.1 h with h | h
        · exact .inl h
        · exact .inr h
      · rcases List.mem_cons.1 h with h | h
        · exact .inr (by simp [h])
        · exact (ih h).imp id (List.mem_cons_of_mem _)

theorem wf_del (d : α) {t : Tab α} (h : Tab.wf d t = true) (k : Nat) : Tab.wf d (Tab.del t k) = true := by
  induction t with
  | nil => exact h
  | cons p t ih =>
    obtain ⟨j, u⟩ := p
    obtain ⟨hu, ha, ht⟩ := (wf_cons d j u t).1 h
    simp only [Tab.del]
    split
    · exact ih ht
    · exact (wf_cons d j u _).2 ⟨hu, fun p hp => ha p (del_sub hp), ih ht⟩

theorem wf_ins (d : α) {t : Tab α} (h : Tab.wf d t = true) (k : Nat) {v : α} (hv : v ≠ d) :
    Tab.wf d (Tab.ins t k v) = true := by
  induction t with
  | nil => simp [Tab.ins, Tab.wf, hv]
  | cons p t ih =>
    obtain ⟨j, u⟩ := p
    obtain ⟨hu, ha, ht⟩ := (wf_cons d j u t).1 h
    simp only [Tab.ins]
    split
    · subst j; exact (wf_cons d k v t).2 ⟨hv, ha, ht⟩
    · split
      · next hkj =>
        refine (wf_cons d k v _).2 ⟨hv, fun p hp => ?_, h⟩
        rcases List.mem_cons.1 hp with rfl | hp
        · exact hkj
        · exact Nat.lt_trans hkj (ha p hp)
      · refine (wf_cons d j u _).2 ⟨hu, fun p hp => ?_, ih ht⟩
        rcases ins_sub hp with rfl | hp
        · show j < k; omega
        · exact ha p hp

/-- A write keeps the canonical form. -/
theorem wf_put (d : α) {t : Tab α} (h : Tab.wf d t = true) (k : Nat) (v : α) : Tab.wf d (Tab.put d t k v) = true := by
  unfold Tab.put
  split
  · exact wf_del d h k
  · exact wf_ins d h k ‹_›

/-- Leaving entries out keeps the canonical form. -/
theorem wf_filter (d : α) {t : Tab α} (h : Tab.wf d t = true) (f : Nat × α → Bool) : Tab.wf d (t.filter f) = true := by
  induction t with
  | nil => exact h
  | cons p t ih =>
    obtain ⟨j, u⟩ := p
    obtain ⟨hu, ha, ht⟩ := (wf_cons d j u t).1 h
    by_cases hf : f (j, u) = true
    · rw [List.filter_cons_of_pos hf]
      exact (wf_cons d j u _).2 ⟨hu, fun p hp => ha p (List.mem_filter.1 hp).1, ih ht⟩
    · rw [List.filter_cons_of_neg hf]; exact ih ht

/-- A run of writes keeps the canonical form. -/
theorem wf_foldl_put {β : Type} (d : α) (l : List β) (key : β → Nat) (val : β → α) {t : Tab α} (h : Tab.wf d t = true) :
    Tab.wf d (l.foldl (fun t b => Tab.put d t (key b) (val b)) t) = true := by
  induction l generalizing t with
  | nil => exact h
  | cons b l ih => exact ih (wf_put d h _ _)

end Sys2Proof.Tab
end

