-- ==== Sys2Proof/Laws/State.lean ====
section
/-! SUPPORT. What each named update of the state leaves alone, field by field, and what it makes of its own collection. -/

namespace Sys2Proof.Machine

/-! ## setWave -/

@[simp] theorem setWave_tick (s : State) (k : Nat) (x : Wave) : (setWave s k x).tick = s.tick := rfl
@[simp] theorem setWave_time (s : State) (k : Nat) (x : Wave) : (setWave s k x).time = s.time := rfl
@[simp] theorem setWave_agenda (s : State) (k : Nat) (x : Wave) : (setWave s k x).agenda = s.agenda := rfl
@[simp] theorem setWave_cur (s : State) (k : Nat) (x : Wave) : (setWave s k x).cur = s.cur := rfl
@[simp] theorem setWave_nextId (s : State) (k : Nat) (x : Wave) : (setWave s k x).nextId = s.nextId := rfl
@[simp] theorem setWave_mem (s : State) (k : Nat) (x : Wave) : (setWave s k x).mem = s.mem := rfl
@[simp] theorem setWave_clock (s : State) (k : Nat) (x : Wave) : (setWave s k x).clock = s.clock := rfl
@[simp] theorem setWave_hist (s : State) (k : Nat) (x : Wave) : (setWave s k x).hist = s.hist := rfl
@[simp] theorem setWave_sights (s : State) (k : Nat) (x : Wave) : (setWave s k x).sights = s.sights := rfl
@[simp] theorem setWave_hand (s : State) (k : Nat) (x : Wave) : (setWave s k x).hand = s.hand := rfl
@[simp] theorem setWave_poison (s : State) (k : Nat) (x : Wave) : (setWave s k x).poison = s.poison := rfl
@[simp] theorem setWave_md (s : State) (k : Nat) (x : Wave) : (setWave s k x).md = s.md := rfl
@[simp] theorem setWave_dirty (s : State) (k : Nat) (x : Wave) : (setWave s k x).dirty = s.dirty := rfl
@[simp] theorem setWave_slice (s : State) (k : Nat) (x : Wave) : (setWave s k x).slice = s.slice := rfl
@[simp] theorem setWave_pkg (s : State) (k : Nat) (x : Wave) : (setWave s k x).pkg = s.pkg := rfl
@[simp] theorem setWave_grades (s : State) (k : Nat) (x : Wave) : (setWave s k x).grades = s.grades := rfl
@[simp] theorem setWave_slGiB (s : State) (k : Nat) (x : Wave) : (setWave s k x).slGiB = s.slGiB := rfl
@[simp] theorem setWave_mcGiB (s : State) (k : Nat) (x : Wave) : (setWave s k x).mcGiB = s.mcGiB := rfl
@[simp] theorem setWave_msc (s : State) (k : Nat) (x : Wave) : (setWave s k x).msc = s.msc := rfl
@[simp] theorem setWave_bloom (s : State) (k : Nat) (x : Wave) : (setWave s k x).bloom = s.bloom := rfl
@[simp] theorem setWave_mscw (s : State) (k : Nat) (x : Wave) : (setWave s k x).mscw = s.mscw := rfl
@[simp] theorem setWave_extents (s : State) (k : Nat) (x : Wave) : (setWave s k x).extents = s.extents := rfl
@[simp] theorem setWave_blocks (s : State) (k : Nat) (x : Wave) : (setWave s k x).blocks = s.blocks := rfl
@[simp] theorem setWave_bars (s : State) (k : Nat) (x : Wave) : (setWave s k x).bars = s.bars := rfl
@[simp] theorem setWave_cores (s : State) (k : Nat) (x : Wave) : (setWave s k x).cores = s.cores := rfl
@[simp] theorem setWave_coxes (s : State) (k : Nat) (x : Wave) : (setWave s k x).coxes = s.coxes := rfl
@[simp] theorem setWave_umps (s : State) (k : Nat) (x : Wave) : (setWave s k x).umps = s.umps := rfl
@[simp] theorem setWave_dies (s : State) (k : Nat) (x : Wave) : (setWave s k x).dies = s.dies := rfl
@[simp] theorem setWave_contexts (s : State) (k : Nat) (x : Wave) : (setWave s k x).contexts = s.contexts := rfl
@[simp] theorem setWave_saved (s : State) (k : Nat) (x : Wave) : (setWave s k x).saved = s.saved := rfl
@[simp] theorem setWave_launches (s : State) (k : Nat) (x : Wave) : (setWave s k x).launches = s.launches := rfl
@[simp] theorem setWave_taken (s : State) (k : Nat) (x : Wave) : (setWave s k x).taken = s.taken := rfl
@[simp] theorem setWave_kicks (s : State) (k : Nat) (x : Wave) : (setWave s k x).kicks = s.kicks := rfl
@[simp] theorem setWave_qslots (s : State) (k : Nat) (x : Wave) : (setWave s k x).qslots = s.qslots := rfl
@[simp] theorem setWave_complQ (s : State) (k : Nat) (x : Wave) : (setWave s k x).complQ = s.complQ := rfl
@[simp] theorem setWave_packets (s : State) (k : Nat) (x : Wave) : (setWave s k x).packets = s.packets := rfl
@[simp] theorem setWave_keepers (s : State) (k : Nat) (x : Wave) : (setWave s k x).keepers = s.keepers := rfl
@[simp] theorem setWave_notices (s : State) (k : Nat) (x : Wave) : (setWave s k x).notices = s.notices := rfl
@[simp] theorem setWave_keeperHeld (s : State) (k : Nat) (x : Wave) : (setWave s k x).keeperHeld = s.keeperHeld := rfl
@[simp] theorem setWave_ports (s : State) (k : Nat) (x : Wave) : (setWave s k x).ports = s.ports := rfl
@[simp] theorem setWave_peerto (s : State) (k : Nat) (x : Wave) : (setWave s k x).peerto = s.peerto := rfl
@[simp] theorem setWave_peerrt (s : State) (k : Nat) (x : Wave) : (setWave s k x).peerrt = s.peerrt := rfl
@[simp] theorem setWave_hostLines (s : State) (k : Nat) (x : Wave) : (setWave s k x).hostLines = s.hostLines := rfl
@[simp] theorem setWave_snoops (s : State) (k : Nat) (x : Wave) : (setWave s k x).snoops = s.snoops := rfl
@[simp] theorem setWave_scarabs (s : State) (k : Nat) (x : Wave) : (setWave s k x).scarabs = s.scarabs := rfl
@[simp] theorem setWave_scRows (s : State) (k : Nat) (x : Wave) : (setWave s k x).scRows = s.scRows := rfl
@[simp] theorem setWave_islands (s : State) (k : Nat) (x : Wave) : (setWave s k x).islands = s.islands := rfl
@[simp] theorem setWave_meters (s : State) (k : Nat) (x : Wave) : (setWave s k x).meters = s.meters := rfl
@[simp] theorem setWave_ctxMeter (s : State) (k : Nat) (x : Wave) : (setWave s k x).ctxMeter = s.ctxMeter := rfl
@[simp] theorem setWave_charged (s : State) (k : Nat) (x : Wave) : (setWave s k x).charged = s.charged := rfl
@[simp] theorem setWave_acctBud (s : State) (k : Nat) (x : Wave) : (setWave s k x).acctBud = s.acctBud := rfl
@[simp] theorem setWave_acctUse (s : State) (k : Nat) (x : Wave) : (setWave s k x).acctUse = s.acctUse := rfl
@[simp] theorem setWave_banks (s : State) (k : Nat) (x : Wave) : (setWave s k x).banks = s.banks := rfl
@[simp] theorem setWave_cper (s : State) (k : Nat) (x : Wave) : (setWave s k x).cper = s.cper := rfl
@[simp] theorem setWave_sys (s : State) (k : Nat) (x : Wave) : (setWave s k x).sys = s.sys := rfl

/-! ## setBlock -/

@[simp] theorem setBlock_tick (s : State) (k : Nat) (x : Block) : (setBlock s k x).tick = s.tick := rfl
@[simp] theorem setBlock_time (s : State) (k : Nat) (x : Block) : (setBlock s k x).time = s.time := rfl
@[simp] theorem setBlock_agenda (s : State) (k : Nat) (x : Block) : (setBlock s k x).agenda = s.agenda := rfl
@[simp] theorem setBlock_cur (s : State) (k : Nat) (x : Block) : (setBlock s k x).cur = s.cur := rfl
@[simp] theorem setBlock_nextId (s : State) (k : Nat) (x : Block) : (setBlock s k x).nextId = s.nextId := rfl
@[simp] theorem setBlock_mem (s : State) (k : Nat) (x : Block) : (setBlock s k x).mem = s.mem := rfl
@[simp] theorem setBlock_clock (s : State) (k : Nat) (x : Block) : (setBlock s k x).clock = s.clock := rfl
@[simp] theorem setBlock_hist (s : State) (k : Nat) (x : Block) : (setBlock s k x).hist = s.hist := rfl
@[simp] theorem setBlock_sights (s : State) (k : Nat) (x : Block) : (setBlock s k x).sights = s.sights := rfl
@[simp] theorem setBlock_hand (s : State) (k : Nat) (x : Block) : (setBlock s k x).hand = s.hand := rfl
@[simp] theorem setBlock_poison (s : State) (k : Nat) (x : Block) : (setBlock s k x).poison = s.poison := rfl
@[simp] theorem setBlock_md (s : State) (k : Nat) (x : Block) : (setBlock s k x).md = s.md := rfl
@[simp] theorem setBlock_dirty (s : State) (k : Nat) (x : Block) : (setBlock s k x).dirty = s.dirty := rfl
@[simp] theorem setBlock_slice (s : State) (k : Nat) (x : Block) : (setBlock s k x).slice = s.slice := rfl
@[simp] theorem setBlock_pkg (s : State) (k : Nat) (x : Block) : (setBlock s k x).pkg = s.pkg := rfl
@[simp] theorem setBlock_grades (s : State) (k : Nat) (x : Block) : (setBlock s k x).grades = s.grades := rfl
@[simp] theorem setBlock_slGiB (s : State) (k : Nat) (x : Block) : (setBlock s k x).slGiB = s.slGiB := rfl
@[simp] theorem setBlock_mcGiB (s : State) (k : Nat) (x : Block) : (setBlock s k x).mcGiB = s.mcGiB := rfl
@[simp] theorem setBlock_msc (s : State) (k : Nat) (x : Block) : (setBlock s k x).msc = s.msc := rfl
@[simp] theorem setBlock_bloom (s : State) (k : Nat) (x : Block) : (setBlock s k x).bloom = s.bloom := rfl
@[simp] theorem setBlock_mscw (s : State) (k : Nat) (x : Block) : (setBlock s k x).mscw = s.mscw := rfl
@[simp] theorem setBlock_extents (s : State) (k : Nat) (x : Block) : (setBlock s k x).extents = s.extents := rfl
@[simp] theorem setBlock_waves (s : State) (k : Nat) (x : Block) : (setBlock s k x).waves = s.waves := rfl
@[simp] theorem setBlock_bars (s : State) (k : Nat) (x : Block) : (setBlock s k x).bars = s.bars := rfl
@[simp] theorem setBlock_cores (s : State) (k : Nat) (x : Block) : (setBlock s k x).cores = s.cores := rfl
@[simp] theorem setBlock_coxes (s : State) (k : Nat) (x : Block) : (setBlock s k x).coxes = s.coxes := rfl
@[simp] theorem setBlock_umps (s : State) (k : Nat) (x : Block) : (setBlock s k x).umps = s.umps := rfl
@[simp] theorem setBlock_dies (s : State) (k : Nat) (x : Block) : (setBlock s k x).dies = s.dies := rfl
@[simp] theorem setBlock_contexts (s : State) (k : Nat) (x : Block) : (setBlock s k x).contexts = s.contexts := rfl
@[simp] theorem setBlock_saved (s : State) (k : Nat) (x : Block) : (setBlock s k x).saved = s.saved := rfl
@[simp] theorem setBlock_launches (s : State) (k : Nat) (x : Block) : (setBlock s k x).launches = s.launches := rfl
@[simp] theorem setBlock_taken (s : State) (k : Nat) (x : Block) : (setBlock s k x).taken = s.taken := rfl
@[simp] theorem setBlock_kicks (s : State) (k : Nat) (x : Block) : (setBlock s k x).kicks = s.kicks := rfl
@[simp] theorem setBlock_qslots (s : State) (k : Nat) (x : Block) : (setBlock s k x).qslots = s.qslots := rfl
@[simp] theorem setBlock_complQ (s : State) (k : Nat) (x : Block) : (setBlock s k x).complQ = s.complQ := rfl
@[simp] theorem setBlock_packets (s : State) (k : Nat) (x : Block) : (setBlock s k x).packets = s.packets := rfl
@[simp] theorem setBlock_keepers (s : State) (k : Nat) (x : Block) : (setBlock s k x).keepers = s.keepers := rfl
@[simp] theorem setBlock_notices (s : State) (k : Nat) (x : Block) : (setBlock s k x).notices = s.notices := rfl
@[simp] theorem setBlock_keeperHeld (s : State) (k : Nat) (x : Block) : (setBlock s k x).keeperHeld = s.keeperHeld := rfl
@[simp] theorem setBlock_ports (s : State) (k : Nat) (x : Block) : (setBlock s k x).ports = s.ports := rfl
@[simp] theorem setBlock_peerto (s : State) (k : Nat) (x : Block) : (setBlock s k x).peerto = s.peerto := rfl
@[simp] theorem setBlock_peerrt (s : State) (k : Nat) (x : Block) : (setBlock s k x).peerrt = s.peerrt := rfl
@[simp] theorem setBlock_hostLines (s : State) (k : Nat) (x : Block) : (setBlock s k x).hostLines = s.hostLines := rfl
@[simp] theorem setBlock_snoops (s : State) (k : Nat) (x : Block) : (setBlock s k x).snoops = s.snoops := rfl
@[simp] theorem setBlock_scarabs (s : State) (k : Nat) (x : Block) : (setBlock s k x).scarabs = s.scarabs := rfl
@[simp] theorem setBlock_scRows (s : State) (k : Nat) (x : Block) : (setBlock s k x).scRows = s.scRows := rfl
@[simp] theorem setBlock_islands (s : State) (k : Nat) (x : Block) : (setBlock s k x).islands = s.islands := rfl
@[simp] theorem setBlock_meters (s : State) (k : Nat) (x : Block) : (setBlock s k x).meters = s.meters := rfl
@[simp] theorem setBlock_ctxMeter (s : State) (k : Nat) (x : Block) : (setBlock s k x).ctxMeter = s.ctxMeter := rfl
@[simp] theorem setBlock_charged (s : State) (k : Nat) (x : Block) : (setBlock s k x).charged = s.charged := rfl
@[simp] theorem setBlock_acctBud (s : State) (k : Nat) (x : Block) : (setBlock s k x).acctBud = s.acctBud := rfl
@[simp] theorem setBlock_acctUse (s : State) (k : Nat) (x : Block) : (setBlock s k x).acctUse = s.acctUse := rfl
@[simp] theorem setBlock_banks (s : State) (k : Nat) (x : Block) : (setBlock s k x).banks = s.banks := rfl
@[simp] theorem setBlock_cper (s : State) (k : Nat) (x : Block) : (setBlock s k x).cper = s.cper := rfl
@[simp] theorem setBlock_sys (s : State) (k : Nat) (x : Block) : (setBlock s k x).sys = s.sys := rfl

/-! ## setCox -/

@[simp] theorem setCox_tick (s : State) (k : Nat) (x : Cox) : (setCox s k x).tick = s.tick := rfl
@[simp] theorem setCox_time (s : State) (k : Nat) (x : Cox) : (setCox s k x).time = s.time := rfl
@[simp] theorem setCox_agenda (s : State) (k : Nat) (x : Cox) : (setCox s k x).agenda = s.agenda := rfl
@[simp] theorem setCox_cur (s : State) (k : Nat) (x : Cox) : (setCox s k x).cur = s.cur := rfl
@[simp] theorem setCox_nextId (s : State) (k : Nat) (x : Cox) : (setCox s k x).nextId = s.nextId := rfl
@[simp] theorem setCox_mem (s : State) (k : Nat) (x : Cox) : (setCox s k x).mem = s.mem := rfl
@[simp] theorem setCox_clock (s : State) (k : Nat) (x : Cox) : (setCox s k x).clock = s.clock := rfl
@[simp] theorem setCox_hist (s : State) (k : Nat) (x : Cox) : (setCox s k x).hist = s.hist := rfl
@[simp] theorem setCox_sights (s : State) (k : Nat) (x : Cox) : (setCox s k x).sights = s.sights := rfl
@[simp] theorem setCox_hand (s : State) (k : Nat) (x : Cox) : (setCox s k x).hand = s.hand := rfl
@[simp] theorem setCox_poison (s : State) (k : Nat) (x : Cox) : (setCox s k x).poison = s.poison := rfl
@[simp] theorem setCox_md (s : State) (k : Nat) (x : Cox) : (setCox s k x).md = s.md := rfl
@[simp] theorem setCox_dirty (s : State) (k : Nat) (x : Cox) : (setCox s k x).dirty = s.dirty := rfl
@[simp] theorem setCox_slice (s : State) (k : Nat) (x : Cox) : (setCox s k x).slice = s.slice := rfl
@[simp] theorem setCox_pkg (s : State) (k : Nat) (x : Cox) : (setCox s k x).pkg = s.pkg := rfl
@[simp] theorem setCox_grades (s : State) (k : Nat) (x : Cox) : (setCox s k x).grades = s.grades := rfl
@[simp] theorem setCox_slGiB (s : State) (k : Nat) (x : Cox) : (setCox s k x).slGiB = s.slGiB := rfl
@[simp] theorem setCox_mcGiB (s : State) (k : Nat) (x : Cox) : (setCox s k x).mcGiB = s.mcGiB := rfl
@[simp] theorem setCox_msc (s : State) (k : Nat) (x : Cox) : (setCox s k x).msc = s.msc := rfl
@[simp] theorem setCox_bloom (s : State) (k : Nat) (x : Cox) : (setCox s k x).bloom = s.bloom := rfl
@[simp] theorem setCox_mscw (s : State) (k : Nat) (x : Cox) : (setCox s k x).mscw = s.mscw := rfl
@[simp] theorem setCox_extents (s : State) (k : Nat) (x : Cox) : (setCox s k x).extents = s.extents := rfl
@[simp] theorem setCox_waves (s : State) (k : Nat) (x : Cox) : (setCox s k x).waves = s.waves := rfl
@[simp] theorem setCox_blocks (s : State) (k : Nat) (x : Cox) : (setCox s k x).blocks = s.blocks := rfl
@[simp] theorem setCox_bars (s : State) (k : Nat) (x : Cox) : (setCox s k x).bars = s.bars := rfl
@[simp] theorem setCox_cores (s : State) (k : Nat) (x : Cox) : (setCox s k x).cores = s.cores := rfl
@[simp] theorem setCox_umps (s : State) (k : Nat) (x : Cox) : (setCox s k x).umps = s.umps := rfl
@[simp] theorem setCox_dies (s : State) (k : Nat) (x : Cox) : (setCox s k x).dies = s.dies := rfl
@[simp] theorem setCox_contexts (s : State) (k : Nat) (x : Cox) : (setCox s k x).contexts = s.contexts := rfl
@[simp] theorem setCox_saved (s : State) (k : Nat) (x : Cox) : (setCox s k x).saved = s.saved := rfl
@[simp] theorem setCox_launches (s : State) (k : Nat) (x : Cox) : (setCox s k x).launches = s.launches := rfl
@[simp] theorem setCox_taken (s : State) (k : Nat) (x : Cox) : (setCox s k x).taken = s.taken := rfl
@[simp] theorem setCox_kicks (s : State) (k : Nat) (x : Cox) : (setCox s k x).kicks = s.kicks := rfl
@[simp] theorem setCox_qslots (s : State) (k : Nat) (x : Cox) : (setCox s k x).qslots = s.qslots := rfl
@[simp] theorem setCox_complQ (s : State) (k : Nat) (x : Cox) : (setCox s k x).complQ = s.complQ := rfl
@[simp] theorem setCox_packets (s : State) (k : Nat) (x : Cox) : (setCox s k x).packets = s.packets := rfl
@[simp] theorem setCox_keepers (s : State) (k : Nat) (x : Cox) : (setCox s k x).keepers = s.keepers := rfl
@[simp] theorem setCox_notices (s : State) (k : Nat) (x : Cox) : (setCox s k x).notices = s.notices := rfl
@[simp] theorem setCox_keeperHeld (s : State) (k : Nat) (x : Cox) : (setCox s k x).keeperHeld = s.keeperHeld := rfl
@[simp] theorem setCox_ports (s : State) (k : Nat) (x : Cox) : (setCox s k x).ports = s.ports := rfl
@[simp] theorem setCox_peerto (s : State) (k : Nat) (x : Cox) : (setCox s k x).peerto = s.peerto := rfl
@[simp] theorem setCox_peerrt (s : State) (k : Nat) (x : Cox) : (setCox s k x).peerrt = s.peerrt := rfl
@[simp] theorem setCox_hostLines (s : State) (k : Nat) (x : Cox) : (setCox s k x).hostLines = s.hostLines := rfl
@[simp] theorem setCox_snoops (s : State) (k : Nat) (x : Cox) : (setCox s k x).snoops = s.snoops := rfl
@[simp] theorem setCox_scarabs (s : State) (k : Nat) (x : Cox) : (setCox s k x).scarabs = s.scarabs := rfl
@[simp] theorem setCox_scRows (s : State) (k : Nat) (x : Cox) : (setCox s k x).scRows = s.scRows := rfl
@[simp] theorem setCox_islands (s : State) (k : Nat) (x : Cox) : (setCox s k x).islands = s.islands := rfl
@[simp] theorem setCox_meters (s : State) (k : Nat) (x : Cox) : (setCox s k x).meters = s.meters := rfl
@[simp] theorem setCox_ctxMeter (s : State) (k : Nat) (x : Cox) : (setCox s k x).ctxMeter = s.ctxMeter := rfl
@[simp] theorem setCox_charged (s : State) (k : Nat) (x : Cox) : (setCox s k x).charged = s.charged := rfl
@[simp] theorem setCox_acctBud (s : State) (k : Nat) (x : Cox) : (setCox s k x).acctBud = s.acctBud := rfl
@[simp] theorem setCox_acctUse (s : State) (k : Nat) (x : Cox) : (setCox s k x).acctUse = s.acctUse := rfl
@[simp] theorem setCox_banks (s : State) (k : Nat) (x : Cox) : (setCox s k x).banks = s.banks := rfl
@[simp] theorem setCox_cper (s : State) (k : Nat) (x : Cox) : (setCox s k x).cper = s.cper := rfl
@[simp] theorem setCox_sys (s : State) (k : Nat) (x : Cox) : (setCox s k x).sys = s.sys := rfl

/-! ## setScarab -/

@[simp] theorem setScarab_tick (s : State) (k : Nat) (x : Scarab) : (setScarab s k x).tick = s.tick := rfl
@[simp] theorem setScarab_time (s : State) (k : Nat) (x : Scarab) : (setScarab s k x).time = s.time := rfl
@[simp] theorem setScarab_agenda (s : State) (k : Nat) (x : Scarab) : (setScarab s k x).agenda = s.agenda := rfl
@[simp] theorem setScarab_cur (s : State) (k : Nat) (x : Scarab) : (setScarab s k x).cur = s.cur := rfl
@[simp] theorem setScarab_nextId (s : State) (k : Nat) (x : Scarab) : (setScarab s k x).nextId = s.nextId := rfl
@[simp] theorem setScarab_mem (s : State) (k : Nat) (x : Scarab) : (setScarab s k x).mem = s.mem := rfl
@[simp] theorem setScarab_clock (s : State) (k : Nat) (x : Scarab) : (setScarab s k x).clock = s.clock := rfl
@[simp] theorem setScarab_hist (s : State) (k : Nat) (x : Scarab) : (setScarab s k x).hist = s.hist := rfl
@[simp] theorem setScarab_sights (s : State) (k : Nat) (x : Scarab) : (setScarab s k x).sights = s.sights := rfl
@[simp] theorem setScarab_hand (s : State) (k : Nat) (x : Scarab) : (setScarab s k x).hand = s.hand := rfl
@[simp] theorem setScarab_poison (s : State) (k : Nat) (x : Scarab) : (setScarab s k x).poison = s.poison := rfl
@[simp] theorem setScarab_md (s : State) (k : Nat) (x : Scarab) : (setScarab s k x).md = s.md := rfl
@[simp] theorem setScarab_dirty (s : State) (k : Nat) (x : Scarab) : (setScarab s k x).dirty = s.dirty := rfl
@[simp] theorem setScarab_slice (s : State) (k : Nat) (x : Scarab) : (setScarab s k x).slice = s.slice := rfl
@[simp] theorem setScarab_pkg (s : State) (k : Nat) (x : Scarab) : (setScarab s k x).pkg = s.pkg := rfl
@[simp] theorem setScarab_grades (s : State) (k : Nat) (x : Scarab) : (setScarab s k x).grades = s.grades := rfl
@[simp] theorem setScarab_slGiB (s : State) (k : Nat) (x : Scarab) : (setScarab s k x).slGiB = s.slGiB := rfl
@[simp] theorem setScarab_mcGiB (s : State) (k : Nat) (x : Scarab) : (setScarab s k x).mcGiB = s.mcGiB := rfl
@[simp] theorem setScarab_msc (s : State) (k : Nat) (x : Scarab) : (setScarab s k x).msc = s.msc := rfl
@[simp] theorem setScarab_bloom (s : State) (k : Nat) (x : Scarab) : (setScarab s k x).bloom = s.bloom := rfl
@[simp] theorem setScarab_mscw (s : State) (k : Nat) (x : Scarab) : (setScarab s k x).mscw = s.mscw := rfl
@[simp] theorem setScarab_extents (s : State) (k : Nat) (x : Scarab) : (setScarab s k x).extents = s.extents := rfl
@[simp] theorem setScarab_waves (s : State) (k : Nat) (x : Scarab) : (setScarab s k x).waves = s.waves := rfl
@[simp] theorem setScarab_blocks (s : State) (k : Nat) (x : Scarab) : (setScarab s k x).blocks = s.blocks := rfl
@[simp] theorem setScarab_bars (s : State) (k : Nat) (x : Scarab) : (setScarab s k x).bars = s.bars := rfl
@[simp] theorem setScarab_cores (s : State) (k : Nat) (x : Scarab) : (setScarab s k x).cores = s.cores := rfl
@[simp] theorem setScarab_coxes (s : State) (k : Nat) (x : Scarab) : (setScarab s k x).coxes = s.coxes := rfl
@[simp] theorem setScarab_umps (s : State) (k : Nat) (x : Scarab) : (setScarab s k x).umps = s.umps := rfl
@[simp] theorem setScarab_dies (s : State) (k : Nat) (x : Scarab) : (setScarab s k x).dies = s.dies := rfl
@[simp] theorem setScarab_contexts (s : State) (k : Nat) (x : Scarab) : (setScarab s k x).contexts = s.contexts := rfl
@[simp] theorem setScarab_saved (s : State) (k : Nat) (x : Scarab) : (setScarab s k x).saved = s.saved := rfl
@[simp] theorem setScarab_launches (s : State) (k : Nat) (x : Scarab) : (setScarab s k x).launches = s.launches := rfl
@[simp] theorem setScarab_taken (s : State) (k : Nat) (x : Scarab) : (setScarab s k x).taken = s.taken := rfl
@[simp] theorem setScarab_kicks (s : State) (k : Nat) (x : Scarab) : (setScarab s k x).kicks = s.kicks := rfl
@[simp] theorem setScarab_qslots (s : State) (k : Nat) (x : Scarab) : (setScarab s k x).qslots = s.qslots := rfl
@[simp] theorem setScarab_complQ (s : State) (k : Nat) (x : Scarab) : (setScarab s k x).complQ = s.complQ := rfl
@[simp] theorem setScarab_packets (s : State) (k : Nat) (x : Scarab) : (setScarab s k x).packets = s.packets := rfl
@[simp] theorem setScarab_keepers (s : State) (k : Nat) (x : Scarab) : (setScarab s k x).keepers = s.keepers := rfl
@[simp] theorem setScarab_notices (s : State) (k : Nat) (x : Scarab) : (setScarab s k x).notices = s.notices := rfl
@[simp] theorem setScarab_keeperHeld (s : State) (k : Nat) (x : Scarab) : (setScarab s k x).keeperHeld = s.keeperHeld := rfl
@[simp] theorem setScarab_ports (s : State) (k : Nat) (x : Scarab) : (setScarab s k x).ports = s.ports := rfl
@[simp] theorem setScarab_peerto (s : State) (k : Nat) (x : Scarab) : (setScarab s k x).peerto = s.peerto := rfl
@[simp] theorem setScarab_peerrt (s : State) (k : Nat) (x : Scarab) : (setScarab s k x).peerrt = s.peerrt := rfl
@[simp] theorem setScarab_hostLines (s : State) (k : Nat) (x : Scarab) : (setScarab s k x).hostLines = s.hostLines := rfl
@[simp] theorem setScarab_snoops (s : State) (k : Nat) (x : Scarab) : (setScarab s k x).snoops = s.snoops := rfl
@[simp] theorem setScarab_scRows (s : State) (k : Nat) (x : Scarab) : (setScarab s k x).scRows = s.scRows := rfl
@[simp] theorem setScarab_islands (s : State) (k : Nat) (x : Scarab) : (setScarab s k x).islands = s.islands := rfl
@[simp] theorem setScarab_meters (s : State) (k : Nat) (x : Scarab) : (setScarab s k x).meters = s.meters := rfl
@[simp] theorem setScarab_ctxMeter (s : State) (k : Nat) (x : Scarab) : (setScarab s k x).ctxMeter = s.ctxMeter := rfl
@[simp] theorem setScarab_charged (s : State) (k : Nat) (x : Scarab) : (setScarab s k x).charged = s.charged := rfl
@[simp] theorem setScarab_acctBud (s : State) (k : Nat) (x : Scarab) : (setScarab s k x).acctBud = s.acctBud := rfl
@[simp] theorem setScarab_acctUse (s : State) (k : Nat) (x : Scarab) : (setScarab s k x).acctUse = s.acctUse := rfl
@[simp] theorem setScarab_banks (s : State) (k : Nat) (x : Scarab) : (setScarab s k x).banks = s.banks := rfl
@[simp] theorem setScarab_cper (s : State) (k : Nat) (x : Scarab) : (setScarab s k x).cper = s.cper := rfl
@[simp] theorem setScarab_sys (s : State) (k : Nat) (x : Scarab) : (setScarab s k x).sys = s.sys := rfl

/-! ## setLaunch -/

@[simp] theorem setLaunch_tick (s : State) (k : Nat) (x : Launch) : (setLaunch s k x).tick = s.tick := rfl
@[simp] theorem setLaunch_time (s : State) (k : Nat) (x : Launch) : (setLaunch s k x).time = s.time := rfl
@[simp] theorem setLaunch_agenda (s : State) (k : Nat) (x : Launch) : (setLaunch s k x).agenda = s.agenda := rfl
@[simp] theorem setLaunch_cur (s : State) (k : Nat) (x : Launch) : (setLaunch s k x).cur = s.cur := rfl
@[simp] theorem setLaunch_nextId (s : State) (k : Nat) (x : Launch) : (setLaunch s k x).nextId = s.nextId := rfl
@[simp] theorem setLaunch_mem (s : State) (k : Nat) (x : Launch) : (setLaunch s k x).mem = s.mem := rfl
@[simp] theorem setLaunch_clock (s : State) (k : Nat) (x : Launch) : (setLaunch s k x).clock = s.clock := rfl
@[simp] theorem setLaunch_hist (s : State) (k : Nat) (x : Launch) : (setLaunch s k x).hist = s.hist := rfl
@[simp] theorem setLaunch_sights (s : State) (k : Nat) (x : Launch) : (setLaunch s k x).sights = s.sights := rfl
@[simp] theorem setLaunch_hand (s : State) (k : Nat) (x : Launch) : (setLaunch s k x).hand = s.hand := rfl
@[simp] theorem setLaunch_poison (s : State) (k : Nat) (x : Launch) : (setLaunch s k x).poison = s.poison := rfl
@[simp] theorem setLaunch_md (s : State) (k : Nat) (x : Launch) : (setLaunch s k x).md = s.md := rfl
@[simp] theorem setLaunch_dirty (s : State) (k : Nat) (x : Launch) : (setLaunch s k x).dirty = s.dirty := rfl
@[simp] theorem setLaunch_slice (s : State) (k : Nat) (x : Launch) : (setLaunch s k x).slice = s.slice := rfl
@[simp] theorem setLaunch_pkg (s : State) (k : Nat) (x : Launch) : (setLaunch s k x).pkg = s.pkg := rfl
@[simp] theorem setLaunch_grades (s : State) (k : Nat) (x : Launch) : (setLaunch s k x).grades = s.grades := rfl
@[simp] theorem setLaunch_slGiB (s : State) (k : Nat) (x : Launch) : (setLaunch s k x).slGiB = s.slGiB := rfl
@[simp] theorem setLaunch_mcGiB (s : State) (k : Nat) (x : Launch) : (setLaunch s k x).mcGiB = s.mcGiB := rfl
@[simp] theorem setLaunch_msc (s : State) (k : Nat) (x : Launch) : (setLaunch s k x).msc = s.msc := rfl
@[simp] theorem setLaunch_bloom (s : State) (k : Nat) (x : Launch) : (setLaunch s k x).bloom = s.bloom := rfl
@[simp] theorem setLaunch_mscw (s : State) (k : Nat) (x : Launch) : (setLaunch s k x).mscw = s.mscw := rfl
@[simp] theorem setLaunch_extents (s : State) (k : Nat) (x : Launch) : (setLaunch s k x).extents = s.extents := rfl
@[simp] theorem setLaunch_waves (s : State) (k : Nat) (x : Launch) : (setLaunch s k x).waves = s.waves := rfl
@[simp] theorem setLaunch_blocks (s : State) (k : Nat) (x : Launch) : (setLaunch s k x).blocks = s.blocks := rfl
@[simp] theorem setLaunch_bars (s : State) (k : Nat) (x : Launch) : (setLaunch s k x).bars = s.bars := rfl
@[simp] theorem setLaunch_cores (s : State) (k : Nat) (x : Launch) : (setLaunch s k x).cores = s.cores := rfl
@[simp] theorem setLaunch_coxes (s : State) (k : Nat) (x : Launch) : (setLaunch s k x).coxes = s.coxes := rfl
@[simp] theorem setLaunch_umps (s : State) (k : Nat) (x : Launch) : (setLaunch s k x).umps = s.umps := rfl
@[simp] theorem setLaunch_dies (s : State) (k : Nat) (x : Launch) : (setLaunch s k x).dies = s.dies := rfl
@[simp] theorem setLaunch_contexts (s : State) (k : Nat) (x : Launch) : (setLaunch s k x).contexts = s.contexts := rfl
@[simp] theorem setLaunch_saved (s : State) (k : Nat) (x : Launch) : (setLaunch s k x).saved = s.saved := rfl
@[simp] theorem setLaunch_taken (s : State) (k : Nat) (x : Launch) : (setLaunch s k x).taken = s.taken := rfl
@[simp] theorem setLaunch_kicks (s : State) (k : Nat) (x : Launch) : (setLaunch s k x).kicks = s.kicks := rfl
@[simp] theorem setLaunch_qslots (s : State) (k : Nat) (x : Launch) : (setLaunch s k x).qslots = s.qslots := rfl
@[simp] theorem setLaunch_complQ (s : State) (k : Nat) (x : Launch) : (setLaunch s k x).complQ = s.complQ := rfl
@[simp] theorem setLaunch_packets (s : State) (k : Nat) (x : Launch) : (setLaunch s k x).packets = s.packets := rfl
@[simp] theorem setLaunch_keepers (s : State) (k : Nat) (x : Launch) : (setLaunch s k x).keepers = s.keepers := rfl
@[simp] theorem setLaunch_notices (s : State) (k : Nat) (x : Launch) : (setLaunch s k x).notices = s.notices := rfl
@[simp] theorem setLaunch_keeperHeld (s : State) (k : Nat) (x : Launch) : (setLaunch s k x).keeperHeld = s.keeperHeld := rfl
@[simp] theorem setLaunch_ports (s : State) (k : Nat) (x : Launch) : (setLaunch s k x).ports = s.ports := rfl
@[simp] theorem setLaunch_peerto (s : State) (k : Nat) (x : Launch) : (setLaunch s k x).peerto = s.peerto := rfl
@[simp] theorem setLaunch_peerrt (s : State) (k : Nat) (x : Launch) : (setLaunch s k x).peerrt = s.peerrt := rfl
@[simp] theorem setLaunch_hostLines (s : State) (k : Nat) (x : Launch) : (setLaunch s k x).hostLines = s.hostLines := rfl
@[simp] theorem setLaunch_snoops (s : State) (k : Nat) (x : Launch) : (setLaunch s k x).snoops = s.snoops := rfl
@[simp] theorem setLaunch_scarabs (s : State) (k : Nat) (x : Launch) : (setLaunch s k x).scarabs = s.scarabs := rfl
@[simp] theorem setLaunch_scRows (s : State) (k : Nat) (x : Launch) : (setLaunch s k x).scRows = s.scRows := rfl
@[simp] theorem setLaunch_islands (s : State) (k : Nat) (x : Launch) : (setLaunch s k x).islands = s.islands := rfl
@[simp] theorem setLaunch_meters (s : State) (k : Nat) (x : Launch) : (setLaunch s k x).meters = s.meters := rfl
@[simp] theorem setLaunch_ctxMeter (s : State) (k : Nat) (x : Launch) : (setLaunch s k x).ctxMeter = s.ctxMeter := rfl
@[simp] theorem setLaunch_charged (s : State) (k : Nat) (x : Launch) : (setLaunch s k x).charged = s.charged := rfl
@[simp] theorem setLaunch_acctBud (s : State) (k : Nat) (x : Launch) : (setLaunch s k x).acctBud = s.acctBud := rfl
@[simp] theorem setLaunch_acctUse (s : State) (k : Nat) (x : Launch) : (setLaunch s k x).acctUse = s.acctUse := rfl
@[simp] theorem setLaunch_banks (s : State) (k : Nat) (x : Launch) : (setLaunch s k x).banks = s.banks := rfl
@[simp] theorem setLaunch_cper (s : State) (k : Nat) (x : Launch) : (setLaunch s k x).cper = s.cper := rfl
@[simp] theorem setLaunch_sys (s : State) (k : Nat) (x : Launch) : (setLaunch s k x).sys = s.sys := rfl

/-! ## setCore -/

@[simp] theorem setCore_tick (s : State) (k : Nat) (x : Core) : (s.setCore k x).tick = s.tick := rfl
@[simp] theorem setCore_time (s : State) (k : Nat) (x : Core) : (s.setCore k x).time = s.time := rfl
@[simp] theorem setCore_agenda (s : State) (k : Nat) (x : Core) : (s.setCore k x).agenda = s.agenda := rfl
@[simp] theorem setCore_cur (s : State) (k : Nat) (x : Core) : (s.setCore k x).cur = s.cur := rfl
@[simp] theorem setCore_nextId (s : State) (k : Nat) (x : Core) : (s.setCore k x).nextId = s.nextId := rfl
@[simp] theorem setCore_mem (s : State) (k : Nat) (x : Core) : (s.setCore k x).mem = s.mem := rfl
@[simp] theorem setCore_clock (s : State) (k : Nat) (x : Core) : (s.setCore k x).clock = s.clock := rfl
@[simp] theorem setCore_hist (s : State) (k : Nat) (x : Core) : (s.setCore k x).hist = s.hist := rfl
@[simp] theorem setCore_sights (s : State) (k : Nat) (x : Core) : (s.setCore k x).sights = s.sights := rfl
@[simp] theorem setCore_hand (s : State) (k : Nat) (x : Core) : (s.setCore k x).hand = s.hand := rfl
@[simp] theorem setCore_poison (s : State) (k : Nat) (x : Core) : (s.setCore k x).poison = s.poison := rfl
@[simp] theorem setCore_md (s : State) (k : Nat) (x : Core) : (s.setCore k x).md = s.md := rfl
@[simp] theorem setCore_dirty (s : State) (k : Nat) (x : Core) : (s.setCore k x).dirty = s.dirty := rfl
@[simp] theorem setCore_slice (s : State) (k : Nat) (x : Core) : (s.setCore k x).slice = s.slice := rfl
@[simp] theorem setCore_pkg (s : State) (k : Nat) (x : Core) : (s.setCore k x).pkg = s.pkg := rfl
@[simp] theorem setCore_grades (s : State) (k : Nat) (x : Core) : (s.setCore k x).grades = s.grades := rfl
@[simp] theorem setCore_slGiB (s : State) (k : Nat) (x : Core) : (s.setCore k x).slGiB = s.slGiB := rfl
@[simp] theorem setCore_mcGiB (s : State) (k : Nat) (x : Core) : (s.setCore k x).mcGiB = s.mcGiB := rfl
@[simp] theorem setCore_msc (s : State) (k : Nat) (x : Core) : (s.setCore k x).msc = s.msc := rfl
@[simp] theorem setCore_bloom (s : State) (k : Nat) (x : Core) : (s.setCore k x).bloom = s.bloom := rfl
@[simp] theorem setCore_mscw (s : State) (k : Nat) (x : Core) : (s.setCore k x).mscw = s.mscw := rfl
@[simp] theorem setCore_extents (s : State) (k : Nat) (x : Core) : (s.setCore k x).extents = s.extents := rfl
@[simp] theorem setCore_waves (s : State) (k : Nat) (x : Core) : (s.setCore k x).waves = s.waves := rfl
@[simp] theorem setCore_blocks (s : State) (k : Nat) (x : Core) : (s.setCore k x).blocks = s.blocks := rfl
@[simp] theorem setCore_bars (s : State) (k : Nat) (x : Core) : (s.setCore k x).bars = s.bars := rfl
@[simp] theorem setCore_coxes (s : State) (k : Nat) (x : Core) : (s.setCore k x).coxes = s.coxes := rfl
@[simp] theorem setCore_umps (s : State) (k : Nat) (x : Core) : (s.setCore k x).umps = s.umps := rfl
@[simp] theorem setCore_dies (s : State) (k : Nat) (x : Core) : (s.setCore k x).dies = s.dies := rfl
@[simp] theorem setCore_contexts (s : State) (k : Nat) (x : Core) : (s.setCore k x).contexts = s.contexts := rfl
@[simp] theorem setCore_saved (s : State) (k : Nat) (x : Core) : (s.setCore k x).saved = s.saved := rfl
@[simp] theorem setCore_launches (s : State) (k : Nat) (x : Core) : (s.setCore k x).launches = s.launches := rfl
@[simp] theorem setCore_taken (s : State) (k : Nat) (x : Core) : (s.setCore k x).taken = s.taken := rfl
@[simp] theorem setCore_kicks (s : State) (k : Nat) (x : Core) : (s.setCore k x).kicks = s.kicks := rfl
@[simp] theorem setCore_qslots (s : State) (k : Nat) (x : Core) : (s.setCore k x).qslots = s.qslots := rfl
@[simp] theorem setCore_complQ (s : State) (k : Nat) (x : Core) : (s.setCore k x).complQ = s.complQ := rfl
@[simp] theorem setCore_packets (s : State) (k : Nat) (x : Core) : (s.setCore k x).packets = s.packets := rfl
@[simp] theorem setCore_keepers (s : State) (k : Nat) (x : Core) : (s.setCore k x).keepers = s.keepers := rfl
@[simp] theorem setCore_notices (s : State) (k : Nat) (x : Core) : (s.setCore k x).notices = s.notices := rfl
@[simp] theorem setCore_keeperHeld (s : State) (k : Nat) (x : Core) : (s.setCore k x).keeperHeld = s.keeperHeld := rfl
@[simp] theorem setCore_ports (s : State) (k : Nat) (x : Core) : (s.setCore k x).ports = s.ports := rfl
@[simp] theorem setCore_peerto (s : State) (k : Nat) (x : Core) : (s.setCore k x).peerto = s.peerto := rfl
@[simp] theorem setCore_peerrt (s : State) (k : Nat) (x : Core) : (s.setCore k x).peerrt = s.peerrt := rfl
@[simp] theorem setCore_hostLines (s : State) (k : Nat) (x : Core) : (s.setCore k x).hostLines = s.hostLines := rfl
@[simp] theorem setCore_snoops (s : State) (k : Nat) (x : Core) : (s.setCore k x).snoops = s.snoops := rfl
@[simp] theorem setCore_scarabs (s : State) (k : Nat) (x : Core) : (s.setCore k x).scarabs = s.scarabs := rfl
@[simp] theorem setCore_scRows (s : State) (k : Nat) (x : Core) : (s.setCore k x).scRows = s.scRows := rfl
@[simp] theorem setCore_islands (s : State) (k : Nat) (x : Core) : (s.setCore k x).islands = s.islands := rfl
@[simp] theorem setCore_meters (s : State) (k : Nat) (x : Core) : (s.setCore k x).meters = s.meters := rfl
@[simp] theorem setCore_ctxMeter (s : State) (k : Nat) (x : Core) : (s.setCore k x).ctxMeter = s.ctxMeter := rfl
@[simp] theorem setCore_charged (s : State) (k : Nat) (x : Core) : (s.setCore k x).charged = s.charged := rfl
@[simp] theorem setCore_acctBud (s : State) (k : Nat) (x : Core) : (s.setCore k x).acctBud = s.acctBud := rfl
@[simp] theorem setCore_acctUse (s : State) (k : Nat) (x : Core) : (s.setCore k x).acctUse = s.acctUse := rfl
@[simp] theorem setCore_banks (s : State) (k : Nat) (x : Core) : (s.setCore k x).banks = s.banks := rfl
@[simp] theorem setCore_cper (s : State) (k : Nat) (x : Core) : (s.setCore k x).cper = s.cper := rfl
@[simp] theorem setCore_sys (s : State) (k : Nat) (x : Core) : (s.setCore k x).sys = s.sys := rfl

/-! ## modSight -/

@[simp] theorem modSight_tick (s : State) (k : Nat) (f : Sight → Sight) : (modSight s k f).tick = s.tick := rfl
@[simp] theorem modSight_time (s : State) (k : Nat) (f : Sight → Sight) : (modSight s k f).time = s.time := rfl
@[simp] theorem modSight_agenda (s : State) (k : Nat) (f : Sight → Sight) : (modSight s k f).agenda = s.agenda := rfl
@[simp] theorem modSight_cur (s : State) (k : Nat) (f : Sight → Sight) : (modSight s k f).cur = s.cur := rfl
@[simp] theorem modSight_nextId (s : State) (k : Nat) (f : Sight → Sight) : (modSight s k f).nextId = s.nextId := rfl
@[simp] theorem modSight_mem (s : State) (k : Nat) (f : Sight → Sight) : (modSight s k f).mem = s.mem := rfl
@[simp] theorem modSight_clock (s : State) (k : Nat) (f : Sight → Sight) : (modSight s k f).clock = s.clock := rfl
@[simp] theorem modSight_hist (s : State) (k : Nat) (f : Sight → Sight) : (modSight s k f).hist = s.hist := rfl
@[simp] theorem modSight_hand (s : State) (k : Nat) (f : Sight → Sight) : (modSight s k f).hand = s.hand := rfl
@[simp] theorem modSight_poison (s : State) (k : Nat) (f : Sight → Sight) : (modSight s k f).poison = s.poison := rfl
@[simp] theorem modSight_md (s : State) (k : Nat) (f : Sight → Sight) : (modSight s k f).md = s.md := rfl
@[simp] theorem modSight_dirty (s : State) (k : Nat) (f : Sight → Sight) : (modSight s k f).dirty = s.dirty := rfl
@[simp] theorem modSight_slice (s : State) (k : Nat) (f : Sight → Sight) : (modSight s k f).slice = s.slice := rfl
@[simp] theorem modSight_pkg (s : State) (k : Nat) (f : Sight → Sight) : (modSight s k f).pkg = s.pkg := rfl
@[simp] theorem modSight_grades (s : State) (k : Nat) (f : Sight → Sight) : (modSight s k f).grades = s.grades := rfl
@[simp] theorem modSight_slGiB (s : State) (k : Nat) (f : Sight → Sight) : (modSight s k f).slGiB = s.slGiB := rfl
@[simp] theorem modSight_mcGiB (s : State) (k : Nat) (f : Sight → Sight) : (modSight s k f).mcGiB = s.mcGiB := rfl
@[simp] theorem modSight_msc (s : State) (k : Nat) (f : Sight → Sight) : (modSight s k f).msc = s.msc := rfl
@[simp] theorem modSight_bloom (s : State) (k : Nat) (f : Sight → Sight) : (modSight s k f).bloom = s.bloom := rfl
@[simp] theorem modSight_mscw (s : State) (k : Nat) (f : Sight → Sight) : (modSight s k f).mscw = s.mscw := rfl
@[simp] theorem modSight_extents (s : State) (k : Nat) (f : Sight → Sight) : (modSight s k f).extents = s.extents := rfl
@[simp] theorem modSight_waves (s : State) (k : Nat) (f : Sight → Sight) : (modSight s k f).waves = s.waves := rfl
@[simp] theorem modSight_blocks (s : State) (k : Nat) (f : Sight → Sight) : (modSight s k f).blocks = s.blocks := rfl
@[simp] theorem modSight_bars (s : State) (k : Nat) (f : Sight → Sight) : (modSight s k f).bars = s.bars := rfl
@[simp] theorem modSight_cores (s : State) (k : Nat) (f : Sight → Sight) : (modSight s k f).cores = s.cores := rfl
@[simp] theorem modSight_coxes (s : State) (k : Nat) (f : Sight → Sight) : (modSight s k f).coxes = s.coxes := rfl
@[simp] theorem modSight_umps (s : State) (k : Nat) (f : Sight → Sight) : (modSight s k f).umps = s.umps := rfl
@[simp] theorem modSight_dies (s : State) (k : Nat) (f : Sight → Sight) : (modSight s k f).dies = s.dies := rfl
@[simp] theorem modSight_contexts (s : State) (k : Nat) (f : Sight → Sight) : (modSight s k f).contexts = s.contexts := rfl
@[simp] theorem modSight_saved (s : State) (k : Nat) (f : Sight → Sight) : (modSight s k f).saved = s.saved := rfl
@[simp] theorem modSight_launches (s : State) (k : Nat) (f : Sight → Sight) : (modSight s k f).launches = s.launches := rfl
@[simp] theorem modSight_taken (s : State) (k : Nat) (f : Sight → Sight) : (modSight s k f).taken = s.taken := rfl
@[simp] theorem modSight_kicks (s : State) (k : Nat) (f : Sight → Sight) : (modSight s k f).kicks = s.kicks := rfl
@[simp] theorem modSight_qslots (s : State) (k : Nat) (f : Sight → Sight) : (modSight s k f).qslots = s.qslots := rfl
@[simp] theorem modSight_complQ (s : State) (k : Nat) (f : Sight → Sight) : (modSight s k f).complQ = s.complQ := rfl
@[simp] theorem modSight_packets (s : State) (k : Nat) (f : Sight → Sight) : (modSight s k f).packets = s.packets := rfl
@[simp] theorem modSight_keepers (s : State) (k : Nat) (f : Sight → Sight) : (modSight s k f).keepers = s.keepers := rfl
@[simp] theorem modSight_notices (s : State) (k : Nat) (f : Sight → Sight) : (modSight s k f).notices = s.notices := rfl
@[simp] theorem modSight_keeperHeld (s : State) (k : Nat) (f : Sight → Sight) : (modSight s k f).keeperHeld = s.keeperHeld := rfl
@[simp] theorem modSight_ports (s : State) (k : Nat) (f : Sight → Sight) : (modSight s k f).ports = s.ports := rfl
@[simp] theorem modSight_peerto (s : State) (k : Nat) (f : Sight → Sight) : (modSight s k f).peerto = s.peerto := rfl
@[simp] theorem modSight_peerrt (s : State) (k : Nat) (f : Sight → Sight) : (modSight s k f).peerrt = s.peerrt := rfl
@[simp] theorem modSight_hostLines (s : State) (k : Nat) (f : Sight → Sight) : (modSight s k f).hostLines = s.hostLines := rfl
@[simp] theorem modSight_snoops (s : State) (k : Nat) (f : Sight → Sight) : (modSight s k f).snoops = s.snoops := rfl
@[simp] theorem modSight_scarabs (s : State) (k : Nat) (f : Sight → Sight) : (modSight s k f).scarabs = s.scarabs := rfl
@[simp] theorem modSight_scRows (s : State) (k : Nat) (f : Sight → Sight) : (modSight s k f).scRows = s.scRows := rfl
@[simp] theorem modSight_islands (s : State) (k : Nat) (f : Sight → Sight) : (modSight s k f).islands = s.islands := rfl
@[simp] theorem modSight_meters (s : State) (k : Nat) (f : Sight → Sight) : (modSight s k f).meters = s.meters := rfl
@[simp] theorem modSight_ctxMeter (s : State) (k : Nat) (f : Sight → Sight) : (modSight s k f).ctxMeter = s.ctxMeter := rfl
@[simp] theorem modSight_charged (s : State) (k : Nat) (f : Sight → Sight) : (modSight s k f).charged = s.charged := rfl
@[simp] theorem modSight_acctBud (s : State) (k : Nat) (f : Sight → Sight) : (modSight s k f).acctBud = s.acctBud := rfl
@[simp] theorem modSight_acctUse (s : State) (k : Nat) (f : Sight → Sight) : (modSight s k f).acctUse = s.acctUse := rfl
@[simp] theorem modSight_banks (s : State) (k : Nat) (f : Sight → Sight) : (modSight s k f).banks = s.banks := rfl
@[simp] theorem modSight_cper (s : State) (k : Nat) (f : Sight → Sight) : (modSight s k f).cper = s.cper := rfl
@[simp] theorem modSight_sys (s : State) (k : Nat) (f : Sight → Sight) : (modSight s k f).sys = s.sys := rfl

/-! ## setDie -/

@[simp] theorem setDie_tick (s : State) (k : Nat) (x : Die) : (s.setDie k x).tick = s.tick := rfl
@[simp] theorem setDie_time (s : State) (k : Nat) (x : Die) : (s.setDie k x).time = s.time := rfl
@[simp] theorem setDie_agenda (s : State) (k : Nat) (x : Die) : (s.setDie k x).agenda = s.agenda := rfl
@[simp] theorem setDie_cur (s : State) (k : Nat) (x : Die) : (s.setDie k x).cur = s.cur := rfl
@[simp] theorem setDie_nextId (s : State) (k : Nat) (x : Die) : (s.setDie k x).nextId = s.nextId := rfl
@[simp] theorem setDie_mem (s : State) (k : Nat) (x : Die) : (s.setDie k x).mem = s.mem := rfl
@[simp] theorem setDie_clock (s : State) (k : Nat) (x : Die) : (s.setDie k x).clock = s.clock := rfl
@[simp] theorem setDie_hist (s : State) (k : Nat) (x : Die) : (s.setDie k x).hist = s.hist := rfl
@[simp] theorem setDie_sights (s : State) (k : Nat) (x : Die) : (s.setDie k x).sights = s.sights := rfl
@[simp] theorem setDie_hand (s : State) (k : Nat) (x : Die) : (s.setDie k x).hand = s.hand := rfl
@[simp] theorem setDie_poison (s : State) (k : Nat) (x : Die) : (s.setDie k x).poison = s.poison := rfl
@[simp] theorem setDie_md (s : State) (k : Nat) (x : Die) : (s.setDie k x).md = s.md := rfl
@[simp] theorem setDie_dirty (s : State) (k : Nat) (x : Die) : (s.setDie k x).dirty = s.dirty := rfl
@[simp] theorem setDie_slice (s : State) (k : Nat) (x : Die) : (s.setDie k x).slice = s.slice := rfl
@[simp] theorem setDie_pkg (s : State) (k : Nat) (x : Die) : (s.setDie k x).pkg = s.pkg := rfl
@[simp] theorem setDie_grades (s : State) (k : Nat) (x : Die) : (s.setDie k x).grades = s.grades := rfl
@[simp] theorem setDie_slGiB (s : State) (k : Nat) (x : Die) : (s.setDie k x).slGiB = s.slGiB := rfl
@[simp] theorem setDie_mcGiB (s : State) (k : Nat) (x : Die) : (s.setDie k x).mcGiB = s.mcGiB := rfl
@[simp] theorem setDie_msc (s : State) (k : Nat) (x : Die) : (s.setDie k x).msc = s.msc := rfl
@[simp] theorem setDie_bloom (s : State) (k : Nat) (x : Die) : (s.setDie k x).bloom = s.bloom := rfl
@[simp] theorem setDie_mscw (s : State) (k : Nat) (x : Die) : (s.setDie k x).mscw = s.mscw := rfl
@[simp] theorem setDie_extents (s : State) (k : Nat) (x : Die) : (s.setDie k x).extents = s.extents := rfl
@[simp] theorem setDie_waves (s : State) (k : Nat) (x : Die) : (s.setDie k x).waves = s.waves := rfl
@[simp] theorem setDie_blocks (s : State) (k : Nat) (x : Die) : (s.setDie k x).blocks = s.blocks := rfl
@[simp] theorem setDie_bars (s : State) (k : Nat) (x : Die) : (s.setDie k x).bars = s.bars := rfl
@[simp] theorem setDie_cores (s : State) (k : Nat) (x : Die) : (s.setDie k x).cores = s.cores := rfl
@[simp] theorem setDie_coxes (s : State) (k : Nat) (x : Die) : (s.setDie k x).coxes = s.coxes := rfl
@[simp] theorem setDie_umps (s : State) (k : Nat) (x : Die) : (s.setDie k x).umps = s.umps := rfl
@[simp] theorem setDie_contexts (s : State) (k : Nat) (x : Die) : (s.setDie k x).contexts = s.contexts := rfl
@[simp] theorem setDie_saved (s : State) (k : Nat) (x : Die) : (s.setDie k x).saved = s.saved := rfl
@[simp] theorem setDie_launches (s : State) (k : Nat) (x : Die) : (s.setDie k x).launches = s.launches := rfl
@[simp] theorem setDie_taken (s : State) (k : Nat) (x : Die) : (s.setDie k x).taken = s.taken := rfl
@[simp] theorem setDie_kicks (s : State) (k : Nat) (x : Die) : (s.setDie k x).kicks = s.kicks := rfl
@[simp] theorem setDie_qslots (s : State) (k : Nat) (x : Die) : (s.setDie k x).qslots = s.qslots := rfl
@[simp] theorem setDie_complQ (s : State) (k : Nat) (x : Die) : (s.setDie k x).complQ = s.complQ := rfl
@[simp] theorem setDie_packets (s : State) (k : Nat) (x : Die) : (s.setDie k x).packets = s.packets := rfl
@[simp] theorem setDie_keepers (s : State) (k : Nat) (x : Die) : (s.setDie k x).keepers = s.keepers := rfl
@[simp] theorem setDie_notices (s : State) (k : Nat) (x : Die) : (s.setDie k x).notices = s.notices := rfl
@[simp] theorem setDie_keeperHeld (s : State) (k : Nat) (x : Die) : (s.setDie k x).keeperHeld = s.keeperHeld := rfl
@[simp] theorem setDie_ports (s : State) (k : Nat) (x : Die) : (s.setDie k x).ports = s.ports := rfl
@[simp] theorem setDie_peerto (s : State) (k : Nat) (x : Die) : (s.setDie k x).peerto = s.peerto := rfl
@[simp] theorem setDie_peerrt (s : State) (k : Nat) (x : Die) : (s.setDie k x).peerrt = s.peerrt := rfl
@[simp] theorem setDie_hostLines (s : State) (k : Nat) (x : Die) : (s.setDie k x).hostLines = s.hostLines := rfl
@[simp] theorem setDie_snoops (s : State) (k : Nat) (x : Die) : (s.setDie k x).snoops = s.snoops := rfl
@[simp] theorem setDie_scarabs (s : State) (k : Nat) (x : Die) : (s.setDie k x).scarabs = s.scarabs := rfl
@[simp] theorem setDie_scRows (s : State) (k : Nat) (x : Die) : (s.setDie k x).scRows = s.scRows := rfl
@[simp] theorem setDie_islands (s : State) (k : Nat) (x : Die) : (s.setDie k x).islands = s.islands := rfl
@[simp] theorem setDie_meters (s : State) (k : Nat) (x : Die) : (s.setDie k x).meters = s.meters := rfl
@[simp] theorem setDie_ctxMeter (s : State) (k : Nat) (x : Die) : (s.setDie k x).ctxMeter = s.ctxMeter := rfl
@[simp] theorem setDie_charged (s : State) (k : Nat) (x : Die) : (s.setDie k x).charged = s.charged := rfl
@[simp] theorem setDie_acctBud (s : State) (k : Nat) (x : Die) : (s.setDie k x).acctBud = s.acctBud := rfl
@[simp] theorem setDie_acctUse (s : State) (k : Nat) (x : Die) : (s.setDie k x).acctUse = s.acctUse := rfl
@[simp] theorem setDie_banks (s : State) (k : Nat) (x : Die) : (s.setDie k x).banks = s.banks := rfl
@[simp] theorem setDie_cper (s : State) (k : Nat) (x : Die) : (s.setDie k x).cper = s.cper := rfl
@[simp] theorem setDie_sys (s : State) (k : Nat) (x : Die) : (s.setDie k x).sys = s.sys := rfl

/-! ## What a collection holds after an update -/

theorem waveAt_setWave (s : State) (k j : Nat) (x : Wave) : waveAt (setWave s k x) j = if j = k then some x else waveAt s j :=
  Tab.look_put none s.waves k j (some x)
@[simp] theorem waveAt_setWave_self (s : State) (k : Nat) (x : Wave) : waveAt (setWave s k x) k = some x := by
  simp [waveAt_setWave]
theorem waveAt_setWave_ne (s : State) {k j : Nat} (x : Wave) (h : j ≠ k) : waveAt (setWave s k x) j = waveAt s j := by
  simp [waveAt_setWave, h]

theorem blockAt_setBlock (s : State) (k j : Nat) (x : Block) : blockAt (setBlock s k x) j = if j = k then some x else blockAt s j :=
  Tab.look_put none s.blocks k j (some x)
@[simp] theorem blockAt_setBlock_self (s : State) (k : Nat) (x : Block) : blockAt (setBlock s k x) k = some x := by
  simp [blockAt_setBlock]

theorem coxAt_setCox (s : State) (k j : Nat) (x : Cox) : coxAt (setCox s k x) j = if j = k then x else coxAt s j :=
  Tab.look_put ({} : Cox) s.coxes k j x
@[simp] theorem coxAt_setCox_self (s : State) (k : Nat) (x : Cox) : coxAt (setCox s k x) k = x := by
  simp [coxAt_setCox]
theorem coxAt_setCox_ne (s : State) {k j : Nat} (x : Cox) (h : j ≠ k) : coxAt (setCox s k x) j = coxAt s j := by
  simp [coxAt_setCox, h]

theorem scarabAt_setScarab (s : State) (k j : Nat) (x : Scarab) :
    scarabAt (setScarab s k x) j = if j = k then x else scarabAt s j := Tab.look_put ({} : Scarab) s.scarabs k j x
@[simp] theorem scarabAt_setScarab_self (s : State) (k : Nat) (x : Scarab) : scarabAt (setScarab s k x) k = x := by
  simp [scarabAt_setScarab]

theorem launchAt_setLaunch (s : State) (k j : Nat) (x : Launch) :
    launchAt (setLaunch s k x) j = if j = k then some x else launchAt s j := Tab.look_put none s.launches k j (some x)
@[simp] theorem launchAt_setLaunch_self (s : State) (k : Nat) (x : Launch) : launchAt (setLaunch s k x) k = some x := by
  simp [launchAt_setLaunch]

theorem core_setCore (s : State) (k j : Nat) (x : Core) : (s.setCore k x).core j = if j = k then x else s.core j :=
  Tab.look_put ({} : Core) s.cores k j x
@[simp] theorem core_setCore_self (s : State) (k : Nat) (x : Core) : (s.setCore k x).core k = x := by simp [core_setCore]

/-! ## Reads that an update of another collection leaves alone -/

@[simp] theorem blockAt_setWave (s : State) (k b : Nat) (x : Wave) : blockAt (setWave s k x) b = blockAt s b := rfl
@[simp] theorem waveAt_setBlock (s : State) (k b : Nat) (x : Block) : waveAt (setBlock s k x) b = waveAt s b := rfl
@[simp] theorem coxAt_setWave (s : State) (k c : Nat) (x : Wave) : coxAt (setWave s k x) c = coxAt s c := rfl
@[simp] theorem coxAt_setCore (s : State) (k c : Nat) (x : Core) : coxAt (s.setCore k x) c = coxAt s c := rfl
@[simp] theorem contextAt_setWave (s : State) (k c : Nat) (x : Wave) : contextAt (setWave s k x) c = contextAt s c := rfl
@[simp] theorem contextAt_setCox (s : State) (k c : Nat) (x : Cox) : contextAt (setCox s k x) c = contextAt s c := rfl
@[simp] theorem core_setWave (s : State) (k c : Nat) (x : Wave) : (setWave s k x).core c = s.core c := rfl
@[simp] theorem core_setCox (s : State) (k c : Nat) (x : Cox) : (setCox s k x).core c = s.core c := rfl
@[simp] theorem waveAt_setCore (s : State) (k c : Nat) (x : Core) : waveAt (s.setCore k x) c = waveAt s c := rfl
@[simp] theorem blockAt_setCore (s : State) (k c : Nat) (x : Core) : blockAt (s.setCore k x) c = blockAt s c := rfl

/-! ## Changing a wave that lives -/

theorem modWave_eq {s : State} {k : Nat} {w : Wave} (h : waveAt s k = some w) (f : Wave → Wave) :
    modWave s k f = setWave s k (f w) := by
  simp [modWave, h]

theorem modBlock_eq {s : State} {b : Nat} {x : Block} (h : blockAt s b = some x) (f : Block → Block) :
    modBlock s b f = setBlock s b (f x) := by
  simp [modBlock, h]

end Sys2Proof.Machine
end

