-- ==== Sys2Proof/Laws/Issue.lean ====
section
/-! SUPPORT. What the shared shapes of issue come to: a word that nothing holds back runs its own rules. -/

namespace Sys2Proof.Machine

open Sys2Proof.Safety

theorem tagCheck_nil (v : View) (w : Wave) : tagCheck v w [] = none := rfl

/-- A wave that observes none of its deferred causes takes none. -/
theorem takeDeferred_none {w : Wave} {p : Deferred → Bool} (roll : Bool) (h : ∀ d ∈ w.deferred, p d = false) :
    takeDeferred w p roll = (w, none) := by
  have h1 : w.deferred.filter p = [] := by
    rw [List.filter_eq_nil_iff]; intro d hd; simp [h d hd]
  have h2 : w.deferred.filter (fun d => !p d) = w.deferred := by
    rw [List.filter_eq_self]; intro d hd; simp [h d hd]
  simp [takeDeferred, h1, h2, lowestCause]

/-- A word that nothing holds back passes its gate, the state as it was. -/
theorem gate_clear {s : State} {k : Nat} {w : Wave} {g : Gate} (h : Clear s k w g) : gate s k w g = .go s w := by
  obtain ⟨hb, hp, hd, ht, hf, hw⟩ := h
  have h1 : (g.reads ++ g.writes).any (fun r => (pendingRegs (w :: homeWaves s k w)).contains r) = false := by
    rw [List.any_eq_false]; intro r hr; simpa using hb r hr
  have h2 : g.reads.find? (fun r => (homeWaves s k w).any (fun x => x.parityBad r)) = none := by
    rw [List.find?_eq_none]; intro r hr; simpa using fun x hx => hp r hr x hx
  have h3 : ∀ d ∈ w.deferred, (g.sees d || w.observes g.reads d) = false := by
    intro d hm
    simp [hd d hm]
  have h4 : w.deferred.any (fun d => g.sees d || w.observes g.reads d) = false := by
    rw [List.any_eq_false]; intro d hm; simpa using h3 d hm
  unfold homeWaves at h1 h2
  simp only [gate, h1, h2, takeDeferred_none (rollsBack s w) h3, h4, ht, hf, hw, Bool.not_true, Bool.or_self, Bool.false_eq_true, if_false]

theorem waveDo_clear {s : State} {k : Nat} {w : Wave} {g : Wave → Gate} {body : State → Nat → Wave → Eff}
    (ht : WaveTurn s k w) (hc : Clear s k w (g w)) : waveDo s g body = .next (finish s k (body s k w)) := by
  simp [waveDo, ht.1, ht.2, gate_clear hc]

theorem eitherDo_wave {s : State} {k : Nat} {w : Wave} {g : Wave → Gate} {regs : List RegRef}
    {f : State → Nat → Wave → Eff} {sf : State → Nat → Scarab → Eff}
    (ht : WaveTurn s k w) (hc : Clear s k w (g w)) : eitherDo s g regs f sf = .next (finish s k (f s k w)) := by
  simp [eitherDo, ht.1, waveDo_clear ht hc]

theorem aluDo_wave {s : State} {k : Nat} {w : Wave} {op : Nat} {t : TOp} {f : View → TOp → Out}
    (ht : WaveTurn s k w) (hc : Clear s k w (opGate op t false noSees w)) :
    aluDo op t s f = .next (retireWord (applyOut s k (f (waveView s k w) t)) k) := by
  simp [aluDo, ht.1, waveDo_clear ht hc, finish]

theorem scarabDo_clear {s : State} {k : Nat} {regs : List RegRef} {body : State → Nat → Scarab → Eff}
    (h : ScarabTurn s k regs) : scarabDo s regs body = .next (scFinish s k (body s k (scarabAt s k))) := by
  have h1 : ((scarabAt s k).pend.flatMap (fun p => p.dst)).any (fun r => regs.contains r) = false := by
    rw [List.any_eq_false]
    intro r hr
    obtain ⟨p, hp, hr⟩ := List.mem_flatMap.1 hr
    simpa using h.2 p hp r hr
  simp only [scarabDo, h.1, h1, Bool.false_eq_true, if_false]

theorem coxDo_clear {s : State} {c : Nat} {i : Instr} {reads : List (BitVec 5)} {body : State → Nat → Cox → CEff}
    (h : CoxTurn s c reads) : coxDo .any i reads s body = .next (coxFinish s c (body s c (coxAt s c))) := by
  have h1 : reads.any (fun r => (coxAt s c).parity.contains r.toNat) = false := by
    rw [List.any_eq_false]; intro r hr; simpa using h.2 r hr
  have h2 : (CoxKind.any == CoxKind.core) = false := rfl
  have h3 : (CoxKind.any == CoxKind.umpire) = false := rfl
  simp only [coxDo, h.1, h1, h2, h3, Bool.false_and, Bool.or_self, Bool.false_eq_true, if_false]

/-! ## What a retired word leaves -/

theorem retireWord_wave {s : State} {k : Nat} {w : Wave} (h : waveAt s k = some w) : retireWord s k = setWave s k (w.retireAt s.time) :=
  modWave_eq h _

theorem onlyWave_setWave {s : State} {k : Nat} (y : Wave) : OnlyWave s (setWave s k y) k y :=
  ⟨rfl, by simp, fun j hj => waveAt_setWave_ne s y hj⟩

/-- One change after another of the same wave. -/
theorem OnlyWave.trans {s t u : State} {k : Nat} {x y : Wave} (h : OnlyWave s t k x) (g : OnlyWave t u k y) : OnlyWave s u k y := by
  refine ⟨?_, g.2.1, fun j hj => (g.2.2 j hj).trans (h.2.2 j hj)⟩
  rw [g.1, h.1]

end Sys2Proof.Machine
end

