-- ==== Sys2Proof/Laws/Mem.lean ====
section
/-! SUPPORT. Every operation that writes memory keeps its canonical form, and what else each of them leaves alone. -/

namespace Sys2Proof.Machine

theorem markDirty_mem (s : State) (a : Nat) : (markDirty s a).mem = s.mem := by
  unfold markDirty
  split
  · dsimp only
    split <;> rfl
  · rfl

theorem markDirty_waves (s : State) (a : Nat) : (markDirty s a).waves = s.waves := by
  unfold markDirty
  split
  · dsimp only
    split <;> rfl
  · rfl

theorem homePut_wf {s : State} (h : Memory.wf s.mem) (a : Nat) (v : Byte) : Memory.wf (homePut s a v).mem := by
  unfold homePut
  split
  · exact h
  · exact Tab.wf_put 0 (by rw [markDirty_mem]; exact h) _ _

theorem homePut_waves (s : State) (a : Nat) (v : Byte) : (homePut s a v).waves = s.waves := by
  unfold homePut
  split
  · rfl
  · exact markDirty_waves s a

theorem homePuts_wf {s : State} (h : Memory.wf s.mem) (l : List (Nat × Byte)) : Memory.wf (homePuts s l).mem := by
  induction l generalizing s with
  | nil => exact h
  | cons p l ih => exact ih (homePut_wf h p.1 p.2)

theorem homePuts_waves (s : State) (l : List (Nat × Byte)) : (homePuts s l).waves = s.waves := by
  induction l generalizing s with
  | nil => rfl
  | cons p l ih => exact (ih _).trans (homePut_waves s p.1 p.2)

theorem homeWrite_wf {s : State} (h : Memory.wf s.mem) (a n x : Nat) : Memory.wf (homeWrite s a n x).mem := homePuts_wf h _

theorem noteWrite_mem (s : State) (l : List (Nat × Byte)) (g : Grade) : (noteWrite s l g).mem = s.mem := rfl

theorem touchWindows_mem (s : State) (a : Nat) : (touchWindows s a).mem = s.mem := by
  unfold touchWindows
  split <;> rfl

theorem touchWindows_waves (s : State) (a : Nat) : (touchWindows s a).waves = s.waves := by
  unfold touchWindows
  split <;> rfl

theorem mscEvict_keeps (s : State) (l : Nat) : (mscEvict s l).mem = s.mem ∧ (mscEvict s l).waves = s.waves := by
  unfold mscEvict
  split
  · unfold mscToPool
    constructor <;> dsimp only
  · constructor <;> dsimp only

theorem mscRoom_keeps (s : State) (l : Nat) : (mscRoom s l).mem = s.mem ∧ (mscRoom s l).waves = s.waves := by
  unfold mscRoom
  split
  · exact mscEvict_keeps s _
  · exact ⟨rfl, rfl⟩

/-- The memory-side cache takes and loses lines beside the memory they copy (R310). -/
theorem mscPut_keeps (s : State) (l : Nat) (d : Option (BitVec 1152)) : (mscPut s l d).mem = s.mem ∧ (mscPut s l d).waves = s.waves :=
  mscRoom_keeps s l

theorem mscMiss_keeps (s : State) (l : Nat) : (mscMiss s l).mem = s.mem ∧ (mscMiss s l).waves = s.waves := by
  unfold mscMiss
  split
  · exact ⟨rfl, rfl⟩
  · split
    · exact ⟨rfl, rfl⟩
    · split
      · exact mscPut_keeps s l none
      · exact ⟨rfl, rfl⟩

theorem writeBack_keeps (s : State) (l : Nat) : (writeBack s l).mem = s.mem ∧ (writeBack s l).waves = s.waves := by
  unfold writeBack
  split
  · exact ⟨rfl, rfl⟩
  · split
    · exact ⟨rfl, rfl⟩
    · exact mscPut_keeps s l _

theorem sliceEvict_keeps (s : State) (l : Nat) : (sliceEvict s l).mem = s.mem ∧ (sliceEvict s l).waves = s.waves := writeBack_keeps _ l

theorem sliceRoom_keeps (s : State) (l : Nat) : (sliceRoom s l).mem = s.mem ∧ (sliceRoom s l).waves = s.waves := by
  unfold sliceRoom
  dsimp only
  split
  · exact ⟨rfl, rfl⟩
  · split
    · exact sliceEvict_keeps s _
    · exact ⟨rfl, rfl⟩

/-- A home slice takes and loses lines beside the memory they copy (R310). -/
theorem sliceTake_keeps (s : State) (l : Nat) : (sliceTake s l).mem = s.mem ∧ (sliceTake s l).waves = s.waves := by
  unfold sliceTake
  split
  · exact ⟨rfl, rfl⟩
  · dsimp only
    have h := mscMiss_keeps { sliceRoom (if s.slice.contains l then sliceEvict s l else s) l with
      slice := (sliceRoom (if s.slice.contains l then sliceEvict s l else s) l).slice ++ [l] } l
    refine ⟨h.1.trans ((sliceRoom_keeps _ l).1.trans ?_), h.2.trans ((sliceRoom_keeps _ l).2.trans ?_)⟩
    · split
      · exact (sliceEvict_keeps s l).1
      · rfl
    · split
      · exact (sliceEvict_keeps s l).2
      · rfl

/-- An access at a home slice changes no byte and no wave (R310, R311). -/
theorem atHome_keeps (s : State) (l : Nat) : (atHome s l).mem = s.mem ∧ (atHome s l).waves = s.waves := by
  unfold atHome
  split
  · rw [touchWindows_mem, touchWindows_waves]
    exact sliceTake_keeps s l
  · exact ⟨rfl, rfl⟩

theorem foldl_atHome_keeps (l : List Nat) (s : State) : (l.foldl atHome s).mem = s.mem ∧ (l.foldl atHome s).waves = s.waves := by
  induction l generalizing s with
  | nil => exact ⟨rfl, rfl⟩
  | cons a l ih => exact ⟨(ih _).1.trans (atHome_keeps s a).1, (ih _).2.trans (atHome_keeps s a).2⟩

theorem readmitWave_mem (lines : List Nat) (s : State) (k : Nat) (o : Option Wave) : (readmitWave lines s k o).mem = s.mem := by
  unfold readmitWave
  split
  · split <;> rfl
  · rfl

theorem readmitWave_waves_wf (lines : List Nat) {s : State} (h : Tab.wf none s.waves = true) (k : Nat) (o : Option Wave) :
    Tab.wf none (readmitWave lines s k o).waves = true := by
  unfold readmitWave
  split
  · split
    · dsimp only
      exact Tab.wf_put none h _ _
    · exact h
  · exact h

theorem readmit_mem (s : State) (lines : List Nat) : (readmit s lines).mem = s.mem := by
  suffices h : ∀ (l : List (Nat × Option Wave)) (t : State),
      (l.foldl (fun s p => readmitWave lines s p.1 p.2) t).mem = t.mem from h _ _
  intro l
  induction l with
  | nil => exact fun _ => rfl
  | cons p l ih => exact fun t => (ih _).trans (readmitWave_mem lines t p.1 p.2)

theorem applyStore_wf {s : State} (h : Memory.wf s.mem) (l : List (Nat × Byte)) (g : Grade) : Memory.wf (applyStore s l g).mem := by
  unfold applyStore noteStore
  dsimp only
  rw [readmit_mem, (foldl_atHome_keeps _ _).1, noteWrite_mem]
  exact homePuts_wf (s := s.tickStore) h l

/-- A readmission changes waves in place, so the collection stays canonical (R350). -/
theorem readmit_waves_wf {s : State} (h : Tab.wf none s.waves = true) (lines : List Nat) : Tab.wf none (readmit s lines).waves = true := by
  suffices g : ∀ (l : List (Nat × Option Wave)) (t : State), Tab.wf none t.waves = true →
      Tab.wf none (l.foldl (fun s p => readmitWave lines s p.1 p.2) t).waves = true from g _ _ h
  intro l
  induction l with
  | nil => exact fun _ h => h
  | cons p l ih => exact fun t h => ih _ (readmitWave_waves_wf lines h p.1 p.2)

theorem applyStore_waves_wf {s : State} (h : Tab.wf none s.waves = true) (l : List (Nat × Byte)) (g : Grade) :
    Tab.wf none (applyStore s l g).waves = true := by
  unfold applyStore noteStore
  refine readmit_waves_wf ?_ _
  rw [(foldl_atHome_keeps _ _).2]
  exact (congrArg (Tab.wf none) (homePuts_waves s.tickStore l)).trans h

/-- A store at its homes keeps both collections canonical. -/
theorem applyStore_sound {s : State} (h : Safety.Sound s) (l : List (Nat × Byte)) (g : Grade) : Safety.Sound (applyStore s l g) :=
  ⟨applyStore_wf h.1 l g, applyStore_waves_wf h.2 l g⟩

/-- What the host gives up is none of what a sound state is about (20 R448). -/
theorem recallHost_sound {s : State} (h : Safety.Sound s) (l : List Nat) : Safety.Sound (recallHost s l) := h

theorem storeVia_sound {s : State} (h : Safety.Sound s) (x : Xlat) (n v : Nat) : Safety.Sound (storeVia s x n v) := by
  unfold storeVia
  exact applyStore_sound (recallHost_sound h _) _ _

theorem umpWrite_sound {s : State} (h : Safety.Sound s) (a n v : Nat) : Safety.Sound (umpWrite s a n v) := by
  unfold umpWrite
  exact applyStore_sound (recallHost_sound h _) _ _

theorem descPut_sound {s : State} (h : Safety.Sound s) (q o v : Nat) : Safety.Sound (descPut s q o v) := by
  unfold descPut
  split
  · exact umpWrite_sound h _ _ _
  · exact h

theorem setWave_sound {s : State} (h : Safety.Sound s) (k : Nat) (w : Wave) : Safety.Sound (setWave s k w) :=
  ⟨h.1, Tab.wf_put none h.2 k (some w)⟩

theorem eraseStacks_wf {s : State} (h : Memory.wf s.mem) : Memory.wf (eraseStacks s).mem := Tab.wf_filter 0 h _

/-- Lines written from kept copies, as a package reset and a forced release write them, keep the canonical form. -/
theorem keptLines_wf (l : List (Nat × Option (BitVec 1152))) {m : Tab Byte} (h : Memory.wf m) :
    Memory.wf (l.foldl (fun m p => (List.range 128).foldl (fun m i =>
      m.put 0 (p.1 * 128 + i) (BitVec.ofNat 8 ((p.2.getD 0).toNat / 256 ^ i))) m) m) := by
  induction l generalizing m with
  | nil => exact h
  | cons p l ih => exact ih (Tab.wf_foldl_put 0 _ _ _ h)

theorem execPackageReset_wf {s t : State} (h : Memory.wf s.mem) (v : Bool) (e : execPackageReset v s = .next t) : Memory.wf t.mem := by
  unfold execPackageReset at e
  simp only [Host.Outcome.next.injEq] at e
  subst e
  split <;> exact eraseStacks_wf (s := { s with mem := _ }) (keptLines_wf s.dirty h)

theorem reset_sound : Safety.Sound State.reset := ⟨rfl, rfl⟩

end Sys2Proof.Machine
end

