-- ==== Sys2Proof/Machine/Views.lean ====
section
/-! DEFINITION. Management registers as software reads them, what telemetry reads, and what a virtual interface sees (20 R449 to R460, 13 R311,
R312, 16 R374, R375, 17 R400, 18 R426). -/

namespace Sys2Proof.Machine

/-- The registers and records that the management function maps (20 R449). -/
inductive MgmtView where
  | islmeter (n : Nat) | islvf (n : Nat) | islreplay (n : Nat) | acctbud (v : Nat) | acctuse (v : Nat) | capcfg | capst | secst | pwrreq
  | portst (n : Nat) | portctl (n : Nat) | peerto | peerrt (p : Nat) | scstat (k : Nat) | mscwbase (n : Nat) | mscwctl (n : Nat)
  | extent (n : Nat) | record (bank n word : Nat)
  deriving DecidableEq, Repr

/-- MSCWCTL. -/
def Window.ctl (w : Window) : Nat := w.en.toNat * 2 ^ 63 + w.refused.toNat * 2 ^ 62 + w.fade * 2 ^ 32 + w.idle * 2 ^ 16 + w.size

def ExtState.code : ExtState → Nat
  | .absent => 0
  | .granted => 1
  | .releasing => 2
  | .revoked => 3

/-- Extent status. -/
def Extent.status (e : Extent) : Nat := e.dropped * 2 ^ 8 + e.state.code

/-- Word `i` of record `n` of a bank; a free slot reads zero. -/
def bankWord (s : State) (bank n i : Nat) : Nat := ((s.banks.look [] bank).find? (fun r => r.slot == n)).elim 0 (fun r => r.word i)

/-- The value of a register of the management function. -/
def mgmtValue (s : State) : MgmtView → Nat
  | .islmeter n => (s.meters.look 0 n).toNat
  | .islvf n => islvf s n
  | .islreplay n => islreplay s n
  | .acctbud v => s.acctBud.look 0 v
  | .acctuse v => s.acctUse.look 0 v
  | .capcfg => s.sys.capcfg.toNat
  | .capst => capst s
  | .secst => secst s
  | .pwrreq => s.sys.pwrreq.toNat
  | .portst n => portst s n
  | .portctl n => (s.ports.look {} n).drain.toNat
  | .peerto => s.peerto
  | .peerrt p => (s.peerrt.look 0 p).toNat
  | .scstat k => scstat s k
  | .mscwbase n => (s.mscw.look {} n).base.toNat
  | .mscwctl n => (s.mscw.look {} n).ctl
  | .extent n => (s.extents.look {} n).status
  | .record b n i => bankWord s b n i

/-- What the management function reads: nothing once the anchor die is lost, which its reader sees as a timeout (01 R22). -/
def mgmtRead (s : State) (r : MgmtView) : Option Nat := if s.sys.anchorLost then none else some (mgmtValue s r)

/-- What telemetry reads, where the debug state lets it: meters, counters, port and scarab status, error banks; in A3 the anchor die's
meter alone (R454). -/
def telemetryRead (s : State) (r : MgmtView) : Option Nat :=
  let seen := match r with
    | .islmeter n => pwrState s != 3 || n == 24
    | .islreplay _ | .portst _ | .scstat _ | .record _ _ _ => pwrState s != 3
    | _ => false
  if seen && s.sys.dbg != 0 then mgmtRead s r else none

/-! ## A virtual interface's view (R449) -/

/-- Descriptor pointer `i` of an interface's queue table, as it reads it through BAR2. -/
def queueTableView (s : State) (v i : Nat) : Option Nat :=
  if s.sys.anchorLost || 128 ≤ v || 128 ≤ i then none
  else (activeUmp s).bind (fun u => umpRead s (u.2.qtab.toNat + 8 * (128 * v + i)) 8)

/-- What the debug port reports of stopped waves under halt-and-inspect: of one at `brk` its code and provenance, of one at `hlt` the halt
(18 R414, R415). -/
def debugStops (s : State) : List (Nat × Option (Nat × DWord)) :=
  if !inspects s then [] else s.waves.filterMap (fun p => p.2.bind (fun w => match w.hold with
    | .brk c v => some (p.1, some (c, v))
    | .halted => some (p.1, none)
    | _ => none))

/-- The account an interface reads: BUDGET and USED. -/
def accountView (s : State) (v : Nat) : Option (Nat × Nat) :=
  if s.sys.anchorLost then none else some (mgmtValue s (.acctbud v), mgmtValue s (.acctuse v))

/-- The section type of a posted record, and its body: the four words and the serial number (R460). -/
def cperSection : BitVec 128 := 0x7ab0e3c15d2a4f6e9b180c4d6a2e9f35
def Cper.body (r : Cper) : List Nat := (List.range 4).map (fun i => r.toErrRec.word i) ++ [r.serial.toNat]

/-- The event log of the management function, and the records that reach a virtual function (R460). -/
def eventLog (s : State) : List Cper := if s.sys.anchorLost then [] else s.cper
def postedTo (s : State) (v : Nat) : List Cper := (eventLog s).filter (fun r => r.vf == some v)

/-- What SPDM reports of the boot: the measurement register (R457). -/
def spdmReport (s : State) : Option (BitVec 384) := if s.sys.anchorLost then none else some s.sys.measure

/-- The interface of a context. -/
def ctxInterface (s : State) (ctx : Nat) : Option Nat := (contextAt s ctx).bind (fun c => (launchAt s c.launch).map (fun l => l.queue / 128))

/-- The records an interface sees: of every bank those that name one of its contexts. -/
def errorView (s : State) (v : Nat) : List ErrRec := if s.sys.anchorLost then [] else s.banks.flatMap (fun b => b.2.filter (fun r => ctxInterface s r.ctx == some v))

end Sys2Proof.Machine
end

