-- ==== Sys2Proof/Tests/Slice0.lean ====
section
/-! SUPPORT. The model's own tests: for every statement with hypotheses, states and operands that meet them; ill-formed terms that WellFormed refuses; words of the spec that decode to their instructions. -/

namespace Sys2Proof.Tests
open Sys2Proof Sys2Proof.Machine Sys2Proof.Safety Sys2Proof.Claims

set_option Elab.async false
set_option maxRecDepth 100000

/-! ## Small states -/

/-- A template of four operands. -/
def word : TOp := { fmt := .i32, d := .v 1, a := .v 2, b := .v 3, c := .k 0 }

/-- A fetched ctrl clause of one word. -/
def ctrlClause : Clause :=
  { hdr := 0xA7F80051, addr := 0x40000000, words := [{ raw := 0, entry := none }], pos := 1, prov := 0x40000000, inj := false }

/-- A live wave that stands at its clause's word. -/
def wave : Wave :=
  { block := 0, num := 0, bud := 64, exec := 0xFFFFFFFF, pcHdr := 0x40000000, pcPos := 1, tvec := 0x40000100, spillBase := 0x80100000
    clause := some ctrlClause }

/-- One GiB of plain memory at 0x4000_0000 and one of spill pages at 0x8000_0000, wave 0 in block 0 of core 0 at its turn. -/
def stateOf (w : Wave) : State :=
  { State.reset with cur := .wave 0, waves := [(0, some w)], blocks := [(0, some loadBlock)], contexts := [(0, some loadContext)]
                     mem := [(0x10000, 0x01), (0x10002, 0x02), (0x20008, 0x1F), (0x2000B, 0x40), (0x20010, 0x8F), (0x20013, 0x80)] }

/-- A running scarab at its turn. -/
def scarabOf (x : Scarab) : State := { State.reset with cur := .scarab 0, scarabs := [(0, x)] }

/-- A running scarab. -/
def scarab : Scarab := { state := .running, exec := 1, pcHdr := 0x40000000, clause := some ctrlClause }

/-- Cox `c` at its turn. -/
def coxOf (c : Nat) (x : Cox) : State :=
  { State.reset with cur := .cox c, coxes := State.reset.coxes.put {} c x, contexts := [(0, some loadContext)] }

/-- What `Clear` asks, as a test. -/
def clearly (s : State) (k : Nat) (w : Wave) (g : Gate) : Bool :=
  (g.reads ++ g.writes).all (fun r => decide (r ∉ pendingRegs (w :: homeWaves s k w))) &&
  g.reads.all (fun r => (homeWaves s k w).all (fun x => x.parityBad r == false)) &&
  w.deferred.all (fun d => g.sees d == false && w.observes g.reads d == false) && decide (tagCheck (waveView s k w) w g.tags = none) &&
  flagRoom w g.att && !waysHeld s w

theorem clear_of {s : State} {k : Nat} {w : Wave} {g : Gate} (h : clearly s k w g = true) : Clear s k w g := by
  simp only [clearly, Bool.and_eq_true, List.all_eq_true, decide_eq_true_eq, beq_iff_eq] at h
  exact ⟨h.1.1.1.1.1, h.1.1.1.1.2, h.1.1.1.2, h.1.1.2, h.1.2, by simpa using h.2⟩

theorem ready_of {w : Wave} {op : Nat} {t : TOp} (h : clearly (stateOf w) 0 w (opGate op t false noSees w) = true) :
    WordReady (stateOf w) 0 w op t := ⟨⟨rfl, rfl⟩, clear_of h⟩

theorem inCtrl_wave : InCtrl wave 0x40000000 := ⟨ctrlClause, rfl, rfl, rfl, rfl, rfl, rfl⟩

/-! ## The statements' hypotheses can be met -/

theorem witness_IntegerOperations : WordReady (stateOf wave) 0 wave 0x040 word ∧ ScarabTurn (scarabOf scarab) 0 (scOpRegs 0x040 word) :=
  ⟨ready_of (by decide), rfl, by decide⟩

theorem witness_CompareSelectMove : WordReady (stateOf wave) 0 wave 0x060 { word with d := .m 1, opmod := 5 } ∧
    WordReady (stateOf wave) 0 wave 0x061 { word with fmt := .b32, c := .m 0 } ∧ (5#9).toNat ≤ 5 :=
  ⟨ready_of (by decide), ready_of (by decide), by decide⟩

theorem witness_CarryChains : WordReady (stateOf wave) 0 wave 0x042 { word with fmt := .n32, c := .m 1 } ∧
    WordReady (stateOf wave) 0 wave 0x043 { word with fmt := .n32, c := .m 0 } := ⟨ready_of (by decide), ready_of (by decide)⟩

theorem witness_LaneOperations : WordReady (stateOf wave) 0 wave 0x065 { word with fmt := .b32, opmod := 3 } ∧
    WordReady (stateOf wave) 0 wave 0x066 { word with fmt := .b32, opmod := 1, b := .k 0 } ∧ bitOf (1#9) 0 = true ∧ bitOf (0#9) 0 = false :=
  ⟨ready_of (by decide), ready_of (by decide), rfl, rfl⟩

theorem witness_MaskOperations : WordReady (stateOf wave) 0 wave 0x06A { fmt := .none, d := .m 0, a := .m 1, b := .m 7 } ∧
    opndIx (.m 7) = 7 := ⟨ready_of (by decide), rfl⟩

theorem witness_Reductions : WordReady (stateOf wave) 0 wave 0x068 { word with opmod := 5 } ∧
    WordReady (stateOf wave) 0 wave 0x069 { word with fmt := .f32, opmod := 2 } ∧ Fmt.f32 ∈ fAtom ∧ Fmt.i32 ∈ fAtom :=
  ⟨ready_of (by decide), ready_of (by decide), by decide, by decide⟩

theorem witness_FloatOperations : WordReady (stateOf wave) 0 wave 0x100 { word with fmt := .f32 } ∧
    WordReady (stateOf wave) 0 wave 0x106 { word with fmt := .f16x2, d := .m 1, opmod := 15 } ∧ (floatSpec .f32).isSome = true ∧
    (15#9).toNat < 16 := ⟨ready_of (by decide), ready_of (by decide), rfl, by decide⟩

theorem witness_RootsAndTranscendentals : WordReady (stateOf wave) 0 wave 0x108 { word with fmt := .f16 } ∧ (floatSpec .f16).isSome = true ∧
    (floatSpec .bf16).isSome = true := ⟨ready_of (by decide), rfl, rfl⟩

theorem witness_DotsAndConversions : WordReady (stateOf wave) 0 wave 0x110 { word with fmt := .f16x2, c := .v 4 } ∧
    WordReady (stateOf wave) 0 wave 0x180 { word with fmt := .i8 } ∧ elemCount .i8 = 1 := ⟨ready_of (by decide), ready_of (by decide), rfl⟩

/-- A wave whose v2 and v3 are class B. -/
def boundWave : Wave := { wave with vtags := [(2, tagB 8), (3, tagB 8)] }

theorem witness_BoundedWords : WordReady (stateOf boundWave) 0 boundWave 0x103 { word with fmt := .f32, bnd := true, c := .v 4 } ∧
    tagIsB (srcTag (waveView (stateOf boundWave) 0 boundWave) .f32 (.v 2)) = true ∧
    tagIsB (srcTag (waveView (stateOf boundWave) 0 boundWave) .f32 (.v 3)) = true := ⟨ready_of (by decide), by decide, by decide⟩

theorem witness_UniformJumps : WaveTurn (stateOf wave) 0 wave ∧ InCtrl wave 0x40000000 ∧ Clear (stateOf wave) 0 wave { reads := [.s 63] } ∧
    Clear (stateOf wave) 0 wave { reads := [.m 0] } ∧
    Clear (stateOf wave) 0 wave { reads := [.v (wave.phys 3), .s 1], tags := [(3, false)] } ∧
    (waveView (stateOf wave) 0 wave).active.any (fun l => decide (((waveView (stateOf wave) 0 wave).vec 3 l) % 4 ≠ 0)) = false :=
  ⟨⟨rfl, rfl⟩, inCtrl_wave, clear_of (by decide), clear_of (by decide), clear_of (by decide), by decide⟩

/-- A wave with some lanes in m2, and one with all. -/
def maskWave (x : Word) : Wave := { wave with mregs := [(2, x)] }

theorem witness_DivergentBranch : Clear (stateOf (maskWave 0xFF)) 0 (maskWave 0xFF) { reads := [.m 2] } ∧ InCtrl (maskWave 0xFF) 0x40000000 ∧
    maskExec (stateOf (maskWave 0xFF)) 0 (maskWave 0xFF) 2 = 0xFF ∧ jumpTo 0x40000000 (6#21) ≠ 0x40000008 ∧
    StackRoom (stateOf (maskWave 0xFF)) (maskWave 0xFF) 3 ∧
    maskExec (stateOf (maskWave 0xFFFFFFFF)) 0 (maskWave 0xFFFFFFFF) 2 = (maskWave 0xFFFFFFFF).exec ∧
    maskExec (stateOf wave) 0 wave 2 = 0 ∧ jumpTo 0x40000000 (2#21) = 0x40000008 :=
  ⟨clear_of (by decide), ⟨ctrlClause, rfl, rfl, rfl, rfl, rfl, rfl⟩, by decide, by decide, ⟨by decide, by decide, by decide⟩, by decide, by decide,
    by decide⟩

/-- A call slides up and pushes its frame; a return pops it and slides down. -/
def framedWave : Wave := { wave with stack := [.frame 1 0xFFFFFFFF], base := 8, rlo := 8, lk := Vector.replicate 32 0x40000000 }

theorem witness_CallsAndReturns :
    ((pushEntry (retireWord (stateOf wave) 0) 0 (.frame 1 wave.exec)).toOption.bind (fun s1 =>
      (slideUp s1 0 8).toOption.bind (fun s2 => waveAt s2 0))).isSome = true ∧ slideBusy wave 8 = false ∧
    ((slideDown (retireWord (stateOf framedWave) 0) 0 8).toOption.bind (fun s1 => (popEntry s1 0).toOption.bind (fun s2 => waveAt s2 0))).isSome = true ∧
    slideBusy framedWave 8 = false ∧ (∀ l ∈ activeLanes framedWave, framedWave.link l % 4 = 0 ∧ framedWave.link l < 2 ^ 56) ∧
    InCtrl framedWave 0x40000000 ∧ Clear (stateOf wave) 0 wave { reads := [.s 1] } :=
  ⟨by decide +kernel, by decide, by decide +kernel, by decide, by decide, ⟨ctrlClause, rfl, rfl, rfl, rfl, rfl, rfl⟩, clear_of (by decide)⟩

/-- A wave in the first of two paths. -/
def dividedWave : Wave :=
  { wave with exec := 0xFF, stack := [.path 0x40000040 0 0xFFFFFF00 false, .path 0x40000000 0 0xFF true, .reconv none 0 0xFFFFFFFF] }

/-- A wave in the last path of a divergence whose other path joined at the end of this clause. -/
def lastPathWave : Wave := { wave with exec := 0xFF, stack := [.path 0x40000000 0 0xFF true, .reconv (some 0x40000008) 0 0xFFFFFFFF] }

theorem witness_JoinsAndExits : innermost wave = none ∧ InCtrl dividedWave 0x40000000 ∧ dividedWave.spilled ≤ 0 + 2 ∧
    InCtrl lastPathWave 0x40000000 ∧ (0x40000000 + 8 : DWord) = 0x40000008 ∧ wave.exec ||| wave.exited = BitVec.allOnes 32 ∧
    wave.stack = [] ∧ wave.pend = [] ∧ (∀ b, blockAt (stateOf wave) wave.block = some b → ∀ g ∈ b.groups, 0 ∉ g.homes) :=
  ⟨by decide, ⟨ctrlClause, rfl, rfl, rfl, rfl, rfl, rfl⟩, by decide, ⟨ctrlClause, rfl, rfl, rfl, rfl, rfl, rfl⟩, by decide, by decide, rfl, rfl,
    by rintro b h; cases h; intro g hg; cases hg⟩

theorem witness_SimpleControl : WaveTurn (stateOf wave) 0 wave ∧ wave.comp = none ∧
    ((stateOf wave).core 0).slots.look {} 7 = {} ∧ (({} : DictSlot).owner ≠ ctxOf (stateOf wave) wave ∨ ({} : DictSlot).state = .empty) :=
  ⟨⟨rfl, rfl⟩, rfl, by decide, by decide⟩

/-- A wave in its handler. -/
def handlerWave : Wave := { wave with stack := [.trap 0x40000200 0 0x046 0xFFFFFFFF] }

theorem witness_SoftwareTrap : WaveTurn (stateOf wave) 0 wave ∧ InCtrl wave 0x40000000 ∧ wave.inHandler = false ∧ wave.tvec ≠ 0 ∧
    StackRoom (stateOf wave) wave 1 ∧ bitOf wave.prov 63 = false ∧ handlerWave.inHandler = true :=
  ⟨⟨rfl, rfl⟩, inCtrl_wave, by decide, by decide, ⟨by decide, by decide, by decide⟩, by decide, by decide⟩

theorem witness_ResultDestinations : waveAt (stateOf wave) 0 = some wave ∧ wave.comp = none ∧ (64 : Nat) ∈ [8, 16, 32, 64] ∧
    (62#8).toNat + 2 ≤ wave.bud ∧ (63#8).toNat + 1 ≤ wave.bud := ⟨rfl, rfl, by decide, by decide, by decide⟩

theorem witness_ClauseAdvance : waveAt (stateOf wave) 0 = some wave ∧ wave.clause = some ctrlClause ∧ ctrlClause.inj = false ∧
    ctrlClause.words.length ≤ ctrlClause.pos := ⟨rfl, rfl, rfl, by decide⟩

/-! ### Tile engine -/

theorem ready_at {s : State} {w : Wave} {op : Nat} {t : TOp} (hc : s.cur = .wave 0) (hw : waveAt s 0 = some w)
    (h : clearly s 0 w (opGate op t false noSees w) = true) : WordReady s 0 w op t := ⟨⟨hc, hw⟩, clear_of h⟩

/-- A result that is no cause, told by a test. -/
theorem met {α ε β : Type} {x : α × Except ε β} (h : x.2.toOption.isSome = true) : ∃ a b, x = (a, .ok b) := by
  obtain ⟨a, y⟩ := x
  cases y with
  | error e => cases h
  | ok b => exact ⟨a, b, rfl⟩

/-- The format block of an f16 product of one row and one column, its strides 64. -/
def fblock : BitVec 512 := BitVec.ofNat 512 (0x1A + 0x1A * 2 ^ 6 + 4 * 2 ^ 19 + 0x19 * 2 ^ 30 + 64 * 2 ^ 64 + 64 * 2 ^ 96 + 64 * 2 ^ 128)

/-- `stateOf` with engines in core 0. -/
def withCore (w : Wave) (c : Core) : State := { stateOf w with cores := [(0, c)] }

/-- A wave whose scalars hold the operands of a tile word. -/
def tileWave : Wave := { wave with sregs := [(2, 64), (3, 1), (4, 0x1FFFF)] }

theorem witness_TileWords : TileReady (stateOf wave) 0 wave 0x1C0 { a := .k 0, imm := 15 } ∧
    TileReady (stateOf tileWave) 0 tileWave 0x1C2 { a := .s 4 } ∧ opnd (stateOf tileWave) 0 tileWave { a := .s 4 } (.s 4) = 0x1FFFF ∧
    TileReady (stateOf wave) 0 wave 0x1C3 { d := .v 0, a := .k 0 } ∧ runBusy (stateOf wave) 0 wave ((runOf wave 0 2).map .v) = false ∧
    (let s := withCore tileWave { fregs := [(0, { state := .ready, block := fblock })] }
     TileReady s 0 tileWave 0x1C1 { a := .s 1, b := .s 2, c := .s 3, imm := 0 } ∧ tmmaShapeBad s fblock (tileBase s 0 0) 1 0 1 false = false ∧
     tileBase s 0 0 = some ⟨0, 0⟩ ∧ tileBase s 0 64 = some ⟨0, 64⟩ ∧ (taskReads s fblock ⟨0, 0⟩ ⟨0, 64⟩ 1 1).all (fun r => r.ok s) = true) ∧
    flagRoom wave (attOf wave {}) = true ∧ Clear (stateOf wave) 0 wave { opGate 0x1C4 { a := .k 0, b := .v 0 } false noSees wave with
      tags := [], sees := wave.observes (twrRun wave { a := .k 0, b := .v 0 }) } ∧
    runFaults (stateOf wave) 0 wave (waveView (stateOf wave) 0 wave) 0 2 = none :=
  ⟨⟨⟨rfl, rfl⟩, clear_of (by decide), by decide, by decide⟩, ⟨⟨rfl, rfl⟩, clear_of (by decide), by decide, by decide⟩, by decide,
    ⟨⟨rfl, rfl⟩, clear_of (by decide), by decide, by decide⟩, by decide,
    ⟨⟨⟨rfl, rfl⟩, clear_of (by decide), by decide, by decide⟩, by decide +kernel, by decide, by decide, by decide +kernel⟩, by decide,
    clear_of (by decide), by decide⟩

theorem witness_TileStatusAndCancel : WordReady (stateOf wave) 0 wave 0x1C8 { d := .s 1, a := .k 15 } ∧
    opnd (stateOf wave) 0 wave { a := .k 15 } (.k 15) = 15 ∧ opnd (stateOf wave) 0 wave { a := .k 16 } (.k 16) = 16 ∧
    WordReady (stateOf wave) 0 wave 0x1C9 { a := .k 1 } ∧ opnd (stateOf wave) 0 wave { a := .k 1 } (.k 1) < 2 ^ 16 :=
  ⟨ready_of (by decide), by decide, by decide, ready_of (by decide), by decide⟩

/-- A tile record of wave 0. -/
def tileRecord (work : TileWork) (running : Bool) : TileRec := { id := 1, wave := 0, pend := 0, blk := 0, ctx := 0, work := work, running := running }

/-- The state with one running tile record. -/
def tileState (work : TileWork) : State := withCore wave { tileQ := [tileRecord work true] }

theorem witness_TileEvents : startable (stateOf wave) [tileRecord (.tzero 1) false] = some (tileRecord (.tzero 1) false) ∧
    runningRec (tileState (.tzero 1)) 0 1 = some (tileRecord (.tzero 1) true) ∧
    runningRec (tileState (.twr 0 0 1 false [])) 0 1 = some (tileRecord (.twr 0 0 1 false []) true) ∧
    runningRec (tileState (.trd 0 0 1 0 0 false 0 [0, 1])) 0 1 = some (tileRecord (.trd 0 0 1 0 0 false 0 [0, 1]) true) ∧
    ([0, 1] : List Nat).Nodup ∧ opHomes (tileState (.trd 0 0 1 0 0 false 0 [0, 1])) 0 0 = [] ∧
    runningRec (tileState (.tfmt 3 0x1000000000040)) 0 1 = some (tileRecord (.tfmt 3 0x1000000000040) true) ∧
    (readBlock (tileState (.tfmt 3 0x1000000000040)) (tileRecord (.tfmt 3 0x1000000000040) true) 0x1000000000040).2.isSome = true :=
  ⟨by decide, by decide, by decide, by decide, by decide, by decide, by decide, by decide +kernel⟩

/-- The task of one product. -/
def task : TileWork := .tmma fblock ⟨0, 0⟩ ⟨0, 64⟩ 1 0 15 1 0 false false

theorem witness_TileTasks : runningRec (tileState task) 0 1 = some (tileRecord task true) ∧
    needSnoop (tileState task) (taskHeld (tileState task) 0 0 fblock 0 1 false) = none ∧ peerGone (tileState task) (tileRecord task true) = false ∧
    (runTiles 0 (tileRecord task true) fblock ⟨0, 0⟩ ⟨0, 64⟩ 1 0 15 false false 1 0 0 (tileState task)).2 = 0 ∧ 15 + 1 ≤ 16 ∧
    runningRec (tileState (.tcmp ⟨0, 0⟩ ⟨0, 64⟩ 1 1 .f16 5)) 0 1 = some (tileRecord (.tcmp ⟨0, 0⟩ ⟨0, 64⟩ 1 1 .f16 5) true) ∧
    peerGone (tileState (.tcmp ⟨0, 0⟩ ⟨0, 64⟩ 1 1 .f16 5)) (tileRecord (.tcmp ⟨0, 0⟩ ⟨0, 64⟩ 1 1 .f16 5) true) = false ∧
    runningRec (tileState (.tmc ⟨0, 0⟩ 0 64 [0])) 0 1 = some (tileRecord (.tmc ⟨0, 0⟩ 0 64 [0]) true) ∧ NoWays (tileState task) 0 :=
  ⟨by decide +kernel, by decide +kernel, by decide +kernel, by decide +kernel, by decide, by decide, by decide +kernel, by decide,
    by rintro x h; cases h; rfl⟩

/-! ### Memory -/

/-- A wave whose s1 holds 0x4000_1000 and whose scalar pair for vectors is free. -/
def memWave : Wave := { wave with sregs := [(1, 0x40001000)], exec := 1 }

/-- A run of two registers, loaded and stored. -/
def runWord : TOp := { word with fmt := .b32, a := .s 1, b := .k 0, imm := 4, opmod := 8 }
def storeWord : TOp := { runWord with c := .v 4 }

/-- A wave whose s1 points into its block's scratchpad. -/
def spadWave : Wave := { wave with sregs := [(1, 0x1000000001000)], exec := 1 }

/-- `LoadStep` can be taken, told by a test. -/
def loadSteps (t : TOp) (s : State) (k : Nat) (w : Wave) : Bool :=
  match checkLanes s k w (runOpts t true) (runLanes (waveView s k w) t w.pidx) with
  | (_, .error _) => false
  | (s1, .ok ls) => !olderConflict s1 w.pend w.nextId (loadParts ls) && !portBlocked s1 k 0 (loadParts ls) &&
    match takeMisses s1 (coreOf k) (missSectors s1 (coreOf k) (ctxOf s1 w) false (loadParts ls)) true with
    | none => false
    | some s2 =>
      let r := readParts s2 k (ctxOf s2 w) 0 (installs s2 (coreOf k)) (loadParts ls)
      r.2.all (fun g => !g.2.bad) && (stepTimeout r.1 (coreOf k) 4999997 (loadParts ls)).isEmpty

theorem loadStep_of {t : TOp} {s : State} {k : Nat} {w : Wave} (h : loadSteps t s k w = true) : ∃ u, LoadStep t s k w u := by
  unfold loadSteps at h
  split at h
  · cases h
  · rename_i s1 ls hc
    simp only [Bool.and_eq_true, Bool.not_eq_true'] at h
    split at h
    · simp at h
    · rename_i s2 ht
      generalize hr : readParts s2 k (ctxOf s2 w) 0 (installs s2 (coreOf k)) (loadParts ls) = r at h
      rw [Bool.and_eq_true] at h
      exact ⟨_, s1, ls, s2, r.1, r.2, hc, h.1.1, h.1.2, ht, hr,
        by rw [List.any_eq_false]; simpa only [List.all_eq_true, Bool.not_eq_true', Bool.not_eq_true] using h.2.1, List.isEmpty_iff.mp h.2.2, rfl⟩

/-- `StoreStep` can be taken, told by a test. -/
def storeSteps (t : TOp) (s : State) (k : Nat) (w : Wave) : Bool :=
  match checkLanes s k w (runOpts t false) (runLanes (waveView s k w) t w.pidx) with
  | (_, .error _) => false
  | (s1, .ok ls) =>
    let parts : List Part := ls.map (fun p => { lane := p.1, locs := p.2, data := BitVec.ofNat 64 (runValue (waveView s k w) t w.pidx p.1) })
    decide (tagCheck (waveView s k w) w ((List.range (width64 t.fmt)).map (fun i => (opndIx t.c + w.pidx * width64 t.fmt + i, false))) = none) &&
    !olderConflict s1 w.pend w.nextId parts && !portBlocked s1 k 0 parts && decide (needSnoop s1 (partAddrs parts) = none) &&
    (partAddrs parts).all (fun a => !isPeer s1 a)

theorem storeStep_of {t : TOp} {s : State} {k : Nat} {w : Wave} (h : storeSteps t s k w = true) : ∃ u, StoreStep t s k w u := by
  unfold storeSteps at h
  split at h
  · cases h
  · rename_i s1 ls hc
    simp only [Bool.and_eq_true, Bool.not_eq_true', decide_eq_true_eq, List.all_eq_true] at h
    exact ⟨_, s1, ls, h.1.1.1.1, hc, h.1.1.1.2, h.1.1.2, h.1.2, h.2, rfl⟩

theorem witness_LoadsStoresAndRuns : WordReady (stateOf memWave) 0 memWave 0x220 { word with fmt := .b32, a := .s 1, b := .k 0 } ∧
    (∃ s1 ls, checkLanes (stateOf memWave) 0 memWave { size := 4, align := 4, read := true } [(0, 0x40001000)] = (s1, .ok ls)) ∧
    WordReady (stateOf memWave) 0 memWave 0x221 { word with fmt := .b32, a := .s 1, b := .k 0, c := .v 4 } ∧
    (∃ s1 ls, checkLanes (stateOf memWave) 0 memWave { size := 4, align := 4, read := false, write := true } [(0, 0x40001000)] = (s1, .ok ls)) ∧
    (∃ e, (checkLanes (stateOf memWave) 0 memWave { size := 4, align := 4, read := true } [(0, 0x40001002)]).2 = .error e) ∧
    WordReady (stateOf memWave) 0 memWave 0x222 runWord ∧ memWave.pidx < 2 ∧ flagRoom memWave (attOf memWave word) = true ∧
    (∃ u, LoadStep runWord (stateOf spadWave) 0 spadWave u) ∧ WordReady (stateOf spadWave) 0 spadWave 0x222 runWord ∧
    Clear (stateOf memWave) 0 memWave { opGate 0x223 storeWord false noSees memWave with
      tags := (opGate 0x223 { storeWord with c := .k 0 } false noSees memWave).tags } ∧
    (∃ u, StoreStep storeWord (stateOf memWave) 0 memWave u) ∧
    ((stateOf memWave).core 0).fills.length + 1 ≤ 256 :=
  ⟨ready_of (by decide), met (by decide +kernel), ready_of (by decide), met (by decide +kernel), ⟨_, rfl⟩, ready_of (by decide), by decide, by decide,
    loadStep_of (by decide +kernel), ready_of (by decide), clear_of (by decide), storeStep_of (by decide +kernel), by decide⟩

theorem witness_LinesAndFences : WordReady (stateOf memWave) 0 memWave 0x228 { a := .s 1, b := .k 0 } ∧
    (∃ s1 ls, checkLanes (stateOf memWave) 0 memWave { size := 1, align := 1, read := true, scratch := some 0x087, konst := some 0x087 }
      [(0, 0x40001000)] = (s1, .ok ls)) ∧ fenceBusy wave.pend 3 6 = false ∧ Clear (stateOf wave) 0 wave {} ∧ ScarabTurn (scarabOf scarab) 0 [] ∧
    Clear (stateOf memWave) 0 memWave { opGate 0x227 { a := .s 1, b := .k 0 } false noSees memWave with tags := [] } ∧
    ((stateOf memWave).core 0).fills.length + 32 ≤ 256 :=
  ⟨ready_of (by decide), met (by decide +kernel), by decide, clear_of (by decide), ⟨rfl, by decide⟩, clear_of (by decide), by decide⟩

/-- `memWave` under tables whose page has grade S, in a context with private memory. -/
def gradedState : State :=
  { stateOf memWave with contexts := [(0, some { loadContext with plim := 4096 })]
                         mem := [(0x10000, 0x01), (0x10002, 0x02), (0x20008, 0x3F), (0x2000B, 0x40), (0x20010, 0x8F), (0x20013, 0x80)] }

theorem witness_ScratchpadAliasesMetadata :
    WordReady (stateOf wave) 0 wave 0x22A { a := .k 0, imm := 12 } ∧ blockAt (stateOf wave) wave.block = some loadBlock ∧
    (BitVec.ofNat 64 (srcBits (waveView (stateOf wave) 0 wave) { a := .k 0, imm := 12 } .n64 (.k 0) 0)).toInt = 0 ∧
    coreWays (stateOf wave) 0 - loadBlock.ext + 11 ≤ 12 ∧ (12 : Int) < (coreWays (stateOf wave) 0 : Int) - loadBlock.ext + 12 ∧
    loadBlock.ext ≤ coreWays (stateOf wave) 0 ∧
    (let w : Wave := { wave with sregs := [(1, 0x2000000000FFF)] }
     WordReady { stateOf w with contexts := gradedState.contexts } 0 w 0x22B { d := .v 4, a := .s 1, b := .k 0 }) ∧
    (0x2000000000000 ≤ 0x2000000000FFF ∧ 0x2000000000FFF < 0x2000000000000 + min (2 ^ 32) 4096) ∧
    WordReady gradedState 0 memWave 0x22C { d := .v 4, a := .s 1, b := .k 0 } ∧
    (∃ s1 rows, mdCheck gradedState 0 memWave { d := .v 4, a := .s 1, b := .k 0 } false [(0, 0x40001000)] = (s1, .ok rows)) ∧
    WordReady gradedState 0 memWave 0x22D { a := .s 1, b := .k 0, c := .v 4 } ∧
    (∃ s1 rows, mdCheck gradedState 0 memWave { a := .s 1, b := .k 0, c := .v 4 } true [(0, 0x40001000)] = (s1, .ok rows)) :=
  ⟨ready_of (by decide), rfl, by decide, by decide, by decide, by decide, ready_at rfl rfl (by decide), by decide,
    ready_at rfl rfl (by decide), met (by decide +kernel), ready_at rfl rfl (by decide), met (by decide +kernel)⟩

/-- A wave with an atomic region of one entry. -/
def regionWave : Wave :=
  { memWave with region := [{ store := true, size := 4, exec := 1, addrs := Vector.replicate 32 0x40001000, dst := .v 0, data := Vector.replicate 32 7 }] }

theorem witness_AtomicsIssue : WordReady (stateOf memWave) 0 memWave 0x280 { word with a := .s 1, b := .k 0, c := .v 4 } ∧
    (∃ s1 ls, checkLanes (stateOf memWave) 0 memWave { size := 4, align := 4, read := true, write := true, split := false } [(0, 0x40001000)] =
      (s1, .ok ls)) ∧
    Clear (stateOf memWave) 0 memWave (opGate 0x281 { word with a := .s 1, b := .k 0, c := .v 4 } true noSees memWave) ∧
    WordReady (stateOf memWave) 0 memWave 0x282 { word with d := .k 0, a := .s 1, b := .k 0, c := .v 4 } ∧
    WordReady (stateOf memWave) 0 memWave 0x283 { word with fmt := .n4, a := .s 1, b := .k 0, c := .v 4 } ∧
    Clear (stateOf memWave) 0 memWave { opGate 0x284 { word with a := .s 1 } false noSees memWave with writes := [] } ∧
    WordReady (stateOf memWave) 0 memWave 0x285 { word with d := .k 0, a := .s 1, b := .k 0, c := .v 4 } ∧
    Clear (stateOf regionWave) 0 regionWave { writes := regionRegs regionWave } ∧ splitLanes (stateOf regionWave) 0 regionWave = [] ∧
    (∃ s1 l, regionChecks 0 regionWave (stateOf regionWave) regionWave.region = (s1, .ok l)) ∧
    Fmt.i32 ∈ [Fmt.i32, .n32, .i64, .n64] ∧ fenceBusy memWave.pend 2 6 = false :=
  ⟨ready_of (by decide), met (by decide +kernel), clear_of (by decide), ready_of (by decide), ready_of (by decide), clear_of (by decide),
    ready_of (by decide), clear_of (by decide), by decide, met (by decide +kernel), by decide, by decide⟩

/-- Another package's byte stays out of this one's memory. -/
theorem witness_MemoryReadsBack : isPeer State.reset 0x40000000 = false ∧ isLost State.reset 0x40000000 = false ∧
    isPeer State.reset (2 ^ 48 + 2 ^ 40) = true ∧ physNorm State.reset 0x40000000 ≠ physNorm State.reset 0x40000001 :=
  by decide

/-- A part of `n` bytes of memory, and one of scratchpad bytes. -/
def partOf (n : Nat) : Part := { lane := 0, locs := (List.range n).map (fun i => .phys (0x40001000 + i) .x []), data := 7 }
def spadPart : Part := { lane := 0, locs := (List.range 4).map (fun i => .spad 0 (0x100 + i)), data := 7 }

/-- A load, a store, an atomic, a region in flight. -/
def pendOf (work : Work) : Pend := { id := 3, flag := none, cls := .mem, dst := [], work := work }
def busyWave (work : Work) : Wave := { wave with pend := [pendOf work], nextId := 4 }
def busyState (work : Work) : State := stateOf (busyWave work)
def loadOf : Work := .load (.vec 5 none) [spadPart] 0
def storeOf (applied : Bool) : Work := .store [partOf 4] none applied

/-- A scarab with a row load in flight. -/
def rowState : State := scarabOf { scarab with pend := [pendOf (.load (.vec 5 none) [partOf 4] 0)] }

theorem row_home (i : Nat) : belowL1 rowState 256 (agScarab 0) 0x2000080 [0x40001000, 0x40001001, 0x40001002, 0x40001003] true false i =
    (atHome rowState 0x800020, { data := 0, stamp := 0 }) := by
  have h : ([0x40001000, 0x40001001, 0x40001002, 0x40001003] : List Nat).foldl (fun m a => max m ((sightOf rowState (agScarab 0)).lowAt 0x2000080 a))
    (sightOf rowState (agScarab 0)).floor = 0 := by decide
  have hd : sectorAsOf rowState 0x2000080 0 = 0 := by decide +kernel
  have hc : rowState.clock = 0 := rfl
  simp only [belowL1, h, hc, if_true, Nat.sub_self, Nat.zero_add, Nat.mod_one, hd]

theorem row_read : (rowReads rowState 0 (scarabAt rowState 0) [partOf 4]).2.any (fun g => g.2.bad) = false := by
  have h : locRuns rowState (partOf 4).locs = [(partOf 4).locs] := by decide +kernel
  have hp : (partOf 4).locs = [.phys 0x40001000 .x [], .phys 0x40001001 .x [], .phys 0x40001002 .x [], .phys 0x40001003 .x []] := rfl
  rw [hp] at h
  have hn : isPeer rowState 0x40001000 = false ∧ physNorm rowState 0x40001000 = 0x40001000 ∧ physNorm rowState 0x40001001 = 0x40001001 ∧
      physNorm rowState 0x40001002 = 0x40001002 ∧ physNorm rowState 0x40001003 = 0x40001003 := by decide
  simp only [rowReads, List.foldl_cons, List.foldl_nil, readLocs, hp, h, readRun, List.filterMap_cons_some, List.filterMap_cons, List.filterMap_nil, hn,
    sectorFor, if_true, Bool.false_eq_true, if_false, Nat.reduceDiv, row_home]
  decide +kernel

theorem witness_AccessesComplete :
    isPend (busyWave loadOf).pend 3 (pendOf loadOf) loadOf ∧ olderConflict (busyState loadOf) (busyWave loadOf).pend 3 [spadPart] = false ∧
    portBlocked (busyState loadOf) 0 (pendOf loadOf).port [spadPart] = false ∧
    (readParts (busyState loadOf) 0 0 0 (installs (busyState loadOf) 0) [spadPart]).2.any (fun g => g.2.bad) = false ∧
    isPend (busyWave (storeOf false)).pend 3 (pendOf (storeOf false)) (storeOf false) ∧
    olderConflict (busyState (storeOf false)) (busyWave (storeOf false)).pend 3 [partOf 4] = false ∧
    portBlocked (busyState (storeOf false)) 0 (pendOf (storeOf false)).port [partOf 4] = false ∧
    needSnoop (busyState (storeOf false)) (partAddrs [partOf 4]) = none ∧
    (partOf 2).locs = [0x40001000, 0x40001001].map (fun a => Loc.phys a .x []) ∧
    (([0x40001000, 0x40001001] : List Nat).map (physNorm (stateOf wave))).Nodup ∧
    (∀ a ∈ [0x40001000, 0x40001001], isPeer (stateOf wave) a = false ∧ isLost (stateOf wave) a = false ∧ extentDetail (stateOf wave) a ≠ some 2) ∧
    isPend (busyWave (storeOf true)).pend 3 (pendOf (storeOf true)) (storeOf true) ∧
    (∀ a ∈ partAddrs [partOf 4], isPeer (stateOf wave) a = false) ∧
    isPend (scarabAt rowState 0).pend 3 (pendOf (.load (.vec 5 none) [partOf 4] 0)) (.load (.vec 5 none) [partOf 4] 0) ∧
    olderConflict rowState (scarabAt rowState 0).pend 3 [partOf 4] = false ∧
    (rowReads rowState 0 (scarabAt rowState 0) [partOf 4]).2.any (fun g => g.2.bad) = false ∧
    (let s := withCore wave { fills := [{ line := 0x800020, secs := [0x2000080], inst := false }] }
     (s.core 0).fills.find? (fun f => f.line == 0x800020) = some { line := 0x800020, secs := [0x2000080], inst := false }) :=
  ⟨⟨by decide, rfl⟩, by decide, by decide, by decide +kernel, ⟨by decide, rfl⟩, by decide, by decide, by decide, by decide, by decide,
    by decide +kernel, ⟨by decide, rfl⟩, by decide, ⟨by decide, rfl⟩, by decide, row_read, by decide⟩

theorem witness_AtomicsPerformed :
    let sp : AtomSpec := { aop := 0, fmt := .i32, nib := false, cas := false, scope := 4, acq := true }
    let work := Work.atomic sp (some (.vec 5 none)) [spadPart] [] []
    isPend (busyWave work).pend 3 (pendOf work) work ∧ olderConflict (busyState work) (busyWave work).pend 3 [spadPart] = false ∧
    portBlocked (busyState work) 0 0 [spadPart] = false ∧ needSnoop (busyState work) (partAddrs [spadPart]) = none ∧
    (atomLanes (busyState work) 0 0 (agWave 0) sp false [] [] [spadPart]).2.any (fun g => g.2.bad) = false ∧
    (atomRead (busyState work) 0 0 (agWave 0) 4 0 spadPart.locs).2.2.bad = false ∧
    (let r := Work.region [{ ix := 0, store := true, part := spadPart, dst := none }] 4 true []
     isPend (busyWave r).pend 3 (pendOf r) r ∧ olderConflict (busyState r) (busyWave r).pend 3 [spadPart] = false ∧
     portBlocked (busyState r) 0 0 [spadPart] = false) :=
  ⟨⟨by decide, rfl⟩, by decide, by decide, by decide, by decide +kernel, by decide +kernel, ⟨by decide, rfl⟩, by decide, by decide⟩

/-- A block barrier whose members are waves 0 and 1. -/
def barState (w : Wave) (x : Barrier) : State := { stateOf w with bars := [(barKey 0 loadBlock 1, some x)] }

/-- A wave that waits at a `waitm` in a fetched clause. -/
def waitWord : TOp := { fmt := .n32, opmod := 2, a := .s 1, b := .k 0, c := .k 7 }
def waitWave : Wave :=
  { memWave with
    hold := .waitm
    clause := some { ctrlClause with words := [{ raw := 0x20000000, entry := (encode (.waitm waitWord)).bind (fun c => match c with
      | .template b => some b
      | _ => none) }] } }

/-- Fifteen waves of the core that poll beside wave 0. -/
def pollers : State := { stateOf memWave with waves := (List.range 16).map (fun i => (i, some waitWave)) }

/-- A wave whose poll of scratchpad bytes has been checked. -/
def spadPoll : Wave := { memWave with polled := some [(0, spadPart.locs)] }

theorem witness_BarriersAndWaits : AtBarrier (barState wave { members := [0, 1] }) 0 wave { opmod := 1 } (barKey 0 loadBlock 1) { members := [0, 1] } ∧
    wave.block * 32 + wave.num = 0 ∧ (0 : Nat) ∈ ([0, 1] : List Nat) ∧ (0 : Nat) ∉ ([] : List Nat) ∧ fenceBusy wave.pend 2 1 = false ∧
    Clear (barState wave { members := [0, 1] }) 0 wave {} ∧ Clear (barState wave { members := [0] }) 0 wave { writes := [.s 1] } ∧
    (let w : Wave := { wave with barArrived := some (barKey 0 loadBlock 1, false) }
     AtBarrier (barState w { members := [0, 1], arrived := [0] }) 0 w { opmod := 1 } (barKey 0 loadBlock 1) { members := [0, 1], arrived := [0] }) ∧
    WordReady (stateOf memWave) 0 memWave 0x2C4 waitWord ∧
    (∃ s1 ls, checkLanes (stateOf memWave) 0 memWave { size := 4, align := 4, read := true } [(0, 0x40001000)] = (s1, .ok ls)) ∧
    WordReady (stateOf waitWave) 0 waitWave 0x2C4 waitWord ∧ (∃ c, waitWave.clause = some c ∧ clauseInstr c = some (.word (.waitm waitWord))) ∧
    Clear (stateOf wave) 0 wave { sees := fun d => d.flag == some 0 && !wave.flagPending 0 } ∧
    ({ wave with flagCnt := [(0, 1)] } : Wave).flagPending 0 = true ∧ wave.flagPending 0 = false ∧
    WordReady (stateOf wave) 0 wave 0x2C6 { a := .k 0, imm := 1 } ∧ (∃ m ∈ ([0, 1] : List Nat), m ∉ ([] : List Nat)) ∧
    (∀ m ∈ ([0] : List Nat), m ∈ ([0] : List Nat)) ∧ (∀ p, wave.barArrived ≠ some (barKey 0 loadBlock 1, p)) ∧
    (let w : Wave := { wave with barOpen := true }
     AtBarrier (barState w { members := [0] }) 0 w { opmod := 1 } (barKey 0 loadBlock 1) { members := [0] }) ∧
    pollersFull (stateOf memWave) 0 = false ∧ (∀ q ∈ pollers.waves, (∃ w, q.2 = some w ∧ w.hold = .waitm)) ∧ pollersFull pollers 0 = true ∧
    WordReady (stateOf spadPoll) 0 spadPoll 0x2C4 waitWord ∧
    (readParts (stateOf spadPoll) 0 0 2 (installs (stateOf spadPoll) 0) (loadParts [(0, spadPart.locs)])).2.any (fun g => g.2.bad) = false ∧
    olderConflict (stateOf spadPoll) spadPoll.pend spadPoll.nextId (loadParts [(0, spadPart.locs)]) = false ∧
    portBlocked (stateOf spadPoll) 0 0 (loadParts [(0, spadPart.locs)]) = false :=
  ⟨⟨⟨rfl, rfl⟩, rfl, by decide, ⟨loadBlock, rfl, rfl⟩⟩, by decide, by decide, by decide, by decide, clear_of (by decide), clear_of (by decide),
    ⟨⟨rfl, rfl⟩, rfl, by decide, ⟨loadBlock, rfl, rfl⟩⟩, ready_of (by decide), met (by decide +kernel), ready_of (by decide),
    ⟨_, rfl, by decide +kernel⟩, clear_of (by decide), by decide, by decide, ready_of (by decide), ⟨0, by decide, by decide⟩, by decide,
    (fun p h => nomatch h), ⟨⟨rfl, rfl⟩, rfl, by decide, ⟨loadBlock, rfl, rfl⟩⟩, by decide, by decide, by decide, ready_of (by decide),
    by decide +kernel, by decide, by decide⟩

/-! ### Copies, chains, remote stores -/

/-- A launch record of one block, small and plain. -/
def launch : Launch :=
  { queue := 0, prio := 0, lastG := false, lastP := false, lastJ := false, fuse := false, clusterSize := 1, ix := 0, graph := 0, phase := 0, job := 0
    dieMask := 1, kbase := 0x50000000, args := 0, gx := 1, gy := 1, gz := 1, psmax := 0, barMap := 0, ntiles := 0, tileIt := 0, fixBase := 0, deps := []
    collgrp := 0, user := 0, est := 0, attr := 0 }

/-- A wave whose s1 is a line of memory, s2 a global address, s3 a length, s4 1. -/
def copyWave : Wave := { wave with sregs := [(1, 0x40001000), (2, 0x40002000), (3, 64), (4, 1)], exec := 1 }

/-- `copyWave` over a chain header of two records and scope 4 at 0x4000_1000. -/
def chainState (w : Wave) : State :=
  { stateOf w with mem := (stateOf w).mem ++ [(0x40001001, 0x20), (0x40001003, 0x40), (0x40001008, 2), (0x4000100C, 4)]
                   launches := [(0, some { launch with attr := 8, unplaced := [3] })] }

theorem witness_CopyWords :
    WordReady (stateOf copyWave) 0 copyWave 0x2E0 { a := .s 2, b := .s 1, c := .s 3, imm := 4 } ∧
    waveSca copyWave { a := .s 2, b := .s 1, c := .s 3, imm := 4 } (.s 3) = 64 ∧
    copyLost (stateOf copyWave) 0 copyWave (.cpy 0x40002000 0x40001000 64) = [] ∧
    WordReady (stateOf copyWave) 0 copyWave 0x2E1 { a := .s 2, b := .s 1, c := .s 3, imm := 4 } ∧
    WordReady (stateOf copyWave) 0 copyWave 0x2E2 { a := .s 2, b := .v 4, c := .s 3, imm := 4 } ∧
    WordReady (chainState copyWave) 0 copyWave 0x2E3 { a := .s 1, b := .s 4 } ∧ accessesDone copyWave = true ∧
    (∃ s1 r, chainHeader (chainState copyWave) 0 copyWave 0x40001000 = (s1, .ok r)) ∧
    (match (chainHeader (chainState copyWave) 0 copyWave 0x40001000).2 with
      | .ok (h, _) => (natAt h 8 4, natAt h 0xC 4, natAt h 0x10 8, natAt h 0x20 8, natAt h 0x28 8, natAt h 0x30 16) == (2, 4, 0, 0, 0, 0)
      | .error _ => false) = true ∧
    WordReady (chainState copyWave) 0 copyWave 0x2E4 { d := .s 5, a := .s 1 } ∧
    WordReady (stateOf copyWave) 0 copyWave 0x2E5 { a := .s 1, b := .s 3 } ∧ EventRoom (stateOf copyWave) 0 ∧
    (let w : Wave := { copyWave with sregs := [] }
     WordReady (chainState w) 0 w 0x2E9 { d := .s 5, a := .s 1 } ∧ tileRange (chainState w) 0 0 16 = some ⟨0, 0⟩) :=
  ⟨ready_of (by decide), by decide, by decide, ready_of (by decide), ready_of (by decide), ready_at rfl rfl (by decide), by decide,
    met (by decide +kernel), by decide +kernel, ready_at rfl rfl (by decide), ready_of (by decide), ⟨by decide, rfl⟩, ready_at rfl rfl (by decide), by decide⟩

/-- A copy of 64 bytes, and the state it is queued in. -/
def copyRec (ev : Bool) : CopyRec := { id := 1, wave := 0, pend := 3, ctx := 0, blk := 0, work := .cpy 0x40002000 0x40001000 64, ev := ev }
def copyState (ev : Bool) : State :=
  let w : Wave := { copyWave with pend := [pendOf (.engine 1)], nextId := 4 }
  { withCore w { copies := [copyRec ev], ctx := some 0 } with mem := (chainState w).mem }

/-- A bound chain whose record 0 has the OP `op`. -/
def oneChain : Chain :=
  { hdr := 0x40001000, ctx := 0, tail := 1, done := 0, issued := [{ upto := 1, id := 0, blk := 0, who := { kind := .cox, id := 0 } }] }
def recState (op : Byte) : State :=
  { withCore wave { chains := [oneChain], ctx := some 0 } with
    mem := (chainState wave).mem ++ (if op = 0 then [] else [(0x40002000, op)]) ++ (if op = 1 ∨ op = 2 then [(0x4000200B, 0x40), (0x40002013, 0x40),
      (0x40002018, 8), (0x4000201C, if op = 1 then 0 else 1)].filter (fun p => p.2 != 0) else if op = 3 ∨ op = 4 then [(0x4000200B, 0x40)] else []) }

/-- What `ChainRuns` asks, as a test. -/
def runsChain (s : State) (op : Nat) : Bool := match chainRec s 0 oneChain 0 with
  | (s1, .ok (_, r)) => recOp r == op && !recBad s1 oneChain.ctx r && recRuns s1 0 oneChain 0 r
  | _ => false

theorem chainRuns_of {s : State} {op : Nat} (hc : (s.core 0).chains = [oneChain]) (h : runsChain s op = true) :
    ∃ s1 a r, ChainRuns s s1 op 0 0x40001000 0 oneChain a r := by
  unfold runsChain at h
  split at h
  · rename_i s1 a r e
    simp only [Bool.and_eq_true, beq_iff_eq, Bool.not_eq_true'] at h
    exact ⟨s1, a, r, by rw [hc]; rfl, e, h.1.1, h.1.2, h.2⟩
  · cases h

theorem witness_CopyEvents :
    ((copyState true).core 0).copies.find? (fun x => x.id == 1) = some (copyRec true) ∧ forkReady (copyState true) 0 3 = true ∧
    needSnoop (copyState true) (copyAddrs (copyState true) 0 0 (copyResolve (copyState true) 0 0) (copyRec true).work.moves) = none ∧
    copyStarted (copyState true) 0 1 0 = true ∧ (runCopy (copyState true) 0 (copyJob (copyState true) (copyRec true)) false none).2.1 = 0 ∧
    (let j := copyJob (copyState true) (copyRec true)
     let p := prepAll 0 j.ctx j.rs j.stash false (copyState true) 0 (segsOf j.moves)
     j.seg = 0 ∧ (badSegs p.2).length = 0 ∧ (goodSegs p.2).any (fun g => g.bad) = false ∧ segsLap p.1 (goodSegs p.2) = false) ∧
    EventRoom (copyState true) 0 ∧ (∀ op ∈ [0, 1, 2, 3, 4, 5], ∃ s1 a r, ChainRuns (recState (BitVec.ofNat 8 op)) s1 op 0 0x40001000 0 oneChain a r) ∧
    (match chainRec (recState 6) 0 oneChain 0 with
      | (s1, .ok (_, r)) => recBad s1 0 r && recRuns s1 0 oneChain 0 r
      | _ => false) = true ∧
    oneChain.halt = 0 ∧ (∃ b, blockAt { stateOf wave with blocks := [(0, some { loadBlock with mailbox := [(0, 16, 3)] })] } 0 = some b ∧
      b.mailbox = [(0, 16, 3)]) :=
  ⟨by decide +kernel, by decide, by decide +kernel, by decide, by decide +kernel, ⟨rfl, by decide +kernel, by decide +kernel, by decide +kernel⟩,
    ⟨by decide, rfl⟩, by
    intro op h
    simp only [List.mem_cons, List.not_mem_nil, or_false] at h
    rcases h with rfl | rfl | rfl | rfl | rfl | rfl <;> exact chainRuns_of rfl (by decide +kernel),
    by decide +kernel, rfl, ⟨_, rfl, rfl⟩⟩

/-- A wave whose s1 lies in package 1, which port 0 reaches. -/
def farWave : Wave := { wave with sregs := [(1, 0xC0001000)], exec := 1 }
def farState (w : Wave) : State :=
  { stateOf w with mem := (stateOf w).mem ++ [(0x20018, 0x0F), (0x2001D, 0x01), (0x2001E, 0x01)], ports := [(0, { state := .up })], peerrt := [(1, 0x80)] }
def farWord : TOp := { word with fmt := .b32, a := .s 1, b := .k 0, c := .v 4 }
def farPart : Part := { lane := 0, locs := (List.range 4).map (fun i => .phys (2 ^ 48 + 2 ^ 40 + 0x1000 + i) .x []), data := 0 }

theorem witness_RemoteStores : WordReady (farState farWave) 0 farWave 0x2E6 farWord ∧
    wordLanes (waveView (farState farWave) 0 farWave) farWord false = [(0, 0xC0001000)] ∧
    (∃ s1 parts, remoteCheck farWord (farState farWave) 0 farWave [(0, 0xC0001000)] = (s1, .ok parts)) ∧
    gatherLines (farState farWave) [farPart] ≠ [] ∧ remoteFull farWave [(1, 1)] = false ∧
    (∃ e, (remoteCheck farWord (farState farWave) 0 farWave [(0, 0x40001000)]).2 = .error e) ∧
    WordReady (farState farWave) 0 farWave 0x2E7 farWord ∧ (waveView (farState farWave) 0 farWave).active = [0] ∧
    Clear (stateOf wave) 0 wave { sees := fun d => d.atRfence && !wave.pend.any (fun p => p.cls == .rst) } ∧
    (let s := { stateOf wave with notices := [(5, true)], keeperHeld := [{ src := 6, epoch := true, count := 2, store := none }] }
     (5, true) ∈ s.notices ∧ (keeperOf s 5).failed = false ∧
     s.keeperHeld.find? (fun f => f.src == 6 && f.epoch == true && decide ((keeperOf s 6).applied true < f.count)) =
       some { src := 6, epoch := true, count := 2, store := none } ∧
     (outsideStore s (bytesOf 0x40001000 4 7) false .x).1 = true) ∧
    (0x40001000 < 16 * interL (stateOf wave) ∧ isPeer (stateOf wave) 0x40001000 = false ∧ isLost (stateOf wave) 0x40001000 = false) ∧
    (keeperOf { stateOf wave with keepers := [(keeperKey 5, { failed := true })] } 5).failed = true ∧
    (let q : Packet := { id := 7, wave := 0, pend := some 3, pkg := 1, path := 0, port := 0, isFlag := false, epoch := false, line := 0, mask := 0, data := 0 }
     ({ busyState (.packets [7]) with packets := [q] } : State).packets.find? (fun x => x.id == q.id && x.wave == 0) = some q ∧
     isPend (busyWave (.packets [7])).pend 3 (pendOf (.packets [7])) (.packets [7])) :=
  ⟨ready_at rfl rfl (by decide), by decide, met (by decide +kernel), by decide +kernel, by decide, ⟨_, rfl⟩, ready_at rfl rfl (by decide), by decide,
    clear_of (by decide), by decide +kernel, by decide, by decide, by decide, by decide, rfl⟩

/-! ### Special registers and traps -/

theorem witness_SpecialRegisters : WordReady (stateOf wave) 0 wave 0x340 { d := .s 1, a := .k 0x40 } ∧
    opndIx (.k 0x40) = 0x40 ∧ (∀ n ∈ [0x40, 0x41, 0x42, 0x44, 0x45, 0x46, 0x47, 0x48, 0x49, 0x4A, 0x4B],
      ∃ p ∈ specialValues (stateOf wave) wave 0, p.1 = n) ∧
    WordReady (stateOf wave) 0 wave 0x340 { d := .v 2, a := .k 0x43 } ∧ wave.comp = none ∧
    WordReady (stateOf wave) 0 wave 0x341 { a := .k 0x43, b := .v 2 } ∧ WordReady (stateOf wave) 0 wave 0x341 { a := .k 0x47, b := .s 1 } ∧
    (let w : Wave := { wave with sregs := [(1, 0x1FFF), (2, 0x2000), (3, 3)] }
     WordReady (stateOf w) 0 w 0x345 { d := .s 5, a := .s 1 } ∧ waveSca w { d := .s 5, a := .s 1 } (.s 1) = 0x1FFF ∧
     waveSca w { d := .s 5, a := .s 2 } (.s 2) = 0x2000 ∧ waveSca w { d := .s 5, a := .s 3 } (.s 3) = 3) :=
  ⟨ready_of (by decide), rfl, by decide, ready_of (by decide), rfl, ready_of (by decide), ready_of (by decide), ready_of (by decide), by decide,
    by decide, by decide⟩

/-- A handler whose CBM holds causes 5 and 7. -/
def pendingWave : Wave := { handlerWave with cbm := 2 ^ 5 + 2 ^ 7 }

theorem witness_TrapReturn : WordReady (stateOf handlerWave) 0 handlerWave 0x342 {} ∧
    handlerWave.stack = [.trap 0x40000200 0 0x046 0xFFFFFFFF] ∧ handlerWave.spilled ≤ 0 ∧ handlerWave.cbm = 0 ∧ handlerWave.inj = [] ∧
    WordReady (stateOf pendingWave) 0 pendingWave 0x342 {} ∧ bitOf pendingWave.cbm 5 = true ∧ (∀ j, j < 5 → bitOf pendingWave.cbm j = false) ∧
    (fetchWord (stateOf handlerWave) 0 0 0x40000200 9100).2.isSome = true ∧ WordReady (stateOf wave) 0 wave 0x342 {} ∧ wave.stack = [] ∧
    WordReady (stateOf wave) 0 wave 0x343 { imm := 0x55 } ∧ MayTrap (stateOf wave) wave ctrlClause ∧
    WordReady (stateOf wave) 0 wave 0x348 {} ∧ blockAt (stateOf wave) 0 = some loadBlock ∧ (stateOf wave).sys.dbg ≠ 2 ∧
    Tab.wf none (stateOf { wave with hold := .halted }).waves = true :=
  ⟨ready_of (by decide), rfl, by decide, rfl, rfl, ready_of (by decide), by decide, by decide, by decide +kernel, ready_of (by decide), rfl,
    ready_of (by decide), ⟨rfl, rfl, by decide, rfl, by decide, by decide, ⟨by decide, by decide, by decide⟩⟩, ready_of (by decide), rfl, by decide,
    by decide⟩

/-- A handler whose s1 names an aligned record. -/
def recordWave : Wave := { handlerWave with bud := 8, sregs := [(1, 0x40002000)], exec := 1 }

theorem witness_RecordFits : recordFits (stateOf recordWave) recordWave
    ([0x52, 0x57, 0xB0, 0x7A, 0, 0, 0, 0, 1, 0, 0, 0, 0xA8, 0x3D, 0x52, 0x1F] ++ List.replicate 0x1FF0 0) = true := by decide +kernel

theorem witness_TranslationsAndRecords : WordReady (stateOf memWave) 0 memWave 0x344 { a := .s 1, b := .k 1 } ∧
    fenceBusy memWave.pend 2 4 = false ∧ tlbiBusy (stateOf memWave) 0 (some (0x4000, 1)) = false ∧
    (∃ x, walk (stateOf memWave) 0 0x40001000 = .ok x ∧ extentDetail (stateOf memWave) x.pa = none) ∧
    (∃ e, walk (stateOf memWave) 0 0 = .error e) ∧ memWave.inHandler = false ∧ WordReady (stateOf memWave) 0 memWave 0x346 { a := .s 1 } ∧
    WordReady (stateOf recordWave) 0 recordWave 0x346 { a := .s 1 } ∧
    (∃ s1 ls, recordLocs { a := .s 1 } true (stateOf recordWave) 0 recordWave = (s1, .ok ls)) ∧ recordBusy (stateOf recordWave) 0 recordWave [] = false ∧
    WordReady (stateOf recordWave) 0 recordWave 0x347 { a := .s 1 } ∧
    (∃ s1 ls, recordLocs { a := .s 1 } false (stateOf recordWave) 0 recordWave = (s1, .ok ls)) ∧
    recordFits (stateOf recordWave) recordWave [] = false :=
  ⟨ready_of (by decide), by decide, by decide +kernel, ⟨_, rfl, by decide +kernel⟩, ⟨_, rfl⟩, by decide, ready_of (by decide), ready_of (by decide),
    met (by decide +kernel), by decide, ready_of (by decide), met (by decide +kernel), by decide +kernel⟩

/-! ### Waves, crossbar arrays, scarabs -/

/-- A wave at a clause boundary, and one whose clause is fetched from memory: a `nop` of class ctrl. -/
def idleWave : Wave := { wave with clause := none, pcPos := 0 }
def fetchState (w : Wave) : State :=
  { stateOf w with mem := (stateOf w).mem ++ [(0x40000000, 0x51), (0x40000002, 0xF8), (0x40000003, 0xA7)] }

/-- A divided wave whose path has run its quantum. -/
def tiredWave : Wave :=
  { idleWave with
    count := 256, exec := 0xFF
    stack := [.path 0x40000040 0 0xFFFFFF00 false, .path 0x40000000 0 0xFF true, .reconv none 0 0xFFFFFFFF] }

theorem witness_WavesAndCompaction : AtBoundary (fetchState idleWave) 0 idleWave ∧
    (match fetchClause (fetchState idleWave) 0 idleWave 0x40000000 with
      | (_, c, none) => c.words.length == 1 && (hdrWait c.hdr).all (fun f => !idleWave.flagPending f)
      | _ => false) = true ∧
    (fetchClause (stateOf idleWave) 0 idleWave 0x40000000).2.2.isSome = true ∧ StackRoom (stateOf idleWave) idleWave 1 ∧
    AtBoundary (stateOf tiredWave) 0 tiredWave ∧ pathQuantum tiredWave ≤ tiredWave.count ∧ tiredWave.inHandler = false ∧
    (∃ e, ({ wave with hold := .growth { cause := 0x081 } } : Wave).hold = .growth e) ∧
    (let b : Block := { loadBlock with last := true, gone := [0] }
     let s := { stateOf wave with waves := [], blocks := [(0, some b)], launches := [(0, some launch)] }
     blockAt s 0 = some b ∧ wavesOf s 0 = [] ∧ blockBusy s 0 = false ∧ launchAt s 0 = some launch ∧ (∀ n ∈ b.spawned, n ∈ b.gone) ∧ EventRoom s 0) ∧
    Clear (stateOf wave) 0 wave { reads := [.m 1] } ∧ StackRoom (stateOf wave) wave 3 ∧ wave.num ∉ loadBlock.meeting ∧
    (wave.num, wave.hdrAddr) ∈ ({ loadBlock with missed := [(0, 0x40000000)] } : Block).missed ∧ (wave.num, wave.hdrAddr) ∉ loadBlock.missed ∧ loadBlock.groups = [] ∧
    (∃ b, blockAt { stateOf wave with blocks := [(0, some { loadBlock with meeting := [0] })] } 0 = some b ∧ b.meeting ≠ []) ∧
    (compactPath [0, 1] [(0, 0x3), (1, 0x5)] true 0x40000040).length = 2 :=
  ⟨⟨rfl, rfl, rfl, rfl, rfl⟩, by decide +kernel, by decide +kernel, ⟨by decide, by decide, by decide⟩, ⟨rfl, rfl, rfl, rfl, rfl⟩, by decide, by decide,
    ⟨_, rfl⟩, ⟨rfl, by decide, by decide, rfl, by decide, ⟨by decide, rfl⟩⟩, clear_of (by decide),
    ⟨by decide, by decide, by decide⟩, by decide, by decide, by decide, rfl, ⟨_, rfl, by decide⟩, by decide⟩

/-- Array 0 of core 0, programmed and owned by context 0, with records. -/
def arrayOf (work : List XWork) : XArr :=
  { owner := some 0, state := .ready, calibrated := true, queue := work.map (fun x => { id := 1, wave := 0, pend := 3, work := x }) }
def arrayState (w : Wave) (work : List XWork) : State := withCore w { arrays := [(0, arrayOf work)] }

theorem witness_CrossbarWords : WordReady (stateOf wave) 0 wave 0x200 { a := .s 1 } ∧ waveSca wave { a := .s 1 } (.s 1) = 0 ∧
    (xarr (stateOf wave) 0 0).owner = none ∧ Owns (xarr (arrayState wave []) 0 0) 0 ∧ ¬ Owns (xarr (arrayState wave [.xrel]) 0 0) 0 ∧
    WordReady (arrayState wave []) 0 wave 0x201 { a := .s 1 } ∧ WordReady (arrayState wave []) 0 wave 0x202 { a := .s 1, b := .s 2 } ∧
    (arrayOf []).state ≠ .empty ∧ queued (arrayOf []) = 0 ∧ queued (arrayOf (List.replicate 8 .xcal)) = 8 ∧
    WordReady (arrayState wave []) 0 wave 0x207 { d := .v 1, a := .s 1 } ∧
    Clear (arrayState wave []) 0 wave (productGate { d := .v 8, a := .v 1, b := .s 1, c := .k 0 } false wave) ∧
    Clear (arrayState wave []) 0 wave (productGate { d := .v 56, a := .v 60, b := .s 1, c := .s 2 } true wave) ∧ 60 + 4 ≤ wave.bud ∧ 56 + 8 ≤ wave.bud ∧
    WordReady (arrayState wave []) 0 wave 0x208 { d := .s 5, a := .s 1 } ∧ WordReady (stateOf wave) 0 wave 0x209 { d := .v 1, a := .v 2 } ∧
    WordReady (stateOf wave) 0 wave 0x20A { d := .s 1, a := .v 2 } :=
  ⟨ready_of (by decide), by decide, rfl, ⟨rfl, by decide⟩, fun h => absurd rfl (h.2 _ (List.mem_singleton.mpr rfl)), ready_at rfl rfl (by decide),
    ready_at rfl rfl (by decide), by decide, by decide, by decide, ready_at rfl rfl (by decide), clear_of (by decide), clear_of (by decide), by decide,
    by decide, ready_at rfl rfl (by decide), ready_of (by decide), ready_of (by decide)⟩

/-- An image of 131,072 weights is not evaluated here; the rest is. -/
theorem witness_CrossbarEvents :
    (∀ x ∈ [XWork.xrel, .xprog 0x40001000, .xverify 0x40001000 5, .xcal, .xref 9, .xmv (List.replicate 512 0) [0, 1, 2, 3, 4, 5, 6, 7] 0],
      AtHead (arrayState (busyWave (.engine 1)) [x]) 0 0 { id := 1, wave := 0, pend := 3, work := x } x) ∧
    forkReady (arrayState (busyWave (.engine 1)) [.xcal]) 0 3 = true ∧ (arrayOf [.xcal]).state ≠ .failed ∧
    opHomes (arrayState (busyWave (.engine 1)) [.xcal]) 0 3 = [] ∧ ([0, 1, 2, 3, 4, 5, 6, 7] : List Nat).Nodup ∧
    (∀ j, j < 8 → RefExpects 0 (List.replicate 512 0) j 0 ∧ (((List.replicate 8 (-8) : List Int).getD j 0) - 0).natAbs ≤ 8) ∧
    8 < (([9] : List Int).getD 0 0).natAbs ∧ (∀ j, j < 8 → ([9] : List Int).getD j 0 = ([9] : List Int).getD j 0 - 0) ∧
    (∀ j, j < 8 → (([9] : List Int).getD j 0).natAbs ≤ (([9] : List Int).getD 0 0).natAbs) :=
  ⟨by
    intro x h
    simp only [List.mem_cons, List.not_mem_nil, or_false] at h
    rcases h with rfl | rfl | rfl | rfl | rfl | rfl <;> exact ⟨rfl, rfl⟩,
    by decide, by decide, by decide, by decide, by unfold RefExpects; decide +kernel, by decide, by decide, by decide⟩

/-- A scarab whose s1 is 3, s2 64, s3 the number of a channel of the own package, with bank 3 open. -/
def rowScarab : Scarab := { scarab with sregs := [(1, 3), (2, 64), (3, 0x0105)], open_ := [3] }

theorem witness_ScarabWords : ScarabTurn (scarabOf rowScarab) 0 (scOpRegs 0x320 { a := .s 1 }) ∧
    (BitVec.ofInt 64 ((scSca (scarabOf rowScarab) 0 rowScarab { a := .s 2 } (.s 2) : Int) + 0)).toNat = 64 ∧
    scSca (scarabOf rowScarab) 0 rowScarab { a := .s 1 } (.s 1) = 3 ∧ 3 ∈ rowScarab.open_ ∧
    (16 : Nat) ≤ ({ rowScarab with open_ := List.range 16 } : Scarab).open_.length ∧
    ScarabTurn (scarabOf rowScarab) 0 (scOpRegs 0x322 { d := .v 1, a := .s 1 }) ∧ rowFault rowScarab 3 7 = none ∧ rowFault rowScarab 3 8 = some 0x161 ∧
    rowFault rowScarab 4 0 = some 0x163 ∧ rowScarab.exec ≠ 0 ∧ ScRoom rowScarab { d := .v 1, a := .s 1 } ∧
    ScarabTurn (scarabOf rowScarab) 0 (scOpRegs 0x327 { a := .m 1 }) ∧ ScarabTurn (scarabOf rowScarab) 0 [] ∧ rowScarab.maskStack = [] ∧
    (0x0105 < 2 ^ 24 ∧ 0x0105 / 2 ^ 16 % 256 = 0) ∧ ScarabTurn (scarabOf rowScarab) 0 (scOpRegs 0x326 { word with a := .s 3, b := .v 4 }) ∧
    (let m : CollMsg := { src := 0x0105, grp := 0, data := [7] }
     let p := pendOf (.collRecv 1 0x0105 1 none [])
     let s := { scarabOf { rowScarab with pend := [p], msgs := [m] } with launches := [(0, some launch)] }
     (scarabAt s 0).msgs.find? (fun m => m.src == 0x0105 && m.grp == groupOfScarab s (scarabAt s 0)) = some m) ∧
    (hdrCount ctrlClause.hdr = 1 ∧ ctrlClause.words.length = 1 ∧ ctrlClause.addr = rowScarab.pcHdr) ∧ rowScarab.pend = [] :=
  ⟨⟨rfl, by decide⟩, by decide, by decide, by decide, by decide, ⟨rfl, by decide⟩, by decide, by decide, by decide, by decide,
    (fun f h => by revert f; decide), ⟨rfl, by decide⟩, ⟨rfl, by decide⟩, rfl, by decide, ⟨rfl, by decide⟩, by decide, by decide, rfl⟩

/-- A posted scarab launch with a block for stack 0, its dictionary loaded. -/
def scLaunch : Launch := { launch with scarab := true, state := .posted, rowBlocks := [(5, 0, 9, .x)], scDict := some [] }


/-- A running scarab between clauses over a fetched `nop`. -/
def idleScarab : Scarab := { scarab with clause := none }

theorem witness_ScarabEvents :
    (let s := { stateOf wave with launches := [(0, some scLaunch)] }
     launchAt s 0 = some scLaunch ∧ nextRow scLaunch 0 0 = some (5, 0, 9, .x) ∧ 0 ∉ s.sys.stacksLost ∧ scarabFree s 0 = true ∧
     (scLaunch.rowBlocks.map (·.1)).Nodup ∧ loadScarabDict s 0 scLaunch = (s, some [])) ∧
    (let s := { fetchState wave with scarabs := [(0, idleScarab)] }
     scarabHeld s 0 = false ∧ scFetchWord s 0 0x40000000 = some 0xA7F80051 ∧ scFetchWords s 0 0x40000004 1 = some [0] ∧
     scClauseFault 0xA7F80051 ([0].map (scResolve idleScarab)) = none ∧ (∀ f ∈ hdrWait 0xA7F80051, flagPending [] [] f = false)) ∧
    bitOf (0x1000105 : DWord) 24 = true ∧ canPlace { scarabOf scarab with launches := [(0, some launch)] } 0 0 = true ∧
    (let p := pendOf (.collSend 0x0105 [])
     let s := { scarabOf { scarab with pend := [p] } with launches := [(0, some launch)] }
     isPend (scarabAt s 0).pend 3 p (.collSend 0x0105 []) ∧ (scarabAt s 1).bound = false ∧ bitOf (0x0105 : DWord) 24 = false) ∧
    (∃ p ∈ (scarabAt (scarabOf { scarab with pend := [pendOf (.collRecv 1 0x0105 1 none [])] }) 0).pend, p.work = .collRecv 1 0x0105 1 none []) ∧
    ({ scarab with stopping := true } : Scarab).bound = true :=
  ⟨⟨rfl, by decide, by decide, by decide, by decide, rfl⟩,
    ⟨by decide, by decide +kernel, by decide +kernel, by decide +kernel, by decide +kernel⟩, by decide, by decide +kernel,
    ⟨⟨by decide, rfl⟩, by decide, by decide⟩, ⟨_, List.mem_singleton.mpr rfl, rfl⟩, by decide⟩

/-! ### Coxes, generator, umpires -/

/-- Cox 0 in context 0, its kernel object at 0x4000_2000 and its arena at 0x4001_0000; g1 0, g2 a global address, g3 3. -/
def kernelContext : Context := { loadContext with kbase := 0x40002000, arena := 0x40010000, arenaSize := 0x10000 }
def coxX : Cox := { pc := 0x40000000, ctx := some 0, lmlim := 16, gregs := [(2, 0x40001000), (3, 3)] }
def coxState (x : Cox) : State :=
  { stateOf wave with
    cur := .cox 0, coxes := State.reset.coxes.put {} 0 x, contexts := [(0, some kernelContext)]
    cores := [(0, { ctx := some 0, slots := [(0, { state := .ready, owner := 0 })], l1 := [(0x800020, some { data := 0, secs := [(0, 1)] })] })]
    blocks := [(1, some { loadBlock with spawned := [] })]
    mem := (stateOf wave).mem ++ [(0x40002006, 1), (0x40002018, 0x80), (0x40002034, 0x40), (0x40002040, 0xFE), (0x40002041, 2), (0x40002042, 7)
                                 , (0x40002044, 0xFF), (0x40002048, 0xFF), (0x4000204C, 0xFF), (0x40002080, 0xC0), (0x40002084, 1), (0x400020C0, 0x50)
                                 , (0x400020C3, 0xA0)] }

theorem witness_CoxArithmetic : CoxTurn (coxState coxX) 0 [3, 2] ∧ coxSpecs ≠ [] ∧ coxImmSpecs ≠ [] ∧ coxShiftSpecs ≠ [] ∧
    64 < (33#6).toNat + ((31#6).toNat + 1) ∧ (32#6).toNat + ((31#6).toNat + 1) ≤ 64 :=
  ⟨⟨rfl, by decide⟩, by simp [coxSpecs], by simp [coxImmSpecs], by simp [coxShiftSpecs], by decide, by decide⟩

theorem witness_CoxMemory : CoxTurn (coxState coxX) 0 [2, 3] ∧ (∃ s1 v, coxLoad (coxState coxX) 0 coxX 0x40001000 8 = (s1, .ok v)) ∧
    (∃ e, (coxLoad (coxState coxX) 0 coxX 0x40001001 8).2 = .error e) ∧ (1 : Nat) ∈ [1, 2, 4, 8] ∧ 0xFFFF + 1 ≤ coxX.lmlim * 4096 ∧
    (∃ s1 l, coxAddr (coxState coxX) 0 coxX 0xFFF8 8 true = (s1, .ok l)) ∧ (∃ s1 l, coxAddr (coxState coxX) 0 coxX 0x40001000 8 true = (s1, .ok l)) ∧
    coxX.sbuf.length < 16 ∧ coxScopeOk 6 = true ∧ coxScopeOk 0 = false ∧ coxX.sbuf = [] ∧
    coxLoadWaits (coxState coxX) 0 coxX 0x40001000 8 = false ∧
    (let ls := (List.range 8).map (fun i => Loc.phys (0x40001000 + i) .x [])
     olderConflict (coxState coxX) coxX.sbuf coxX.nextId [{ lane := 0, locs := ls, data := 0 }] = false ∧
     (atomRead (coxState coxX) 0 0 (agCox 0) 4 0 ls).2.2.bad = false ∧
     (coxStoreNow (coxState coxX) 0 coxX {} [{ lane := 0, locs := ls, data := 7 }]).isSome = true) :=
  ⟨⟨rfl, by decide⟩, met (by decide +kernel), ⟨_, rfl⟩, by decide, by decide, met (by decide +kernel), met (by decide +kernel), by decide, by decide,
    by decide, rfl, by decide +kernel, by decide +kernel, by decide +kernel, by decide +kernel⟩

/-- An umpire at its turn, with slot 0 mapped to queue 1 by a descriptor at 0x2000 that QTAB at 0x1000 names, one record ahead. -/
def umpX : Cox := { pc := 0x40000000, lmlim := 16, gregs := [(3, 1), (4, 64), (5, 0xFFF1)] }
def slot0 : QSlot :=
  { queue := 1, ring := 0x40003000, lg := 4, clg := 4, troot := 0x10000, pbase := 0, plim := 0, cring := 0x40004000, rdidx := 0, cwridx := 0, since := 0 }
def umpState (x : Cox) : State :=
  { stateOf wave with
    cur := .cox 256, coxes := State.reset.coxes.put {} 256 x, qslots := [(0, some slot0)], kicks := [9, 2], taken := [1]
    umps := [(0, some { active := true, qtab := 0x1000, jbase := 0x3000, jsize := 8, jseq := 3 }), (1, some { active := false })]
    mem := [(0x1009, 0x20), (0x1011, 0x22), (0x2008, 4), (0x200C, 4), (0x2024, 1), (0x2208, 4), (0x220C, 4)] ++ (stateOf wave).mem ++ [(0x40003000, 1)] }

theorem witness_CoxControl : CoxTurn (coxState coxX) 0 [2, 3] ∧ coxBranches ≠ [] ∧ csrValues (coxState coxX) 0 coxX ≠ [] ∧
    contextAt (coxState coxX) 0 = some kernelContext ∧ (umpState umpX).umps.look none (256 - 256) ≠ none ∧ CoxTurn (umpState umpX) 256 [] ∧
    coxX.hm = false ∧ ({ coxX with hm := true } : Cox).hm = true ∧ coxX.events = [] ∧
    (∃ e r, ({ coxX with events := [(1, 2)] } : Cox).events = e :: r) ∧ ((coxState coxX).core 0).heldEvents = [] ∧
    (coxAt (coxState { coxX with wait := .wfe 5 }) 0).wait = .wfe 5 :=
  ⟨⟨rfl, by decide⟩, by simp [coxBranches], by simp [csrValues], rfl, by decide, ⟨rfl, by decide⟩, rfl, rfl, rfl, ⟨_, _, rfl⟩, rfl, rfl⟩

/-- A cox with a clause of one `nop` in its buffer. -/
def emitX : Cox := { coxX with hv := true, cbh := 0xA7F80050, cbw := [0] }
/-- A cox whose local memory holds the control words of one wave to start. -/
def spawnX : Cox :=
  { coxX with lmem := [(3, 0x40), (8, 0xFF), (9, 0xFF), (10, 0xFF), (11, 0xFF), (13, 1), (0x13, 0x41), (0x19, 0x10), (0x1A, 8)] }
/-- A cox whose local memory names the arena, with no patch. -/
def stockX : Cox := { coxX with lmem := [(2, 1), (3, 0x40)] }

/-- A test that bytes of the arena can be written. -/
def arenaTest (s : State) (x : Cox) (va : Nat) (ws : List Word) : Bool :=
  match engLocs s 0 0 va (4 * ws.length) true 800 with
  | (s1, .ok ls) =>
    let parts : List Part := ((List.range ws.length).zip ws).map (fun p => { lane := 0, locs := (ls.drop (4 * p.1)).take 4, data := p.2.zeroExtend 64 })
    !olderConflict s1 x.sbuf x.nextId parts && (coxStoreNow (keepOldWords s1 0 parts) 0 x { rels := (sightOf s1 (agCox 0)).marks } parts).isSome
  | _ => false

theorem arena_of {s : State} {x : Cox} {va : Nat} {ws : List Word} (hx : x.ctx = some 0) (hk : contextAt s 0 = some kernelContext)
    (ha : va % 4 = 0 ∧ 0x40010000 ≤ va ∧ va + 4 * ws.length ≤ 0x40020000) (h : arenaTest s x va ws = true) : ∃ u, ArenaWritten s 0 x va ws u := by
  have hc : coxCtx x = 0 := by simp [coxCtx, hx]
  unfold arenaTest at h
  split at h
  · rename_i s1 ls e
    simp only [Bool.and_eq_true, Bool.not_eq_true', Option.isSome_iff_exists] at h
    obtain ⟨h1, s2, h2⟩ := h
    exact ⟨_, 0, kernelContext, s1, ls, s2, hx, hk, ha.1, ha.2.1, ha.2.2, by rw [hc]; exact e, h1, by rw [hc]; exact h2, rfl⟩
  · cases h

theorem witness_Generator : CoxTurn (coxState emitX) 0 [3] ∧ emitX.hv = true ∧ emitX.cbw.length + 14 ≤ 15 ∧ 15 < emitX.cbw.length + 15 ∧
    indexHoles (coxState emitX) 0 0 0 3 = some (fixedHoles 3) ∧ fillWord (fixedHoles 3) 0 [0, 1, 2, 3] 0 = .ok 0 ∧
    fillWord (fixedHoles 0) 1 [0, 1, 2, 3] 0 = .error 0 ∧ Commits { emitX with cbh := 0xA7F80070 } ∧
    (∃ u, ArenaWritten (coxState emitX) 0 emitX 0x40010000 [0xA7F80051, 0] u) ∧
    SlotOf { coxState emitX with blocks := [(0, some loadBlock)] } 0 emitX 0 wave ∧ emitX.cbw.find? isCtrlWord = none ∧ roomInQueue wave = 64 ∧
    (let x : Cox := stockX
     lm64 x 0 = 0x40010000 ∧ lm64 x 8 = 0 ∧ peekVirt (coxState x) 0 (0x40002000 + 4) 4 / 2 ^ 16 = 1 ∧ peekVirt (coxState x) 0 0x40002084 2 = 1 ∧
     peekVirt (coxState x) 0 0x40002086 2 = 0 ∧ (engRead (coxState x) 0 0 0x400020C0 4 0).2.toOption = some [0x50, 0, 0, 0xA0] ∧
     (groupHeaders [0xA0000050] 1 0).1 = true ∧ (((coxState x).core 0).slots.look {} 0).state = .ready ∧
     ∃ u, ArenaWritten (coxState x) 0 x 0x40010000 [0xA0000050] u) ∧
    (((coxState coxX).core 0).slots.look {} 1).selcnt = 0 ∧ (((coxState coxX).core 0).slots.look {} 1).state ≠ .loading ∧
    (∃ s1 r, loadDict (coxState coxX) 0 0 0x40001000 = (s1, r)) ∧
    waveBudgets (coxState spawnX) 0 0x40002000 = [64, 64] ∧
    MaySpawn (coxState spawnX) 0 spawnX 0 { loadBlock with spawned := [] } [64, 64] :=
  ⟨⟨rfl, by decide⟩, rfl, by decide, by decide, by decide, rfl, rfl, by unfold Commits; decide,
    arena_of rfl rfl (by decide) (by decide +kernel), ⟨by decide, rfl, rfl, rfl⟩, by decide, by decide,
    ⟨by decide, by decide, by decide +kernel, by decide +kernel, by decide +kernel, by decide +kernel, by decide, by decide,
      arena_of rfl rfl (by decide) (by decide +kernel)⟩, by decide, by decide, ⟨_, _, rfl⟩, by decide +kernel, by unfold MaySpawn; decide +kernel⟩

/-- A launch that has been admitted to queue 1. -/
def ready : Launch := { launch with queue := 1, state := .admitted }

theorem witness_UmpireWords : CoxTurn (umpState umpX) 256 [3, 4] ∧ (gReg umpX 3).toNat < 64 ∧ 64 ≤ (gReg umpX 4).toNat ∧
    ((umpState umpX).qslots.look none 0).isSome = true ∧ (umpState umpX).qslots.look none 1 = none ∧ readDesc (umpState umpX) 0x1000 0 = none ∧
    (readDesc (umpState umpX) 0x1000 2).isSome = true ∧ slotOf (umpState umpX) 2 = none ∧ (slotOf (umpState umpX) 1).isSome = true ∧
    queueRuns (umpState umpX) 1 = false ∧ ((2 : Nat) ∈ (umpState umpX).kicks ∧ ∀ k ∈ (umpState umpX).kicks, 1 ≤ k → 2 ≤ k) ∧
    (umpOf (umpState umpX) 256).jsize ≠ 0 ∧
    (∀ b ∈ (List.range 32).map (fun i => 0x3060 + i), physKind (umpState umpX) b ≠ .nothing) ∧
    needSnoop (umpState umpX) ((List.range 32).map (fun i => 0x3060 + i)) = none ∧
    ¬ ((gReg umpX 5).toNat % 8 = 0) ∧ umpRead (umpState umpX) 0x3000 32 = some 0 ∧ postedNext (umpState umpX) = none ∧
    postedNext { umpState umpX with launches := [(0, some ready)] } = some (0, ready) ∧
    (postLaunch (umpState umpX) 0 ready).isSome = true ∧ maskDies (umpState umpX) ready = [0] ∧ heldBy (umpState umpX) 0 = 0 :=
  ⟨⟨rfl, by decide⟩, by decide, by decide, by decide, by decide, by decide +kernel, by decide +kernel, by decide, by decide, by decide, by decide,
    by decide, by decide +kernel, by decide +kernel, by decide, by decide +kernel, rfl,
    by simp [postedNext, ready, launch, slotOf, umpState, slot0, Nat.mod_one], by decide +kernel, by decide, by decide⟩

/-! ### The package around the cores -/

theorem witness_LinksAndAgents : (State.reset.ports.look {} 31).state = .down ∧ (State.reset.ports.look {} 0).pool = false ∧
    (State.reset.ports.look {} 3).pool = true ∧ ((farState farWave).ports.look {} 0).state ≠ .down ∧
    isPend (busyWave (.store [farPart] none true)).pend 3 (pendOf (.store [farPart] none true)) (.store [farPart] none true) ∧
    partPeers (busyState (.store [farPart] none true)) [farPart] ≠ [] ∧ (State.reset.banks.look [] 264).length < 64 ∧
    0x40001000 + [(1 : Byte), 2].length ≤ 16 * interL State.reset ∧ 16 * interL State.reset < 2 ^ 40 + [(1 : Byte), 2].length ∧
    State.reset.sys.stacksLost = [] ∧ (0x40001000 + 0) / 128 ∉ State.reset.hostLines ∧
    (0x40001000 + 0) / 128 ∈ ({ State.reset with hostLines := [0x800020] } : State).hostLines ∧
    isPend (coxAt (coxOf 0 { coxX with sbuf := [pendOf (.store [farPart] none true)] }) 0).sbuf 3 (pendOf (.store [farPart] none true))
      (.store [farPart] none true) :=
  ⟨by decide, by decide, by decide, by decide, ⟨by decide, rfl⟩, by decide, by decide, by decide, by decide, by decide, by decide, by decide,
    ⟨by decide, rfl⟩⟩

/-- A pool extent granted, and a package with a memory-side cache. -/
def poolExtent : Extent := { base := 2 ^ 51, size := 2 ^ 30, state := .granted }
def poolState (e : ExtState) : State := { State.reset with mcGiB := 1, extents := [(3, { poolExtent with state := e })] }

theorem witness_WindowsAndExtents : MayEnable (poolState .granted) 0 (2 ^ 51) 1 ∧ ¬ MayEnable (poolState .granted) 0 (2 ^ 51) 0 ∧
    (∀ p ∈ (poolState .granted).extents, p.1 ≠ 4 → p.2.state ≠ .absent → p.2.base + p.2.size ≤ 2 ^ 52 - 2 ^ 20 ∨ (2 ^ 52 - 2 ^ 20) + 2 ^ 20 ≤ p.2.base) ∧
    ((poolState .granted).extents.look {} 4).state = .absent ∧ ((poolState .revoked).extents.look {} 3).state = .revoked ∧
    (poolState .granted).extents.look {} 3 = poolExtent ∧ extentBusy (poolState .releasing) { poolExtent with state := .releasing } = false ∧
    (poolState .granted).sys.anchorLost = false :=
  ⟨⟨by decide, by decide, by decide, ⟨(3, poolExtent), by decide, rfl, by decide, by decide⟩⟩, fun h => h.1 rfl, by decide, by decide, by decide, by decide,
    by decide +kernel, rfl⟩

/-- Queue 1 with a completion to write, and the 64 slots all taken. -/
def done1 : Compl := { queue := 1, level := 0, status := 0, ident := 7, errWord := 0, errAddr := 0, user := 0, energy := 0 }
def fullSlots : State :=
  { umpState umpX with qslots := (List.range 64).map (fun n => (n, some { slot0 with queue := n + 10, since := n })) }

theorem witness_QueuesAndRecords : UmpireUp (umpState umpX) ∧ HasRecord (umpState umpX) 0 slot0 ∧
    ((recordBytesAt (umpState umpX) slot0).map (fun r => le r 0 1)) = some 1 ∧
    (recordBytesAt (umpState umpX) { slot0 with ring := 0 }) = none ∧ HasRecord { umpState umpX with qslots := [(0, some { slot0 with ring := 0 })] } 0
      { slot0 with ring := 0 } ∧
    slotOf { umpState umpX with complQ := [done1] } 1 = some (0, slot0) ∧
    ({ umpState umpX with complQ := [done1] } : State).complQ.find? (fun y => y.queue == 1) = some done1 ∧ done1.waits = false ∧
    (∀ u, activeUmp (umpState umpX) = some u → u.2.holding = false) ∧ descField (umpState umpX) 1 0x38 = some 0 ∧
    (slot0.cwridx + 2 ^ 32 - 0) % 2 ^ 32 ≠ 2 ^ slot0.clg ∧ (complXlat (umpState umpX) slot0).isSome = true ∧
    64 ≤ fullSlots.qslots.length ∧ (∀ p ∈ fullSlots.qslots, ∀ y, p.2 = some y → 0 ≤ y.since) ∧ (∃ k ∈ fullSlots.kicks, slotOf fullSlots k = none) ∧
    slotOf fullSlots 10 = some (0, { slot0 with queue := 10, since := 0 }) ∧ queueRuns (umpState umpX) 1 = false ∧
    activeUmp (umpState umpX) = some (0, umpOf (umpState umpX) 256) :=
  ⟨⟨rfl, rfl⟩, ⟨rfl, by decide, rfl, rfl, by decide, ⟨1, by decide +kernel, by decide⟩⟩, by decide +kernel, by decide +kernel,
    ⟨rfl, by decide, rfl, rfl, by decide, ⟨1, by decide +kernel, by decide⟩⟩, by decide, by decide, rfl, by
      intro u h
      cases h
      rfl, by decide +kernel, by decide, by decide +kernel, by decide, fun _ _ _ _ => Nat.zero_le _, ⟨9, by decide, by decide⟩, by decide, by decide, rfl⟩

/-- A launch waiting in queue 1, one posted to die 0 with a block to place, and one that failed before it ran. -/
def waitingLaunch : Launch := { launch with queue := 1 }
def postedLaunch : Launch := { launch with queue := 1, kbase := 0x40002000, psmax := 1, state := .posted, ctx := 0, dies := [0], unplaced := [0], toEnd := 1 }
def placeState : State := { coxState coxX with launches := [(0, some postedLaunch)], blocks := [] }

theorem chosen_core : Chosen placeState 0 0 postedLaunch [64, 64] 0 := by
  have h : ∀ d, d < 32 → coreTakes placeState d postedLaunch [64, 64] 0 = true →
      freeWaves placeState d [64, 64] < freeWaves placeState 0 [64, 64] ∨
        (freeWaves placeState d [64, 64] = freeWaves placeState 0 [64, 64] ∧ 0 ≤ d) := by decide +kernel
  exact ⟨rfl, by decide +kernel, fun d hd => h d (by omega)⟩

theorem witness_LaunchesAndBlocks :
    (let s := { umpState umpX with launches := [(0, some waitingLaunch)], contexts := [] }
     launchAt s 0 = some waitingLaunch ∧ slotOf s 1 = some (0, slot0) ∧ FirstReady s 0 waitingLaunch ∧ fitsAccount s waitingLaunch = true ∧
     freeCtx s 5 = true ∧ freeCtx s 0xFFFF = false) ∧
    (candidates placeState 0).head? = some (0, postedLaunch) ∧ postedLaunch.unplaced = [0] ∧ launchBudgets placeState postedLaunch = [64, 64] ∧
    peekVirt placeState 0 (0x40002000 + 0x38) 4 = 0 ∧ freePslots placeState 0 postedLaunch ≠ [] ∧ (∀ y ∈ blocksOf placeState 0, y.2.cluster ≠ 0) ∧
    ((placeState.core 0).ctx = some 0 ∧ contextAt placeState 0 = some kernelContext ∧
      (coxAt { placeState with coxes := [] } 0).ctx = none ∧ kernelContext.saving = false) ∧
    (let x : Launch := { waitingLaunch with status := 1 }
     launchOver { umpState umpX with launches := [(0, some x)] } 0 x = true) :=
  ⟨⟨by decide, by decide, ⟨by decide, by decide⟩, by decide, by decide, by decide⟩, by
      simp [candidates, launchesIn, placeState, postedLaunch, launch], rfl, by decide +kernel,
    by decide +kernel, by decide, by decide, ⟨rfl, rfl, rfl, rfl⟩, by decide⟩

/-- A quiet context that is being saved, and one that lies saved. -/
def savingState : State := { stateOf idleWave with contexts := [(0, some { loadContext with saving := true })] }
def savedState : State :=
  { umpState umpX with
    waves := [], blocks := [], launches := [(0, some waitingLaunch)]
    saved := [{ ctx := 0, cores := [(3, {}, {})], waves := [(3 * 64 + 5, { idleWave with block := 3 * 64 })], blocks := [(3 * 64, loadBlock)], bars := []
                scarabs := [] }] }

theorem witness_ContextSwitch : contextAt savingState 0 = some { loadContext with saving := true } ∧ ctxQuiet savingState 0 = true ∧ Sound savingState ∧
    Tab.wf none savingState.blocks = true ∧ savingState.saved = [] ∧
    (savedState.saved.find? (fun y => y.ctx == 0)).isSome = true ∧ launchAt savedState 0 = some waitingLaunch ∧ slotOf savedState 1 = some (0, slot0) ∧
    (∀ v ∈ savedState.saved, restoreFits savedState v [(3, 7)] = true ∧ (v.waves.map (fun p => moveKey [(3, 7)] p.1)).Nodup ∧
      (v.blocks.map (fun p => moveKey [(3, 7)] p.1)).Nodup ∧ (v.cores.map (·.1)).Nodup ∧
      (restoreImages [(3, 7)] 0 (v.cores.foldl (freeArrays [(3, 7)] 0) savedState) v.cores).toOption.isSome = true) ∧
    (let s := { stateOf wave with launches := [(0, some { launch with state := .completed, ctx := 0 })] }
     launchAt s loadContext.launch = some { launch with state := .completed, ctx := 0 }) :=
  ⟨rfl, by decide, ⟨by decide, by decide⟩, by decide, rfl, by decide, by decide, by decide, by decide +kernel, by decide⟩

theorem witness_MetersAndCap : (island State.reset 23).gated = false ∧ (island State.reset 0).count < max 1 (island State.reset 0).limit ∧
    max 1 (island (setIsland State.reset 0 { island State.reset 0 with count := 4095 }) 0).limit ≤ more 4095 ∧ State.reset.sys.anchorLost = false :=
  ⟨by decide, by decide, by decide, rfl⟩

theorem witness_PowerRequests : TakesRequest State.reset 1 23 0 1 ∧ islandCtxs State.reset 23 = [] ∧ islandCtxs (coxState coxX) 0 ≠ [] ∧
    Allowed State.reset.sys.life State.reset.sys.dbg 1 State.reset.sys.session State.reset.sys.conf (haltedOn State.reset 23) ∧
    chansQuiet State.reset [15 * 16 + 15] = true ∧ ¬ HoldsLive State.reset (List.range 256) ∧ HoldsLive (scarabOf scarab) [0] ∧
    allSaved State.reset = true ∧ allSaved (scarabOf scarab) = false ∧ State.reset.sys.dbg ≠ 2 ∧
    (∀ p ∈ State.reset.qslots, p.2 = none) ∧ State.reset.contexts = [] ∧
    ¬ TakesRequest { State.reset with sys := { State.reset.sys with pwrreq := request 0 0 0 2 1 } } 0 0 0 3 :=
  ⟨⟨rfl, .inl (by decide)⟩, by decide, by decide, (by unfold Allowed; decide), by decide, by unfold HoldsLive; decide, ⟨0, by decide, by decide⟩,
    by decide, by decide, by decide, by decide, rfl, by unfold TakesRequest; decide⟩

theorem witness_SecurityAndLoss :
    (let s := { State.reset with sys := { State.reset.sys with life := 1, session := true } }
     Allowed s.sys.life (2#2).toNat (pwrState s) s.sys.session s.sys.conf (haltedGated s)) ∧
    ¬ Allowed State.reset.sys.life (2#2).toNat (pwrState State.reset) State.reset.sys.session State.reset.sys.conf (haltedGated State.reset) ∧
    (127 : Nat) ∉ State.reset.sys.running ∧ State.reset.sys.life = 2 ∧ State.reset.dirty = [] ∧ (State.reset.die 7).lost = false ∧
    15 ∉ State.reset.sys.stacksLost ∧ (∃ b, blockAt (stateOf wave) 0 = some b ∧ launchAt { stateOf wave with launches := [(0, some launch)] } b.launch =
      some launch) :=
  ⟨by unfold Allowed; decide, by unfold Allowed; decide, by decide, rfl, rfl, rfl, by decide, ⟨_, rfl, rfl⟩⟩

/-- The requests of the package that reset leaves room for, and the conditions of the others. -/
theorem witness_PackageEventsComplete : State.reset.sys.anchorLost = false ∧ MayEnable (poolState .granted) 0 (2 ^ 51) 1 ∧
    ((poolState .granted).extents.look {} 4).state = .absent ∧ ((poolState .granted).extents.look {} 3).state = .granted ∧
    ((poolState .releasing).extents.look {} 3).state = .releasing ∧ extentBusy (poolState .releasing) { poolExtent with state := .releasing } = false ∧
    TakesRequest State.reset 0 0 0 0 ∧ TakesRequest State.reset 0 0 0 2 ∧ TakesRequest State.reset 0 0 0 3 ∧ State.reset.sys.dbg ≠ 2 ∧
    allSaved State.reset = true ∧ chansQuiet State.reset (List.range 256) = true ∧ (∀ p ∈ State.reset.qslots, p.2 = none) ∧
    (∀ p ∈ State.reset.contexts, p.2 ≠ none → ∃ v ∈ State.reset.saved, v.ctx = p.1) ∧ ¬ HoldsLive State.reset (List.range 256) ∧
    TakesRequest State.reset 1 23 0 0 ∧ TakesRequest State.reset 1 23 0 1 ∧
    Allowed State.reset.sys.life State.reset.sys.dbg 1 State.reset.sys.session State.reset.sys.conf (haltedOn State.reset 23) ∧
    islandCtxs State.reset 23 = [] ∧ TakesRequest State.reset 2 15 0 0 ∧ TakesRequest State.reset 2 15 0 2 ∧ TakesRequest State.reset 2 15 0 3 ∧
    TakesRequest State.reset 3 15 15 0 ∧ TakesRequest State.reset 3 15 15 2 ∧ TakesRequest State.reset 3 15 15 3 ∧
    chansQuiet State.reset ((List.range 16).map (fun ch => 15 * 16 + ch)) = true ∧ chansQuiet State.reset [255] = true ∧
    ¬ HoldsLive State.reset [255] ∧ TakesRequest State.reset 4 0 0 0 ∧ reqListed 0x400000 = false ∧
    Allowed State.reset.sys.life 0 (pwrState State.reset) State.reset.sys.session State.reset.sys.conf (haltedGated State.reset) ∧
    State.reset.sys.life = 2 ∧ State.reset.sys.life < 3 ∧ (State.reset.die 7).lost = false ∧ 15 ∉ State.reset.sys.stacksLost :=
  ⟨rfl, ⟨by decide, by decide, by decide, ⟨(3, poolExtent), by decide, rfl, by decide, by decide⟩⟩, by decide, by decide, by decide, by decide +kernel,
    ⟨rfl, .inl (by decide)⟩, ⟨rfl, .inl (by decide)⟩, ⟨rfl, .inl (by decide)⟩, by decide, by decide +kernel, by decide +kernel, by decide, by decide,
    by unfold HoldsLive; decide, ⟨rfl, .inl (by decide)⟩, ⟨rfl, .inl (by decide)⟩, by unfold Allowed; decide, by decide, ⟨rfl, .inl (by decide)⟩,
    ⟨rfl, .inl (by decide)⟩, ⟨rfl, .inl (by decide)⟩, ⟨rfl, .inl (by decide)⟩, ⟨rfl, .inl (by decide)⟩, ⟨rfl, .inl (by decide)⟩, by decide, by decide,
    by unfold HoldsLive; decide, ⟨rfl, .inl (by decide)⟩, by decide, by unfold Allowed; decide, rfl, by decide, rfl, by decide⟩

theorem witness_StepRunsDecoded : waveAt (stateOf wave) 0 = some wave ∧ wave.ended = false ∧ wave.hold = .no ∧ Runs (stateOf wave) 0 ∧
    StandsAt ctrlClause .nop ∧ (∃ b, blockAt (stateOf idleWave) 0 = some b ∧ b.halted = false) ∧ switchDue (stateOf tiredWave) tiredWave = true ∧
    switchDue (stateOf idleWave) idleWave = false ∧ (scarabAt (scarabOf scarab) 0).state = .running ∧ scarab.clause = some ctrlClause ∧
    (let s := { fetchState wave with coxes := [(0, coxX)] }
     (coxAt s 0).stopped = false ∧ (coxFetch s 0).2 = some 0xA7F80051 ∧ (decode (.cox 0xA2800025)).toOption.isSome = true) :=
  ⟨rfl, rfl, rfl, (by rintro k h; cases h; rfl), ⟨by decide, _, rfl, .inl ⟨by decide, rfl⟩⟩, ⟨_, rfl, rfl⟩, by decide, by decide, by decide, rfl,
    ⟨rfl, by decide +kernel, by decide⟩⟩

theorem witness_StepsKeepSound : Sound State.reset ∧ Sound (stateOf wave) := ⟨⟨by decide, by decide⟩, ⟨by decide, by decide⟩⟩

/-! ## Well-formedness -/

/-- `add.i32 v1, v2, v3`, and forms of it that one check each refuses. -/
def plain : TOp := { fmt := .i32, d := .v 1, a := .v 2, b := .v 3 }

theorem test_wf_accepts : (Instr.add plain).wf = true ∧ (Instr.call 1 0).wf = true ∧ (Instr.ext 1 2 32 31).wf = true := by decide
theorem test_wf_format : (Instr.add { plain with fmt := .f32 }).wf = false := by decide
theorem test_wf_attach : (Instr.wred { plain with att := 3 }).wf = false ∧ (Instr.add { plain with att := 1 }).wf = false := by decide
theorem test_wf_bounded : (Instr.add { plain with bnd := true }).wf = false ∧ (Instr.xfix { d := .v 8, a := .v 1 }).wf = false := by decide
theorem test_wf_opmod : (Instr.add { plain with opmod := 2 }).wf = false ∧ (Instr.cmp { plain with d := .m 1, opmod := 6 }).wf = false := by decide
theorem test_wf_operand_kind : (Instr.add { plain with d := .m 1 }).wf = false ∧ (Instr.add { plain with c := .s 1 }).wf = false ∧
    (Instr.sel { plain with c := .v 4 }).wf = false := by decide
theorem test_wf_scalar_destination : (Instr.add { plain with d := .s 1 }).wf = false := by decide
theorem test_wf_pair : (Instr.add { plain with fmt := .i64, d := .v 2, a := .v 4, b := .v 6 }).wf = true ∧
    (Instr.add { plain with fmt := .i64, d := .v 1, a := .v 4, b := .v 6 }).wf = false := by decide
theorem test_wf_slide : (Instr.call 0 6).wf = false ∧ (Instr.calli 0 1).wf = false := by decide
theorem test_wf_fields : (Instr.ext 1 2 33 31).wf = false ∧ (Instr.ins 1 2 63 1).wf = false := by decide
theorem test_wf_cox : (Instr.coxAmo 1 2 3 10 4 0 0).wf = false ∧ (Instr.coxAmo 1 2 3 0 2 0 0).wf = false ∧ (Instr.coxFence 4 0).wf = false ∧
    (Instr.coxFence 7 1).wf = false := by decide

/-! ## Words written out from the spec's encodings -/

/-- 06: `brd m3, +6`, `brd.cmp m2, +6`, `call` of offset 6 and slide 2; R139's `jmpt v3, s10, s11`. -/
theorem test_decode_control : decode (.fixed 0x07000033) = .ok (.brd 6 3) ∧ decode (.fixed 0x08000032) = .ok (.brdCmp 6 2) ∧
    decode (.fixed 0x0B100006) = .ok (.call 2 6) ∧ decode (.fixed 0x0902CA03) = .ok (.jmpt 11 10 3) := ⟨rfl, rfl, rfl, rfl⟩

/-- The words of 04's example program; `evq` names a pair, g10 and g11. -/
theorem test_decode_cox : decode (.cox 0xB5400000) = .ok (.evq 5) ∧ decode (.cox 0x258A0070) = .ok (.ext 12 10 0 7) ∧
    decode (.cox 0x858DFFFC) = .ok (.bne 12 13 (BitVec.ofInt 16 (-4))) ∧ decode (.cox 0x4DC00100) = .ok (.ldD 14 0 0x100) ∧
    decode (.cox 0x6DC00100) = .ok (.stD 14 0 0x100) ∧ decode (.cox 0x981FFFF8) = .ok (.jal 0 (BitVec.ofInt 21 (-8))) :=
  ⟨rfl, rfl, rfl, rfl, rfl, rfl⟩

/-- 05's and 19's examples. -/
theorem test_decode_generator : decode (.cox 0xC0050000) = .ok (.hdr 5 0) ∧ decode (.cox 0xC5043000) = .ok (.cmpw 8 4 6 0) ∧
    decode (.cox 0xC8080000) = .ok (.emw 8) ∧ decode (.cox 0xD12A0000) = .ok (.ems 9 10) ∧ decode (.cox 0xD12A0001) = .ok (.emsC 9 10) ∧
    decode (.cox 0xE8A60000) = .ok (.kscan 5 6) := ⟨rfl, rfl, rfl, rfl, rfl, rfl⟩

/-- A word decoded by a dictionary entry. -/
def decodeBy (e : BitVec 128) (w : Word) : Option Instr := (decode (.template (workTemplate e w))).toOption

/-- 03's entry 0x24: `add.i32 v20, v21, 100` and `add.i32 v20, v21, -3`. -/
theorem test_decode_add : decodeBy 0x00F5D39000000000035A000000002C40 0x24641514 =
      some (.add { fmt := .i32, d := .v 20, a := .v 21, b := .k 0x5A, imm := 100 }) ∧
    decodeBy 0x00F5D39000000000035A000000002C40 0x24FD1514 =
      some (.add { fmt := .i32, d := .v 20, a := .v 21, b := .k 0x5A, imm := 0xFFFFFFFD }) := ⟨rfl, rfl⟩

/-- 11's `xmv v12, v4, s3`, 17's `rowld.b32 v3, s2, 5` and 15's `barw b5, 0`. -/
theorem test_decode_engines : decodeBy 0x00ADD390000000000100000004000204 0x2603040C =
      some (.xmv { att := 1, d := .v 12, a := .v 4, b := .s 3 }) ∧
    decodeBy 0x0074D190000000000000400004000F22 0x20000523 =
      some (.rowld { att := 1, fmt := .b32, d := .v 3, a := .s 2, imm := 5 }) ∧
    decodeBy 0x000003F00000000000000000000002C1 0x2C000005 = some (.barw { opmod := 5 }) := by decide +kernel

/-- 16's `cpy.crc.ev.dv s10, s11, s12`; 14's `fence.rel.dv`, whose order is in OPMOD[1:0] and whose scope above it. -/
theorem test_decode_copies : decodeBy 0x00B15AA0000002C401004000040002E0 0x3000C2CA =
      some (.cpy { att := 1, a := .s 10, b := .s 11, c := .s 12, imm := 0x2C }) ∧
    decodeBy 0x0000027000000000000000000000022E 0x28000012 = some (.fence { opmod := 0x12 }) := by decide +kernel

/-! ## One step -/

/-- Lane `l` of register `r` after an instruction of wave 0, in a state where v2, v3 and v4 hold these in every lane. -/
def laneAfter (i : Instr) (a b c : Word) (r l : Nat) : Option Nat :=
  let rep := fun (x : Word) => Vector.replicate 32 x
  match exec i (stateOf { wave with vregs := [(2, rep a), (3, rep b), (4, rep c)].filter (fun p => p.2 != rep 0) }) with
  | .next s => (waveAt s 0).map (fun w => vecLane w (w.phys r) l)
  | _ => none

/-- R152's rules at a wrap, at `.sat`, at the most negative number. -/
theorem test_add_wraps : laneAfter (.add plain) 0xFFFFFFFF 2 0 1 31 = some 1 := by decide +kernel
theorem test_add_saturates : laneAfter (.add { plain with fmt := .i8, opmod := 1 }) 100 100 0 1 0 = some 127 := by decide +kernel
theorem test_abs_min : laneAfter (.abs { plain with b := .v 0 }) 0x80000000 0 0 1 0 = some 0x80000000 := by decide +kernel
/-- R154: a quotient rounds toward zero. -/
theorem test_div_toward_zero : laneAfter (.div plain) 7 0xFFFFFFFE 0 1 0 = some 0xFFFFFFFD := by decide +kernel
theorem test_rem_sign : laneAfter (.rem plain) 0xFFFFFFF9 2 0 1 0 = some 0xFFFFFFFF := by decide +kernel
/-- 07: `shl.b32` by 40 gives 0; `rotl.b32` of 0x1234_5678 by 40 gives 0x3456_7812. -/
theorem test_shl_40 : laneAfter (.shl { plain with fmt := .b32 }) 0x12345678 40 0 1 0 = some 0 := by decide +kernel
theorem test_rotl_40 : laneAfter (.rotl { plain with fmt := .b32 }) 0x12345678 40 0 1 0 = some 0x34567812 := by decide +kernel
/-- R160's example. -/
theorem test_bperm : laneAfter (.bperm { plain with fmt := .b32 }) 0x88112233 0x00007F12 0 1 0 = some 0xFF002211 := by decide +kernel
theorem test_clz : laneAfter (.clz { plain with fmt := .b32, b := .v 0 }) 1 0 0 1 0 = some 31 := by decide +kernel
theorem test_shfl_up : laneAfter (.shfl { plain with fmt := .b32, opmod := 1 }) 7 1 0 1 0 = some 7 := by decide +kernel
/-- 1 + 2 in f32. -/
theorem test_fadd : laneAfter (.fadd { plain with fmt := .f32 }) 0x3F800000 0x40000000 0 1 0 = some 0x40400000 := by decide +kernel
/-- R197: a fused product rounds once: (1 + 2^-23)^2 - (1 + 2^-22) is 2^-46. -/
theorem test_fma_once : laneAfter (.fma { plain with fmt := .f32, c := .v 4 }) 0x3F800001 0x3F800001 0xBF800002 1 0 = some 0x28800000 := by decide +kernel

/-- A register of cox 0 after an instruction of it. -/
def coxAfter (i : Instr) (x : Cox) (r : BitVec 5) : Option DWord := match exec i (coxState x) with
  | .next s => some (gReg (coxAt s 0) r)
  | _ => none

/-- 04: `lui g5, 0x1234`, then `ori g5, g5, 0x5678`. -/
theorem test_lui : coxAfter (.lui 5 0x1234) coxX 5 = some 0x12340000 := by decide +kernel
theorem test_ori : coxAfter (.ori 5 5 0x5678) { coxX with gregs := [(5, 0x12340000)] } 5 = some 0x12345678 := by decide +kernel
theorem test_g0 : coxAfter (.addi 0 2 7) coxX 0 = some 0 := by decide +kernel

/-- 18's example: the TRAP entry of wave 3, and TCAUSE. -/
theorem test_trap_entry : Entry.code 3 (.trap 0x20000 2 0x081 0xFFFFFFE0) = 0x0000000000000020000903FFFFFFC034 ∧
    tcauseWord 0x081 2 0 5 = 0x00050481 ∧ tcauseWord 0x084 0 1 0 = 0x00002084 := by decide
/-- 13's example: the home of 0x12_3456_7000. -/
theorem test_home : homeStack 0x1234567000 = 0 ∧ homeSlice 0x1234567000 = 5 := by decide
/-- 19's example: the split of 30 iterations over 4 blocks, the fix-up table, the event header of block 2. -/
theorem test_split :
    let x : Launch := { launch with ntiles := 5, tileIt := 6, gx := 4 }
    (List.range 4).map (blockRange x) = [(0, 7), (7, 15), (15, 22), (22, 30)] ∧ (List.range 5).map (tileMeets x) = [1, 2, 2, 2, 1] ∧
    eventHdr 1 1 0xFFFE 0x00020003 = 0x00020003FFFE0101 := by decide
/-- 16's example: the CRC-32 of "123456789" and the header of the copy's event. -/
theorem test_crc : crc32 [0x31, 0x32, 0x33, 0x34, 0x35, 0x36, 0x37, 0x38, 0x39] = 0xCBF43926 ∧ eventHdr 4 0 5 0x7F003000 = 0x7F00300000050004 := by
  decide
/-- 08: 464 rounds to 448 in e4m3; the group sum of 2^20, -2^20 and 1.75 × 2^-26 is 1.5 × 2^-26. -/
theorem test_rounding : (deliverTo .e4m3 .rn false 0 (.fin false 464 1 0)).bits = 0x7E := by decide +kernel
theorem test_group_sum : toF32 (groupSum ([(0x6400, 0x6400), (0x6400, 0xE400), (0x0B00, 0x0800)].map (fun p =>
    FVal.mul (decodeElem .f16 p.1) (decodeElem .f16 p.2)))) = 0x32C00000 := by decide +kernel
/-- 09's example: the bound of `fadd.b` grows by the rounding, and `fcmp.lt.b` compares with it. -/
def boundedWave : Wave :=
  { wave with vregs := [(2, Vector.replicate 32 0x4B800000), (3, Vector.replicate 32 0x3F800000)], vtags := [(2, 0x63)] }
theorem test_fadd_bounded : (match exec (.fadd { plain with fmt := .f32, bnd := true, d := .v 4, a := .v 2 }) (stateOf boundedWave) with
    | .next s => (waveAt s 0).map (fun w => (vecLane w 4 9, w.vtags.look 0 4))
    | _ => none) = some (0x4B800000, 0x64) := by decide +kernel

/-! ## Conditions on the wider machine, met by the states of the witnesses above -/

/-- A peer store whose request went by path 0 and port 0. -/
def askedStore : Pend := { pendOf (.store [farPart] none true) with reqs := [⟨0, 0, 0⟩] }

theorem witness_requests : isPend (busyWave (.store [farPart] none true) |>.addPend askedStore).pend 3 (pendOf (.store [farPart] none true)) (.store [farPart] none true) ∧
    isPend [askedStore] 3 askedStore (.store [farPart] none true) ∧ askedStore.reqs.filter (fun r => r.port == 0) ≠ [] ∧ portBusy State.reset 0 = false ∧
    portBusy (busyState (.packets [])) 0 = false ∧ (∀ a ∈ [0x40001000, 0x40001001], outsideHas State.reset true a = true) ∧
    outsideHas { State.reset with slGiB := 1 } true (2 ^ 40 + interL { State.reset with slGiB := 1 }) = true ∧
    outsideHas State.reset false (2 ^ 40) = false :=
  ⟨⟨by decide, rfl⟩, ⟨by decide, rfl⟩, by decide, by decide, by decide, by decide, by decide, by decide⟩

theorem witness_turns : mayStart (fetchState idleWave) idleWave = true ∧ mayStart (stateOf tiredWave) tiredWave = false ∧
    (∀ b, blockAt (stateOf wave) wave.block = some b → b.rolling = false) ∧ outranked (stateOf wave) 0 wave = false ∧
    (let hot : Wave := { idleWave with num := 1, aged := true, clause := some { ctrlClause with pos := 0 } }
     let s := { fetchState wave with time := 100, waves := [(0, some wave), (1, some hot)] }
     outranked s 0 wave = true) ∧
    wave.issuedAt + 2048 ≤ ({ stateOf wave with time := 2048 } : State).time ∧ wave.ended = false ∧ wave.hold = .no ∧
    loadBlock.shut = false ∧ meetingQuiet (stateOf wave) 0 { loadBlock with meeting := [0] } = true ∧
    meetingQuiet (busyState (.packets [])) 0 { loadBlock with meeting := [0] } = false ∧ scalarParity recordWave = none :=
  ⟨by decide, by decide, by rintro b h; cases h; rfl, by decide, by decide, by decide, rfl, rfl, rfl, by decide, by decide, by decide⟩

theorem witness_umpire : holdFull (umpState umpX) = false ∧ ({ done1 with intent := true } : Compl).intent = true ∧
    reportsBefore (umpState umpX) 0 waitingLaunch = false ∧ (umpState umpX).sys.pwr = 0 ∧ coxesDrained (stateOf wave) 0 = true ∧
    coxesDrained (coxState { coxX with sbuf := [pendOf (storeOf false)] }) 0 = false ∧ (activeUmp (umpState umpX)).isSome = true ∧
    (umpOf (umpState umpX) 256).lastJ + 120000 ≤ ({ umpState umpX with time := 120000 } : State).time ∧
    (let s := { coxState coxX with launches := [(0, some launch)] }
     launchOver s 0 launch = false ∧ launch.state ≠ .completed ∧ launchAt s kernelContext.launch = some launch) :=
  ⟨by decide, rfl, by decide, rfl, by decide, by decide, by decide, by decide, by decide, by decide, by decide⟩

theorem witness_lostStacks : (0 / 2 : Nat) ∉ State.reset.sys.stacksLost ∧ (3 : Nat) ∈ ({ State.reset.sys with stacksLost := [3] } : Sys).stacksLost ∧
    (scarabAt (scarabOf { scarab with stopping := true }) 0).stopping = true ∧ scarabHeld (scarabOf scarab) 0 = false :=
  ⟨by decide, by decide, rfl, by decide⟩

theorem witness_engines : forkReady (chainState copyWave) 0 copyWave.nextId = true ∧ (tileRecord task true).work.poisoned (tileState task) = false ∧
    (oneChain.issue 0).any (fun q => copyStarted (recState 1) 0 q.id 0) = true ∧ (∀ m ∈ oneChain.moved, m.1 ≠ 0) ∧
    (busyWave (.packets [7])).pend.any (fun p => p.cls == .mem) = true :=
  ⟨by decide, by decide, by decide +kernel, by decide, by decide⟩

end Sys2Proof.Tests
end

/-! The arithmetic instructions of the coxes and umpires (04 R76, R85 to R88): the rule of an instruction that writes one
g register, and each result, computed on naturals and integers by the model, as an operation on 64-bit words. -/

namespace Sys2Proof.Claims

open Sys2Proof.Machine Sys2Proof.Safety

/-! ## Reading and writing a g register (R76) -/

theorem cox_g_eq (x : Cox) (a : BitVec 5) : x.g a = (gReg x a).toNat := by
  unfold Cox.g gReg
  split <;> rfl

theorem ofNat_g (x : Cox) (a : BitVec 5) : BitVec.ofNat 64 (x.g a) = gReg x a := by
  rw [cox_g_eq, BitVec.ofNat_toNat, BitVec.setWidth_eq]

theorem setG_frame (x : Cox) (d : BitVec 5) (v : Nat) :
    x.setG d v = { x with gregs := (x.setG d v).gregs, parity := (x.setG d v).parity } := by
  unfold Cox.setG
  split <;> rfl

theorem gReg_setG (x : Cox) (d r : BitVec 5) (v : Nat) :
    gReg (x.setG d v) r = if r = d ∧ d ≠ 0 then BitVec.ofNat 64 v else gReg x r := by
  by_cases hd : d = 0
  · simp [Cox.setG, hd]
  · have hset : ∀ j, (x.setG d v).gregs.look 0 j = if j = d.toNat then BitVec.ofNat 64 v else x.gregs.look 0 j := fun j => by
      rw [Cox.setG, if_neg hd, Tab.look_put]
    have hsame : r.toNat = d.toNat ↔ r = d := BitVec.toNat_inj
    by_cases hr : r = d
    · simp only [gReg, hset, hr, hd, if_true, if_false, ne_eq, not_false_eq_true, and_self]
    · simp only [gReg, hset, hsame, hr, if_false, false_and]

theorem onlyCox_setCox_setCox (s : State) (c : Nat) (y z : Cox) : OnlyCox s (setCox (setCox s c y) c z) c z := by
  refine ⟨rfl, coxAt_setCox_self _ _ _, fun j hj => ?_⟩
  rw [coxAt_setCox_ne _ _ hj, coxAt_setCox_ne _ _ hj]

/-! ## An instruction that writes gD -/

/-- What is left to show of an instruction that ends with one write of gD: the value it writes. -/
theorem writesReg_of_done {s : State} {c : Nat} {i : Instr} {d : BitVec 5} {n : Nat} {v : DWord}
    (he : exec i s = .next (coxFinish s c (.done (setCox s c ((coxAt s c).setG d n))))) (hv : BitVec.ofNat 64 n = v) :
    WritesReg s c i d v := by
  let y := coxNext ((coxAt s c).setG d n) ((coxAt s c).pc + 4)
  refine ⟨setCox (setCox s c ((coxAt s c).setG d n)) c y, y, ?_, onlyCox_setCox_setCox s c _ y, ?_, fun r => ?_⟩
  · simp [he, coxFinish, coxRetire, y, coxNext]
  · simp only [y]
    rw [setG_frame]
    rfl
  · exact hv ▸ gReg_setG (coxAt s c) d r n

theorem writesReg_alu {s : State} {c : Nat} {i : Instr} {d : BitVec 5} {reads : List (BitVec 5)} {f : Cox → Nat} {v : DWord}
    (ht : CoxTurn s c reads) (he : exec i s = coxAlu i d reads s f) (hv : BitVec.ofNat 64 (f (coxAt s c)) = v) :
    WritesReg s c i d v :=
  writesReg_of_done (he.trans (coxDo_clear ht)) hv

/-! ## Results on integers and naturals as operations on words -/

theorem ofNat_wrapTo (z : Int) : BitVec.ofNat 64 (wrapTo 64 z) = BitVec.ofInt 64 z := by
  apply BitVec.eq_of_toNat_eq
  simp only [BitVec.toNat_ofNat, BitVec.toNat_ofInt, wrapTo]
  omega

theorem sgn_toNat (a : DWord) : sgn a.toNat = a.toInt := by
  have ha := a.isLt
  rw [BitVec.toInt_eq_toNat_cond]
  simp only [sgn, toSigned]
  split <;> split <;> omega

theorem ofNat_wrapTo_add (a : DWord) (z : Int) : BitVec.ofNat 64 (wrapTo 64 (a.toNat + z)) = a + BitVec.ofInt 64 z := by
  rw [ofNat_wrapTo, BitVec.ofInt_add, BitVec.ofInt_natCast, BitVec.ofNat_toNat, BitVec.setWidth_eq]

theorem ofNat_wrapTo_sub (a b : DWord) : BitVec.ofNat 64 (wrapTo 64 (a.toNat - b.toNat)) = a - b := by
  apply BitVec.eq_of_toNat_eq
  have ha := a.isLt
  have hb := b.isLt
  simp only [BitVec.toNat_ofNat, BitVec.toNat_sub, wrapTo]
  omega

theorem ofNat_mul_two_pow (a : DWord) (k : Nat) : BitVec.ofNat 64 (a.toNat * 2 ^ k) = a <<< k := by
  apply BitVec.eq_of_toNat_eq
  rw [BitVec.toNat_ofNat, BitVec.toNat_shiftLeft, Nat.shiftLeft_eq]

theorem ofNat_div_two_pow (a : DWord) (k : Nat) : BitVec.ofNat 64 (a.toNat / 2 ^ k) = a >>> k := by
  rw [← Nat.shiftRight_eq_div_pow, ← BitVec.toNat_ushiftRight, BitVec.ofNat_toNat, BitVec.setWidth_eq]

theorem ofNat_sgn_div_two_pow (a : DWord) (k : Nat) : BitVec.ofNat 64 (wrapTo 64 (sgn a.toNat / 2 ^ k)) = a.sshiftRight k := by
  rw [ofNat_wrapTo, sgn_toNat, BitVec.sshiftRight, Int.shiftRight_eq_div_pow, Int.natCast_pow]
  rfl

theorem ofNat_decide (p : Bool) : BitVec.ofNat 64 p.toNat = if p then 1 else 0 := by
  cases p <;> rfl

theorem ofInt_mul_two_pow (z : Int) : BitVec.ofInt 64 (z * 2 ^ 16) = BitVec.ofInt 64 z <<< 16 := by
  rw [BitVec.ofInt_mul, BitVec.shiftLeft_eq_mul_twoPow]
  rfl

/-- The upper half of a double word made of an integer is its quotient by 2^64, so `mulh` needs the exact product only. -/
theorem extractLsb'_ofInt (z : Int) : (BitVec.ofInt 128 z).extractLsb' 64 64 = BitVec.ofInt 64 (z / 2 ^ 64) := by
  apply BitVec.eq_of_toNat_eq
  simp only [BitVec.extractLsb'_toNat, BitVec.toNat_ofInt, Nat.shiftRight_eq_div_pow]
  omega

theorem ofNat_mulh (a b : DWord) : BitVec.ofNat 64 (wrapTo 64 (sgn a.toNat * sgn b.toNat / 2 ^ 64)) =
    (a.signExtend 128 * b.signExtend 128).extractLsb' 64 64 := by
  rw [ofNat_wrapTo, sgn_toNat, sgn_toNat, ← extractLsb'_ofInt, BitVec.ofInt_mul]
  rfl

/-! ## Division (R85) -/

theorem ofInt_tdiv (a b : DWord) : BitVec.ofInt 64 (a.toInt.tdiv b.toInt) = a.sdiv b := by
  apply BitVec.eq_of_toInt_eq
  rw [BitVec.toInt_ofInt, BitVec.toInt_sdiv]

theorem ofInt_tmod (a b : DWord) : BitVec.ofInt 64 (a.toInt.tmod b.toInt) = a.srem b := by
  rw [← BitVec.toInt_srem, BitVec.ofInt_toInt]

/-- The edges of R85 in words: a division by zero, the one quotient that leaves the register, and every other. -/
theorem coxDivide_toNat (a b : DWord) : coxDivide a.toNat b.toNat =
    if b = 0 then (2 ^ 64 - 1, a.toNat)
    else if a = BitVec.intMin 64 ∧ b = BitVec.allOnes 64 then (a.toNat, 0)
    else (wrapTo 64 (a.toInt.tdiv b.toInt), wrapTo 64 (a.toInt.tmod b.toInt)) := by
  have hzero : b.toNat = 0 ↔ b = 0 := (BitVec.toNat_eq (y := 0#64)).symm
  have hmin : a.toNat = 2 ^ 63 ↔ a = BitVec.intMin 64 := (BitVec.toNat_eq (y := BitVec.intMin 64)).symm
  have hones : b.toNat = 2 ^ 64 - 1 ↔ b = BitVec.allOnes 64 := (BitVec.toNat_eq (y := BitVec.allOnes 64)).symm
  simp only [coxDivide, sgn_toNat, hzero, hmin, hones, Bool.and_eq_true, decide_eq_true_eq, beq_iff_eq]

theorem ofNat_coxDivide_fst (a b : DWord) :
    BitVec.ofNat 64 (coxDivide a.toNat b.toNat).1 = if b = 0 then BitVec.allOnes 64 else a.sdiv b := by
  rw [coxDivide_toNat]
  by_cases hb : b = 0
  · simp only [hb, if_true]
    rfl
  · by_cases hedge : a = BitVec.intMin 64 ∧ b = BitVec.allOnes 64
    · obtain ⟨rfl, rfl⟩ := hedge
      decide
    · simp only [hb, hedge, if_false, ofNat_wrapTo, ofInt_tdiv]

theorem ofNat_coxDivide_snd (a b : DWord) :
    BitVec.ofNat 64 (coxDivide a.toNat b.toNat).2 = if b = 0 then a else a.srem b := by
  rw [coxDivide_toNat]
  by_cases hb : b = 0
  · simp only [hb, if_true, BitVec.ofNat_toNat, BitVec.setWidth_eq]
  · by_cases hedge : a = BitVec.intMin 64 ∧ b = BitVec.allOnes 64
    · obtain ⟨rfl, rfl⟩ := hedge
      decide
    · simp only [hb, hedge, if_false, ofNat_wrapTo, ofInt_tmod]

/-! ## Bit fields (R87) -/

theorem ofNat_field (a : DWord) (p n : Nat) :
    BitVec.ofNat 64 (a.toNat / 2 ^ p % 2 ^ n) = (a.extractLsb' p n).zeroExtend 64 := by
  rw [← Nat.shiftRight_eq_div_pow, ← BitVec.extractLsb'_toNat, BitVec.ofNat_toNat]

theorem insertBits_eq (x lo n v : Nat) :
    insertBits x lo n v = 2 ^ lo * (2 ^ n * (x / 2 ^ lo / 2 ^ n) + v % 2 ^ n) + x % 2 ^ lo := by
  have hx := Nat.div_add_mod x (2 ^ lo)
  have hq := Nat.div_add_mod (x / 2 ^ lo) (2 ^ n)
  have hsplit : x = 2 ^ lo * (2 ^ n * (x / 2 ^ lo / 2 ^ n)) + x / 2 ^ lo % 2 ^ n * 2 ^ lo + x % 2 ^ lo := by
    calc x = 2 ^ lo * (2 ^ n * (x / 2 ^ lo / 2 ^ n) + x / 2 ^ lo % 2 ^ n) + x % 2 ^ lo := by rw [hq, hx]
      _ = _ := by rw [Nat.mul_add, Nat.mul_comm (2 ^ lo) (x / 2 ^ lo % 2 ^ n)]
  have hv : 2 ^ lo * (v % 2 ^ n) = v % 2 ^ n * 2 ^ lo := Nat.mul_comm _ _
  rw [insertBits, Nat.mul_add]
  omega

theorem testBit_insertBits (x lo n v i : Nat) :
    (insertBits x lo n v).testBit i = if lo ≤ i ∧ i < lo + n then v.testBit (i - lo) else x.testBit i := by
  rw [insertBits_eq, Nat.testBit_two_pow_mul_add _ (Nat.mod_lt _ (Nat.two_pow_pos _)),
    Nat.testBit_two_pow_mul_add _ (Nat.mod_lt _ (Nat.two_pow_pos _))]
  by_cases hlo : i < lo
  · have hout : ¬ (lo ≤ i ∧ i < lo + n) := by omega
    rw [if_pos hlo, if_neg hout, Nat.testBit_mod_two_pow, decide_eq_true hlo, Bool.true_and]
  · by_cases hhi : i - lo < n
    · have hin : lo ≤ i ∧ i < lo + n := by omega
      rw [if_neg hlo, if_pos hhi, if_pos hin, Nat.testBit_mod_two_pow, decide_eq_true hhi, Bool.true_and]
    · have hout : ¬ (lo ≤ i ∧ i < lo + n) := by omega
      rw [if_neg hlo, if_neg hhi, if_neg hout, Nat.div_div_eq_div_mul, ← Nat.pow_add, Nat.testBit_div_two_pow]
      congr 1
      omega

theorem getLsbD_fieldMask (w p n i : Nat) :
    (fieldMask w p n).getLsbD i = (decide (i < w) && decide (p ≤ i ∧ i < p + n)) := by
  rw [fieldMask, BitVec.getLsbD_ofNat, Nat.testBit_mul_two_pow, Nat.testBit_two_pow_sub_one]
  by_cases hp : p ≤ i
  · simp [hp, show i - p < n ↔ i < p + n by omega]
  · simp [hp]

theorem ofNat_insertBits (x a : DWord) (p n : Nat) : BitVec.ofNat 64 (insertBits x.toNat p n a.toNat) =
    ((x &&& ~~~ fieldMask 64 p n) ||| ((a <<< p) &&& fieldMask 64 p n)) := by
  apply BitVec.eq_of_getLsbD_eq
  intro i hi
  simp only [BitVec.getLsbD_ofNat, BitVec.getLsbD_or, BitVec.getLsbD_and, BitVec.getLsbD_not, BitVec.getLsbD_shiftLeft,
    getLsbD_fieldMask, testBit_insertBits, BitVec.testBit_toNat, hi, decide_true, Bool.true_and]
  by_cases hf : p ≤ i ∧ i < p + n
  · simp [hf, show ¬ i < p by omega]
  · simp [hf]

theorem ext_illegal {s : State} {c : Nat} {d a : BitVec 5} {p l : BitVec 6} (ht : CoxTurn s c [a])
    (h : 64 < p.toNat + (l.toNat + 1)) : CoxFaults s s c (.ext d a p l) 0x180 0 ((coxWordOf (.ext d a p l)).zeroExtend 64) := by
  have he : exec (.ext d a p l) s = execExt d a p l s := rfl
  rw [CoxFaults, he, execExt, coxDo_clear ht, if_pos (by omega)]
  rfl

theorem ins_illegal {s : State} {c : Nat} {d a : BitVec 5} {p l : BitVec 6} (ht : CoxTurn s c [a, d])
    (h : 64 < p.toNat + (l.toNat + 1)) : CoxFaults s s c (.ins d a p l) 0x180 0 ((coxWordOf (.ins d a p l)).zeroExtend 64) := by
  have he : exec (.ins d a p l) s = execIns d a p l s := rfl
  rw [CoxFaults, he, execIns, coxDo_clear ht, if_pos (by omega)]
  rfl

theorem ext_writesReg {s : State} {c : Nat} {d a : BitVec 5} {p l : BitVec 6} (ht : CoxTurn s c [a])
    (h : p.toNat + (l.toNat + 1) ≤ 64) :
    WritesReg s c (.ext d a p l) d (((gReg (coxAt s c) a).extractLsb' p.toNat (l.toNat + 1)).zeroExtend 64) := by
  have he : exec (.ext d a p l) s = execExt d a p l s := rfl
  have hin : ¬ 64 < p.toNat + l.toNat + 1 := by omega
  rw [execExt, coxDo_clear ht, if_neg hin, cox_g_eq] at he
  exact writesReg_of_done he (ofNat_field _ _ _)

theorem ins_writesReg {s : State} {c : Nat} {d a : BitVec 5} {p l : BitVec 6} (ht : CoxTurn s c [a, d])
    (h : p.toNat + (l.toNat + 1) ≤ 64) :
    WritesReg s c (.ins d a p l) d ((gReg (coxAt s c) d &&& ~~~ fieldMask 64 p.toNat (l.toNat + 1)) |||
      ((gReg (coxAt s c) a <<< p.toNat) &&& fieldMask 64 p.toNat (l.toNat + 1))) := by
  have he : exec (.ins d a p l) s = execIns d a p l s := rfl
  have hin : ¬ 64 < p.toNat + l.toNat + 1 := by omega
  rw [execIns, coxDo_clear ht, if_neg hin, cox_g_eq, cox_g_eq] at he
  exact writesReg_of_done he (ofNat_insertBits _ _ _ _)

/-! ## The families of instructions -/

theorem coxSpecs_writesReg : ∀ p ∈ coxSpecs, ∀ s c d a b, CoxTurn s c [a, b] →
    WritesReg s c (p.1 d a b) d (p.2 (gReg (coxAt s c) a) (gReg (coxAt s c) b)) := by
  simp only [coxSpecs, List.forall_mem_cons]
  refine ⟨?add, ?sub, ?and, ?or, ?xor, ?sll, ?srl, ?sra, ?slt, ?sltn, ?mul, ?mulh, ?div, ?rem,
    List.forall_mem_nil _⟩ <;> intro s c d a b ht
  case add =>
    exact writesReg_alu ht (show _ = execCoxAdd d a b s from rfl)
      (by rw [cox_g_eq, ofNat_wrapTo_add, BitVec.ofInt_natCast, ofNat_g])
  case sub => exact writesReg_alu ht (show _ = execCoxSub d a b s from rfl) (by rw [cox_g_eq, cox_g_eq, ofNat_wrapTo_sub])
  case and => exact writesReg_alu ht (show _ = execCoxAnd d a b s from rfl) (by rw [BitVec.ofNat_and, ofNat_g, ofNat_g])
  case or => exact writesReg_alu ht (show _ = execCoxOr d a b s from rfl) (by rw [BitVec.ofNat_or, ofNat_g, ofNat_g])
  case xor => exact writesReg_alu ht (show _ = execCoxXor d a b s from rfl) (by rw [BitVec.ofNat_xor, ofNat_g, ofNat_g])
  case sll => exact writesReg_alu ht (show _ = execSll d a b s from rfl) (by rw [cox_g_eq, cox_g_eq, ofNat_mul_two_pow])
  case srl => exact writesReg_alu ht (show _ = execSrl d a b s from rfl) (by rw [cox_g_eq, cox_g_eq, ofNat_div_two_pow])
  case sra => exact writesReg_alu ht (show _ = execCoxSra d a b s from rfl) (by rw [cox_g_eq, cox_g_eq, ofNat_sgn_div_two_pow])
  case slt =>
    exact writesReg_alu ht (show _ = execSlt d a b s from rfl)
      (by rw [cox_g_eq, cox_g_eq, ofNat_decide, sgn_toNat, sgn_toNat, BitVec.slt_eq_decide])
  case sltn => exact writesReg_alu ht (show _ = execSltn d a b s from rfl) (by rw [cox_g_eq, cox_g_eq, ofNat_decide, BitVec.ult_eq_decide])
  case mul => exact writesReg_alu ht (show _ = execCoxMul d a b s from rfl) (by rw [BitVec.ofNat_mul, ofNat_g, ofNat_g])
  case mulh => exact writesReg_alu ht (show _ = execCoxMulh d a b s from rfl) (by rw [cox_g_eq, cox_g_eq, ofNat_mulh])
  case div => exact writesReg_alu ht (show _ = execCoxDiv d a b s from rfl) (by rw [cox_g_eq, cox_g_eq, ofNat_coxDivide_fst])
  case rem => exact writesReg_alu ht (show _ = execCoxRem d a b s from rfl) (by rw [cox_g_eq, cox_g_eq, ofNat_coxDivide_snd])

theorem coxImmSpecs_writesReg : ∀ p ∈ coxImmSpecs, ∀ s c d a i, CoxTurn s c [a] →
    WritesReg s c (p.1 d a i) d (p.2 (gReg (coxAt s c) a) i) := by
  simp only [coxImmSpecs, List.forall_mem_cons]
  refine ⟨?addi, ?andi, ?ori, ?xori, List.forall_mem_nil _⟩ <;> intro s c d a i ht
  case addi => exact writesReg_alu ht (show _ = execAddi d a i s from rfl) (by rw [cox_g_eq, ofNat_wrapTo_add]; rfl)
  case andi => exact writesReg_alu ht (show _ = execAndi d a i s from rfl) (by rw [BitVec.ofNat_and, ofNat_g, BitVec.ofNat_toNat])
  case ori => exact writesReg_alu ht (show _ = execOri d a i s from rfl) (by rw [BitVec.ofNat_or, ofNat_g, BitVec.ofNat_toNat])
  case xori => exact writesReg_alu ht (show _ = execXori d a i s from rfl) (by rw [BitVec.ofNat_xor, ofNat_g, BitVec.ofNat_toNat])

theorem coxShiftSpecs_writesReg : ∀ p ∈ coxShiftSpecs, ∀ s c d a k, CoxTurn s c [a] →
    WritesReg s c (p.1 d a k) d (p.2 (gReg (coxAt s c) a) k.toNat) := by
  simp only [coxShiftSpecs, List.forall_mem_cons]
  refine ⟨?slli, ?srli, ?srai, List.forall_mem_nil _⟩ <;> intro s c d a k ht
  case slli => exact writesReg_alu ht (show _ = execSlli d a k s from rfl) (by rw [cox_g_eq, ofNat_mul_two_pow])
  case srli => exact writesReg_alu ht (show _ = execSrli d a k s from rfl) (by rw [cox_g_eq, ofNat_div_two_pow])
  case srai => exact writesReg_alu ht (show _ = execSrai d a k s from rfl) (by rw [cox_g_eq, ofNat_sgn_div_two_pow])

theorem lui_writesReg {s : State} {c : Nat} (d : BitVec 5) (i : BitVec 21) (ht : CoxTurn s c []) :
    WritesReg s c (.lui d i) d (i.signExtend 64 <<< 16) :=
  writesReg_alu ht (show _ = execLui d i s from rfl) ((ofNat_wrapTo _).trans (ofInt_mul_two_pow _))

theorem apc_writesReg {s : State} {c : Nat} (d : BitVec 5) (i : BitVec 21) (ht : CoxTurn s c []) :
    WritesReg s c (.apc d i) d ((coxAt s c).pc + i.signExtend 64 <<< 16) :=
  writesReg_alu ht (show _ = execApc d i s from rfl)
    ((ofNat_wrapTo_add _ _).trans (congrArg _ (ofInt_mul_two_pow _)))

/-- Settles O33: each result is one write of gD, and its value the word operation of R85 to R88. -/
theorem coxArithmetic : Obligations.CoxArithmetic := by
  refine ⟨coxSpecs_writesReg, coxImmSpecs_writesReg, coxShiftSpecs_writesReg, fun s c d i ht => ?_, fun s c d a p l => ?_⟩
  · exact ⟨lui_writesReg d i ht, apc_writesReg d i ht⟩
  · exact ⟨fun h => ⟨fun ht => ext_illegal ht h, fun ht => ins_illegal ht h⟩,
      fun h => ⟨fun ht => ext_writesReg ht h, fun ht => ins_writesReg ht h⟩⟩

end Sys2Proof.Claims

/-! The control words that name no register (06 R135, R144, R145). A running `spcfg` holds every word of a mem clause of its block (12 R280,
02 R45: `nop` may stand in a clause of any class); where none does, `nop`, `yield`, `ifence`, `dsel` and `trap` do what their rules say. -/

namespace Sys2Proof.Claims

open Sys2Proof.Machine Sys2Proof.Safety

/-! ## Issue of a word that names no register -/

/-- A word with an empty gate waits for nothing but a `spcfg`. -/
theorem clear_of_not_waysHeld {s : State} {k : Nat} {w : Wave} (hfree : waysHeld s w = false) : Clear s k w {} :=
  ⟨by simp, by simp, fun d _ => ⟨rfl, by simp [Wave.observes]⟩, tagCheck_nil _ _, rfl, hfree⟩

theorem gate_waysHeld {s : State} {k : Nat} {w : Wave} (g : Gate) (hheld : waysHeld s w = true) : gate s k w g = .wait := by
  simp [gate, hheld]

theorem waveDo_waysHeld {s : State} {k : Nat} {w : Wave} (g : Wave → Gate) (body : State → Nat → Wave → Eff)
    (ht : WaveTurn s k w) (hheld : waysHeld s w = true) : waveDo s g body = .next s := by
  simp only [waveDo, ht.1, ht.2, gate_waysHeld _ hheld]

theorem nop_waysHeld {s : State} {k : Nat} {w : Wave} (ht : WaveTurn s k w) (hheld : waysHeld s w = true) :
    exec .nop s = .next s := by
  have he : exec .nop s = execNop s := rfl
  simp only [he, execNop, eitherDo, ht.1, waveDo_waysHeld _ _ ht hheld]

theorem trap_waysHeld {s : State} {k : Nat} {w : Wave} (code : BitVec 16) (ht : WaveTurn s k w) (hheld : waysHeld s w = true) :
    exec (.trap code) s = .next s :=
  waveDo_waysHeld _ _ ht hheld

/-! ## A block whose `spcfg` runs -/

/-- A mem clause of one word. -/
def memClause : Clause :=
  { hdr := 0xA7F80011, addr := 0x40000000, words := [{ raw := 0, entry := none }], pos := 1, prov := 0x40000000, inj := false }

/-- A wave at the word of a mem clause, its `tzero` and its `spcfg` outstanding. -/
def waysWave : Wave :=
  { block := 0, num := 0, bud := 64, exec := 0xFFFFFFFF, pcHdr := 0x40000000, pcPos := 1, tvec := 0x40000100, spillBase := 0x80100000
    clause := some memClause, nextId := 2
    pend := [{ id := 0, flag := none, cls := .tile, dst := [], work := .engine 0 },
      { id := 1, flag := none, cls := .mem, dst := [], work := .ways 1 }] }

/-- The `spcfg` waits for the block's tile operation to end. -/
def waysState : State :=
  { State.reset with
    cur := .wave 0, waves := [(0, some waysWave)], contexts := [(0, some loadContext)]
    blocks := [(0, some { loadBlock with waysPend := some (1, 0, 1) })]
    cores := [(0, { tileQ := [{ id := 0, wave := 0, pend := 0, blk := 0, ctx := 0, work := .tzero 1 }] })] }

theorem waysState_turn : WaveTurn waysState 0 waysWave := ⟨rfl, rfl⟩

theorem waysState_held : waysHeld waysState waysWave = true := by decide

theorem waysWave_inCtrl : InCtrl waysWave 0x40000000 := ⟨memClause, rfl, rfl, rfl, rfl, rfl, rfl⟩

theorem waysState_stackRoom : StackRoom waysState waysWave 1 := ⟨by decide, by decide, by decide⟩

/-- A wave's clause is left behind once its last word retires. -/
theorem retireWord_waysState_ne : retireWord waysState 0 ≠ waysState := fun heq => by
  have hclause : (waveAt (retireWord waysState 0) 0).bind Wave.clause = none := by
    rw [retireWord_wave waysState_turn.2, waveAt_setWave_self]
    decide
  rw [heq, waysState_turn.2] at hclause
  cases hclause

/-- Refutes O11: a `nop` is accepted in a mem clause, and there it waits for a running `spcfg` of its block.
`decode_nop` and `simpleControl_of_not_waysHeld` give every part where none holds it. -/
theorem not_simpleControl : ¬ Obligations.SimpleControl := by
  rintro ⟨-, hctl⟩
  obtain ⟨hnop, -⟩ := hctl waysState 0 waysWave waysState_turn
  rw [nop_waysHeld waysState_turn waysState_held] at hnop
  exact retireWord_waysState_ne (Host.Outcome.next.inj hnop).symm

/-- Refutes O12: `InCtrl` fixes the shape of the clause and not its class, so a running `spcfg` of the block can hold its word; then
no TRAP entry is pushed. Decode refuses a `trap` there (R45): `trap_enters_handler` and `trap_sets_cbm` give both parts where none holds it. -/
theorem not_softwareTrap : ¬ Obligations.SoftwareTrap := by
  intro htrap
  obtain ⟨henter, -⟩ := htrap waysState 0 waysWave 0x40000000 0 waysState_turn waysWave_inCtrl rfl
  obtain ⟨t, hexec, -, hwave, -⟩ := henter (by decide) (by decide) waysState_stackRoom (by decide)
  rw [trap_waysHeld 0 waysState_turn waysState_held] at hexec
  obtain rfl := Host.Outcome.next.inj hexec
  have hstack := congrArg Wave.stack (Option.some.inj (waysState_turn.2.symm.trans hwave))
  cases hstack

/-! ## What the words do where no `spcfg` holds them -/

theorem decode_nop (x : BitVec 24) : decode (.fixed (0#8 ++ x)) = .ok .nop := by
  have hindex : fieldOf (0#8 ++ x) 24 8 = 0 := by
    rw [fieldOf, BitVec.toNat_append]
    simp [Nat.div_eq_of_lt x.isLt]
  simp only [decode, decodeFixed, hindex]

theorem nop_retires {s : State} {k : Nat} {w : Wave} (ht : WaveTurn s k w) (hfree : waysHeld s w = false) :
    exec .nop s = .next (retireWord s k) :=
  eitherDo_wave ht (clear_of_not_waysHeld hfree)

theorem yield_sets_yielded {s : State} {k : Nat} {w : Wave} (ht : WaveTurn s k w) (hfree : waysHeld s w = false) :
    exec .yield s = .next (modWave (retireWord s k) k (fun x => { x with yielded := true })) :=
  eitherDo_wave ht (clear_of_not_waysHeld hfree)

theorem ifence_empties_icache {s : State} {k : Nat} {w : Wave} (ht : WaveTurn s k w) (hfree : waysHeld s w = false) :
    exec .ifence s = .next (retireWord (setWave (s.setCore (coreOf k) { s.core (coreOf k) with icache := [] }) k
      { w with fenced := some [], oldWords := [] }) k) :=
  waveDo_clear ht (clear_of_not_waysHeld hfree)

theorem retireAt_dsel (w : Wave) (t : Nat) : (w.retireAt t).dsel = w.dsel := by
  unfold Wave.retireAt Wave.retire Wave.endClause
  split
  · rfl
  · dsimp only
    split
    · split <;> rfl
    · rfl

/-- The dictionary slot of a number on the wave's core (03 R62). -/
def coreSlot (s : State) (k n : Nat) : DictSlot := (s.core (coreOf k)).slots.look {} n

theorem exec_dsel {s : State} {k : Nat} {w : Wave} (n : BitVec 3) (ht : WaveTurn s k w) (hfree : waysHeld s w = false) (hcomp : w.comp = none) :
    exec (.dsel n) s = .next (finish s k (
      if w.hold = .dictFailed n.toNat ∨ (coreSlot s k n.toNat).owner ≠ ctxOf s w ∨ (coreSlot s k n.toNat).state = .empty then
        .trap { cause := 0x041 }
      else if (coreSlot s k n.toNat).state = .loading then .hold (setWave s k { w with hold := .dictWait n.toNat })
      else .done (selectSlot s k n.toNat))) := by
  have he : exec (.dsel n) s = execDsel n s := rfl
  rw [he, execDsel, waveDo_clear ht (clear_of_not_waysHeld hfree)]
  simp [coreSlot, hcomp, or_assoc]

theorem dsel_unloaded {s : State} {k : Nat} {w : Wave} {n : BitVec 3} (ht : WaveTurn s k w) (hfree : waysHeld s w = false)
    (hcomp : w.comp = none) (hslot : (coreSlot s k n.toNat).owner ≠ ctxOf s w ∨ (coreSlot s k n.toNat).state = .empty ∨
      w.hold = .dictFailed n.toNat) : Raises s k (.dsel n) { cause := 0x041 } := by
  rw [Raises, exec_dsel n ht hfree hcomp, if_pos (or_assoc.2 hslot).symm]
  rfl

theorem dsel_selects {s : State} {k : Nat} {w : Wave} {n : BitVec 3} (ht : WaveTurn s k w) (hfree : waysHeld s w = false)
    (hcomp : w.comp = none) (howner : (coreSlot s k n.toNat).owner = ctxOf s w) (hready : (coreSlot s k n.toNat).state = .ready)
    (hhold : w.hold ≠ .dictFailed n.toNat) : exec (.dsel n) s = .next (retireWord (selectSlot s k n.toNat) k) := by
  rw [exec_dsel n ht hfree hcomp, if_neg (by simp [howner, hready, hhold]), if_neg (by simp [hready])]
  rfl

/-- The wave that selects a slot counts there, and no more at the slot it leaves; no byte of memory changes. -/
theorem selectSlot_moves {s : State} {k : Nat} {w : Wave} {n : Nat} (hw : waveAt s k = some w) (hne : n ≠ w.dsel) :
    waveAt (selectSlot s k n) k = some { w with dsel := n, hold := .no } ∧
    (coreSlot (selectSlot s k n) k n).selcnt = (coreSlot s k n).selcnt + 1 ∧
    (coreSlot (selectSlot s k n) k w.dsel).selcnt = (coreSlot s k w.dsel).selcnt - 1 ∧ SameMemory s (selectSlot s k n) := by
  simp only [coreSlot, selectSlot, hw, waveAt_setWave_self, core_setWave, core_setCore_self, Tab.look_put, hne, hne.symm, if_true, if_false,
    true_and]
  exact fun _ => rfl

/-- Beside `decode_nop`, what O11 says of a wave, where no `spcfg` holds its clause. -/
theorem simpleControl_of_not_waysHeld {s : State} {k : Nat} {w : Wave} (ht : WaveTurn s k w) (hfree : waysHeld s w = false) :
    exec .nop s = .next (retireWord s k) ∧
    exec .yield s = .next (modWave (retireWord s k) k (fun x => { x with yielded := true })) ∧
    exec .ifence s = .next (retireWord (setWave (s.setCore (coreOf k) { s.core (coreOf k) with icache := [] }) k
      { w with fenced := some [], oldWords := [] }) k) ∧
    ∀ n : BitVec 3, w.comp = none →
      ((coreSlot s k n.toNat).owner ≠ ctxOf s w ∨ (coreSlot s k n.toNat).state = .empty ∨ w.hold = .dictFailed n.toNat →
        Raises s k (.dsel n) { cause := 0x041 }) ∧
      ((coreSlot s k n.toNat).owner = ctxOf s w → (coreSlot s k n.toNat).state = .ready → w.hold ≠ .dictFailed n.toNat → n.toNat ≠ w.dsel →
        ∃ t y, exec (.dsel n) s = .next t ∧ waveAt t k = some y ∧ y.dsel = n.toNat ∧
          (coreSlot t k n.toNat).selcnt = (coreSlot s k n.toNat).selcnt + 1 ∧
          (coreSlot t k w.dsel).selcnt = (coreSlot s k w.dsel).selcnt - 1 ∧ SameMemory s t) := by
  refine ⟨nop_retires ht hfree, yield_sets_yielded ht hfree, ifence_empties_icache ht hfree, fun n hcomp =>
    ⟨dsel_unloaded ht hfree hcomp, fun howner hready hhold hne => ?_⟩⟩
  obtain ⟨hwave, hnew, hold, hmem⟩ := selectSlot_moves ht.2 hne
  have hgo := dsel_selects ht hfree hcomp howner hready hhold
  rw [retireWord_wave hwave] at hgo
  exact ⟨_, _, hgo, waveAt_setWave_self _ _ _, retireAt_dsel _ _, hnew, hold, hmem⟩

/-! ## The software trap -/

theorem exec_trap {s : State} {k : Nat} {w : Wave} (code : BitVec 16) (ht : WaveTurn s k w) (hfree : waysHeld s w = false) :
    exec (.trap code) s = .next (trapWord s k { cause := 0x046, detail := code.toNat, next := true }) :=
  waveDo_clear ht (clear_of_not_waysHeld hfree)

/-- A wave with an entry pushed on its stack. -/
def pushed (w : Wave) (e : Entry) : Wave := { w with stack := e :: w.stack }

theorem pushEntry_of_stackRoom {s : State} {k : Nat} {w : Wave} (e : Entry) (hw : waveAt s k = some w) (hroom : StackRoom s w 1) :
    pushEntry s k e = .ok (setWave s k (pushed w e)) := by
  obtain ⟨hdeep, hpool, -⟩ := hroom
  have hdepth : ¬ 128 ≤ w.stack.length := by omega
  have hchip : poolUsed s w.block < 32 := by omega
  rw [poolUsed] at hchip
  simp only [pushEntry, hw, hdepth, hchip, if_true, if_false, modWave_eq hw, pushed]

/-- A wave `x` sent to its handler, with the record of the cause (R404 to R406). -/
def sentToHandler (x : Wave) (pidx : Nat) (live : Word) (tvec : DWord) (e : Trapped) (r : Resume) : Wave :=
  { x with
    tcause := tcauseWord e.cause r.wordPos 0 e.detail, tprov := r.prov, trec0 := BitVec.ofNat 64 e.addr, trec1 := BitVec.ofNat 64 e.lanes
    trec2 := BitVec.ofNat 64 pidx, pidx := 0, exec := live, pcHdr := tvec, pcPos := 0, clause := none, hold := .no, fencing := false, polls := 0 }

/-- A trap past the last word of a clause leaves the clause as its retirement does, but for the counts of issue. -/
theorem sentToHandler_past {w : Wave} {c : Clause} (hclause : w.clause = some c) (hinj : c.inj = false) (hlast : c.words.length ≤ c.pos)
    (entry : Entry) (pidx : Nat) (live : Word) (tvec : DWord) (e : Trapped) (r : Resume) :
    sentToHandler ((pushed w entry).leaveClause .past) pidx live tvec e r =
      { w.retire with
        stack := entry :: w.stack, tcause := tcauseWord e.cause r.wordPos 0 e.detail, tprov := r.prov
        trec0 := BitVec.ofNat 64 e.addr, trec1 := BitVec.ofNat 64 e.lanes, trec2 := BitVec.ofNat 64 pidx, pidx := 0, exec := live
        pcHdr := tvec, pcPos := 0, clause := none, hold := .no, polls := 0, count := w.count, aged := w.aged, watch := w.watch } := by
  have hleave : (pushed w entry).leaveClause .past = (pushed w entry).endClause c := by
    simp only [Wave.leaveClause, pushed, hclause]
  simp only [hleave, Wave.retire, hclause, hlast, Wave.endClause, hinj, decide_true, Bool.true_or, if_true, Bool.false_eq_true, if_false]
  rfl

/-- Where there is a handler, room for the entry and no injected clause to report, taking a trap changes the wave alone. -/
theorem enterTrap_onlyWave {s : State} {k : Nat} {w : Wave} {e : Trapped} {r : Resume} {kept : Bool} {c : TrapClause}
    (hw : waveAt s k = some w) (htvec : w.tvec ≠ 0) (hroom : StackRoom s w 1) (hcomp : w.comp = none) (hprov : bitOf r.prov 63 = false) :
    OnlyWave s (enterTrap s k e r kept c) k
      (sentToHandler ((pushed w (.trap r.addr r.pos e.cause w.exec)).leaveClause c) w.pidx (~~~ w.exited) w.tvec e r) := by
  have hlive : (pushed w (.trap r.addr r.pos e.cause w.exec)).liveLanes = ~~~ w.exited := by
    simp only [Wave.liveLanes, pushed, hcomp]
  simp only [enterTrap, hw, htvec, if_false, pushEntry_of_stackRoom _ hw hroom, modWave_eq (waveAt_setWave_self _ _ _), faultEvent, hprov,
    Bool.false_eq_true, hlive]
  exact OnlyWave.trans (onlyWave_setWave _) (onlyWave_setWave _)

/-- Where no `spcfg` holds the clause, the second part of O12: in handler mode a software trap is a bit of CBM (R407). -/
theorem trap_sets_cbm {s : State} {k : Nat} {w : Wave} (code : BitVec 16) (ht : WaveTurn s k w) (hfree : waysHeld s w = false)
    (hmode : w.inHandler = true) :
    ∃ t, exec (.trap code) s = .next t ∧ OnlyWave s t k
      (({ w with hold := .no, pidx := 0, cbm := w.cbm ||| BitVec.ofNat 512 (2 ^ 0x046) }).retireAt s.time) := by
  have hheld : trapWord s k { cause := 0x046, detail := code.toNat, next := true } =
      setWave s k (({ w with hold := .no, pidx := 0 }.setCbm 0x046).retireAt s.time) := by
    simp [trapWord, ht.2, hmode, rollbackCause, fetchOrDecode]
  exact ⟨_, (exec_trap code ht hfree).trans (congrArg _ hheld), onlyWave_setWave _⟩

/-- Where no `spcfg` holds the clause, the first part of O12: outside handler mode it enters the handler, to resume past its clause
(R145, R404 to R406). -/
theorem trap_enters_handler {s : State} {k : Nat} {w : Wave} {h : DWord} (code : BitVec 16) (ht : WaveTurn s k w)
    (hfree : waysHeld s w = false) (hctrl : InCtrl w h) (hcomp : w.comp = none) (hmode : w.inHandler = false) (htvec : w.tvec ≠ 0)
    (hroom : StackRoom s w 1) (hprov : bitOf w.prov 63 = false) :
    ∃ t, exec (.trap code) s = .next t ∧ OnlyWave s t k
      { w.retire with
        stack := .trap (h + 8) 0 0x046 w.exec :: w.stack, tcause := tcauseWord 0x046 1 0 code.toNat, tprov := w.prov
        trec0 := 0, trec1 := 0, trec2 := BitVec.ofNat 64 w.pidx, pidx := 0, exec := ~~~ w.exited, pcHdr := w.tvec, pcPos := 0, clause := none
        hold := .no, polls := 0, count := w.count, aged := w.aged, watch := w.watch } := by
  obtain ⟨c, hclause, haddr, hinj, hcount, hwords, hpos⟩ := hctrl
  have hres : wordResume w true = { addr := h + 8, pos := 0, wordPos := 1, prov := w.prov } := by
    simp [wordResume, Wave.prov, hclause, hinj, hcount, haddr, hpos]
  have htake : trapWord s k { cause := 0x046, detail := code.toNat, next := true } =
      enterTrap s k { cause := 0x046, detail := code.toNat, next := true } (wordResume w true) true .past := by
    simp [trapWord, ht.2, hmode, rollbackCause, hclause, hinj]
  have honly := enterTrap_onlyWave (e := { cause := 0x046, detail := code.toNat, next := true })
    (r := { addr := h + 8, pos := 0, wordPos := 1, prov := w.prov }) (kept := true) (c := .past) ht.2 htvec hroom hcomp hprov
  rw [sentToHandler_past hclause hinj (by omega)] at honly
  refine ⟨_, exec_trap code ht hfree, ?_⟩
  rw [htake, hres]
  exact honly

end Sys2Proof.Claims

/-! The carry chains, lane operations and mask operations of the vector ALU (07 R153, R160, R165 to R167, R169): what an ALU word comes to,
the width of a source, and each result. In the integer formats a source fits its format, so the model's naturals are the statements' bit
vectors; in lc16 an immediate is wider than FMT (08 R175), and there the two part. -/

namespace Sys2Proof.Claims

open Sys2Proof.Machine Sys2Proof.Safety

/-! ## Issue of an ALU word -/

theorem aluDo_scarab {s : State} {k op : Nat} {t : TOp} {f : View → TOp → Out} (ht : ScarabTurn s k (scOpRegs op t)) :
    aluDo op t s f = .next (retireScarab (setScarab s k ((scarabAt s k).apply (f (scView s k (scarabAt s k)) t))) k) := by
  simp only [aluDo, ht.1, scarabDo_clear ht, scFinish]

/-- Every vector lane a word sees holds 32 bits (R148). -/
def WordLanes (v : View) : Prop := ∀ i l, v.vec i l < 2 ^ 32

theorem waveView_wordLanes (s : State) (k : Nat) (w : Wave) : WordLanes (waveView s k w) := by
  intro i l
  simp only [waveView]
  split
  · exact BitVec.isLt _
  · exact Nat.two_pow_pos 32

theorem scView_wordLanes (s : State) (k : Nat) (x : Scarab) : WordLanes (scView s k x) := fun _ _ => BitVec.isLt _

/-- A wave's and a scarab's word come to the same: what is left to show is what the word writes. -/
theorem writes_of_aluDo {i : Instr} {op : Nat} {t : TOp} {f : View → TOp → Out} {out : View → Out}
    (he : ∀ s, exec i s = aluDo op t s f) (hout : ∀ v, WordLanes v → f v t = out v) : Writes i op t out := by
  refine ⟨fun s k w ht hc => ?_, fun s k ht => ?_⟩
  · rw [he, aluDo_wave ht hc, hout _ (waveView_wordLanes s k w)]
  · rw [he, aluDo_scarab ht, hout _ (scView_wordLanes s k _)]

/-- Where a statement says what a word writes, the model's output leaves a scarab in the same state. -/
theorem scarab_eq_of_writes {i : Instr} {op : Nat} {t : TOp} {f : View → TOp → Out} {out : View → Out} {s : State} {k : Nat}
    (he : ∀ s, exec i s = aluDo op t s f) (hw : Writes i op t out) (ht : ScarabTurn s k (scOpRegs op t)) :
    retireScarab (setScarab s k ((scarabAt s k).apply (f (scView s k (scarabAt s k)) t))) k =
      retireScarab (setScarab s k ((scarabAt s k).apply (out (scView s k (scarabAt s k))))) k :=
  Host.Outcome.next.inj ((aluDo_scarab ht).symm.trans ((he s).symm.trans (hw.2 s k ht)))

/-! ## Sources of the integer formats -/

theorem toNat_ofInt_eq_wrapTo (n : Nat) (z : Int) : (BitVec.ofInt n z).toNat = wrapTo n z := by
  rw [BitVec.toNat_ofInt, wrapTo, Int.natCast_pow]
  rfl

theorem wrapTo_lt (n : Nat) (z : Int) : wrapTo n z < 2 ^ n := toNat_ofInt_eq_wrapTo n z ▸ BitVec.isLt _

theorem isFloatFmt_beq_lc16_of_mem_fBIN {f : Fmt} (hf : f ∈ fBIN) : isFloatFmt f = false ∧ (f == .lc16) = false := by
  revert f
  decide

theorem constBits_lt {f : Fmt} (hf : f ∈ fBIN) (c : Nat) (imm : Word) (lane wave : Nat) :
    constBits f c imm lane wave < 2 ^ fmtBits f := by
  obtain ⟨hfloat, hlc⟩ := isFloatFmt_beq_lc16_of_mem_fBIN hf
  simp only [constBits, hfloat, hlc, Bool.false_eq_true, if_false]
  split <;> exact wrapTo_lt _ _

/-- A source of a b, i or n format supplies no more bits than the format has (R148, R149). -/
theorem srcBits_lt {v : View} (hv : WordLanes v) {f : Fmt} (hf : f ∈ fBIN) (t : TOp) (o : Opnd) (l : Nat) :
    srcBits v t f o l < 2 ^ fmtBits f := by
  cases o with
  | v i =>
    simp only [srcBits]
    split
    · next hpair =>
      have hlow := hv i.toNat l
      have hhigh := hv (i.toNat + 1) l
      rw [hpair]
      omega
    · exact Nat.mod_lt _ (Nat.two_pow_pos _)
  | s i => exact Nat.mod_lt _ (Nat.two_pow_pos _)
  | m i =>
    have hone : 1 < 2 ^ fmtBits f := Nat.one_lt_two_pow (by revert f; decide)
    simp only [srcBits]
    split <;> omega
  | k c => exact constBits_lt hf _ _ _ _

theorem src_toNat {v : View} (hv : WordLanes v) {t : TOp} (hf : t.fmt ∈ fBIN) (o : Opnd) (l : Nat) :
    (src v t o l).toNat = srcBits v t t.fmt o l := by
  rw [src, BitVec.toNat_ofNat, Nat.mod_eq_of_lt (srcBits_lt hv hf t o l)]

/-- A word that decode accepts has a b, i or n format where its entry lists no other (R73). -/
theorem fmt_mem_fBIN_of_templateWf {op : Nat} {i : OpInfo} {t : TOp} (hi : opInfo op = some i) (hfmts : ∀ f ∈ i.fmts, f ∈ fBIN)
    (hwf : templateWf op t = true) : t.fmt ∈ fBIN := by
  simp only [templateWf, hi, Bool.and_eq_true, List.contains_iff_mem] at hwf
  obtain ⟨⟨⟨⟨⟨⟨hfmt, -⟩, -⟩, -⟩, -⟩, -⟩, -⟩ := hwf
  exact hfmts _ hfmt

/-! ## Bits of masks -/

theorem natBit_succ (x i : Nat) : natBit x (i + 1) = natBit (x / 2) i := by
  rw [natBit, natBit, Nat.pow_succ', Nat.div_div_eq_div_mul]

theorem natBit_eq_testBit (x i : Nat) : natBit x i = x.testBit i := by
  rw [natBit, Nat.testBit_eq_decide_div_mod_eq]
  rfl

theorem ofBits_not_add_mod (x n : Nat) : ofBits (fun l => !natBit x l) n + x % 2 ^ n + 1 = 2 ^ n := by
  induction n with
  | zero => simp [ofBits, Nat.mod_one]
  | succ n ih =>
    have hbit : 2 ^ n * (x / 2 ^ n % 2) + (if (!natBit x n) = true then 2 ^ n else 0) = 2 ^ n := by
      rcases Nat.mod_two_eq_zero_or_one (x / 2 ^ n) with h | h <;> simp [natBit, h]
    rw [ofBits, Nat.mod_pow_succ, Nat.pow_succ]
    omega

theorem ofBits_not (x n : Nat) : ofBits (fun l => !natBit x l) n = notBits n x := by
  have hsum := ofBits_not_add_mod x n
  rw [notBits]
  omega

theorem notBits_lt (n x : Nat) : notBits n x < 2 ^ n := by
  have hpos := Nat.two_pow_pos n
  rw [notBits]
  omega

theorem length_setBits (n x : Nat) : (setBits n x).length = popcount n x := by
  induction n generalizing x with
  | zero => rfl
  | succ n ih =>
    have htail : (setBits n (x / 2)).length = ((List.range n).filter (natBit x ∘ Nat.succ)).length := by
      simp only [setBits, Function.comp_def, Nat.succ_eq_add_one, natBit_succ]
    rw [popcount, ← ih, htail, setBits, List.range_succ_eq_map, List.filter_cons, List.filter_map]
    rcases Nat.mod_two_eq_zero_or_one x with h | h <;> simp [natBit, h, Nat.add_comm]

/-! ## Mask operations (R169) -/

/-- Settles O4: the words write what the model's mask operations compute, of which NOT and the count are read bit by bit. -/
theorem maskOperations : Obligations.MaskOperations := by
  rintro t _ _ _ rfl rfl rfl
  refine ⟨?mand, ?mor, ?mxor, ?mnot, ?mpop⟩
  case mand => exact writes_of_aluDo (f := mandOp) (fun _ => rfl) fun _ _ => rfl
  case mor => exact writes_of_aluDo (f := morOp) (fun _ => rfl) fun _ _ => rfl
  case mxor => exact writes_of_aluDo (f := mxorOp) (fun _ => rfl) fun _ _ => rfl
  case mnot =>
    refine writes_of_aluDo (f := mnotOp) (fun _ => rfl) fun v _ => ?_
    rw [ofBits_not, mnotOp, maskOp, Nat.mod_eq_of_lt (notBits_lt _ _)]
  case mpop =>
    refine writes_of_aluDo (f := mpopOp) (fun _ => rfl) fun v _ => ?_
    rw [length_setBits, mpopOp]

/-! ## Carry chains (R153) -/

theorem carryIn_eq {t : TOp} {m : BitVec 8} (hc : t.c = .m m) (v : View) (l : Nat) :
    carryIn v t l = (natBit (v.msk m.toNat) l).toNat := by
  simp only [carryIn, hc, opndIx]
  cases natBit (v.msk m.toNat) l <;> rfl

/-- A borrow goes out where the exact difference is negative. -/
theorem borrowOut_eq (a b c : Nat) : borrowOut a b c = decide ((a : Int) - b - c < 0) := by
  rw [borrowOut, decide_eq_decide]
  omega

theorem addc_writes {t : TOp} {m : BitVec 8} (hwf : (Instr.addc t).wf = true) (hc : t.c = .m m) : Writes (.addc t) 0x042 t (fun v =>
    let sum := fun l => (src v t t.a l).toNat + (src v t t.b l).toNat + (natBit (v.msk m.toNat) l).toNat
    { laneOp v t (fmtBits t.fmt) (fun l => sum l % 2 ^ fmtBits t.fmt) with
      msks := [(m.toNat, mergeMask v m.toNat (fun l => decide (2 ^ fmtBits t.fmt ≤ sum l)))] }) := by
  have hf := fmt_mem_fBIN_of_templateWf (op := 0x042) rfl (by decide) hwf
  refine writes_of_aluDo (f := addcOp) (fun _ => rfl) fun v hv => ?_
  simp only [addcOp, carryMask, mergeMask, carryOut, carryIn_eq hc, hc, opndIx, srcA, srcB, src_toNat hv hf]

theorem subb_writes {t : TOp} {m : BitVec 8} (hwf : (Instr.subb t).wf = true) (hc : t.c = .m m) : Writes (.subb t) 0x043 t (fun v =>
    let diff : Nat → Int := fun l => (src v t t.a l).toNat - (src v t t.b l).toNat - (natBit (v.msk m.toNat) l).toNat
    { laneOp v t (fmtBits t.fmt) (fun l => (BitVec.ofInt (fmtBits t.fmt) (diff l)).toNat) with
      msks := [(m.toNat, mergeMask v m.toNat (fun l => decide (diff l < 0)))] }) := by
  have hf := fmt_mem_fBIN_of_templateWf (op := 0x043) rfl (by decide) hwf
  refine writes_of_aluDo (f := subbOp) (fun _ => rfl) fun v hv => ?_
  simp only [subbOp, carryMask, mergeMask, borrowOut_eq, carryIn_eq hc, hc, opndIx, srcA, srcB, src_toNat hv hf, toNat_ofInt_eq_wrapTo]

/-! ## Lane operations (R160, R165 to R167) -/

theorem shflLane_getD (v : View) (mode l d : Nat) : (shflLane v mode l d).getD l = shuffleFrom v.lanes mode l d := by
  match mode with
  | 0 => rfl
  | 1 => by_cases h : d ≤ l <;> simp [shflLane, shuffleFrom, h]
  | 2 => by_cases h : l + d < v.lanes <;> simp [shflLane, shuffleFrom, h]
  | _ + 3 => simp [shflLane, shuffleFrom]

/-- One byte of a byte permute, from the low 32 bits of its source. -/
theorem permByte_eq (a k : Nat) : permByte a k =
    if k < 4 then ((BitVec.ofNat 32 a).extractLsb' (8 * k) 8).toNat
    else if k < 8 then (if (BitVec.ofNat 32 a).getLsbD (8 * k - 25) then 255 else 0) else 0 := by
  rw [permByte]
  split
  · rw [BitVec.extractLsb'_toNat, BitVec.toNat_ofNat, Nat.shiftRight_eq_div_pow]
    obtain rfl | rfl | rfl | rfl : k = 0 ∨ k = 1 ∨ k = 2 ∨ k = 3 := by omega
    all_goals omega
  · split
    · have hplace : 8 * (k - 4) + 7 = 8 * k - 25 := by omega
      have hlow : 8 * k - 25 < 32 := by omega
      rw [BitVec.getLsbD_ofNat, natBit_eq_testBit, hplace, decide_eq_true hlow, Bool.true_and]
    · rfl

theorem foldl_add_eq_sum (g : Nat → Nat) (l : List Nat) : l.foldl (fun d j => d + g j) 0 = (l.map g).sum := by
  rw [List.sum_eq_foldl, List.foldl_map]

theorem shfl_writes {t : TOp} (hwf : (Instr.shfl t).wf = true) : Writes (.shfl t) 0x065 t (fun v => laneOp v t (fmtBits t.fmt) (fun l =>
    (src v t t.a (shuffleFrom v.lanes (t.opmod.toNat % 4) l (srcBits v t .n32 t.b l))).toNat)) := by
  have hf := fmt_mem_fBIN_of_templateWf (op := 0x065) rfl (by decide) hwf
  refine writes_of_aluDo (f := shflOp) (fun _ => rfl) fun v hv => ?_
  simp only [shflOp, srcA, shflLane_getD, src_toNat hv hf]

theorem bcast_writes {t : TOp} (hwf : (Instr.bcast t).wf = true) (hmode : bitOf t.opmod 0 = false) :
    Writes (.bcast t) 0x066 t (fun v => laneOp v t (fmtBits t.fmt) (fun _ =>
      (src v t t.a (srcBits v t .n32 t.b v.once % v.lanes)).toNat)) := by
  have hf := fmt_mem_fBIN_of_templateWf (op := 0x066) rfl (by decide) hwf
  refine writes_of_aluDo (f := bcastOp) (fun _ => rfl) fun v hv => ?_
  simp only [bcastOp, srcA, hmode, Bool.false_eq_true, if_false, src_toNat hv hf]

theorem bcastFirst_writes {t : TOp} (hwf : (Instr.bcast t).wf = true) (hmode : bitOf t.opmod 0 = true) :
    Writes (.bcast t) 0x066 t (fun v => match v.active, t.d with
      | j :: _, _ => laneOp v t (fmtBits t.fmt) (fun _ => (src v t t.a j).toNat)
      | [], .s i => { scas := [(i.toNat, 0)] }
      | [], _ => {}) := by
  have hf := fmt_mem_fBIN_of_templateWf (op := 0x066) rfl (by decide) hwf
  refine writes_of_aluDo (f := bcastOp) (fun _ => rfl) fun v hv => ?_
  simp only [bcastOp, srcA, hmode, if_true, src_toNat hv hf]
  cases v.active with
  | nil => cases t.d <;> rfl
  | cons j _ => rfl

theorem ballot_writes (t : TOp) : Writes (.ballot t) 0x067 t (fun v =>
    let x := activeMask v (fun l => srcBits v t .b32 t.a l != 0)
    match t.d with
    | .s i => { scas := [(i.toNat, x)] }
    | .m i => { msks := [(i.toNat, x)] }
    | _ => {}) := by
  refine writes_of_aluDo (f := ballotOp) (fun _ => rfl) fun v _ => ?_
  cases hd : t.d <;> simp only [ballotOp, activeMask, hd]

theorem bperm_writes {t : TOp} (hwf : (Instr.bperm t).wf = true) : Writes (.bperm t) 0x05D t (fun v => laneOp v t 32 (fun l =>
    let a : Word := BitVec.ofNat 32 (src v t t.a l).toNat
    let sel := fun j => (src v t t.b l).toNat / 16 ^ j % 16
    ((List.range 4).map (fun j => 256 ^ j * (
      if sel j < 4 then (a.extractLsb' (8 * sel j) 8).toNat
      else if sel j < 8 then (if a.getLsbD (8 * sel j - 25) then 255 else 0) else 0))).sum)) := by
  have hf := fmt_mem_fBIN_of_templateWf (op := 0x05D) rfl (by decide) hwf
  refine writes_of_aluDo (f := bpermOp) (fun _ => rfl) fun v hv => ?_
  have hnibble : ∀ j, 2 ^ (4 * j) = 16 ^ j := Nat.pow_mul 2 4
  have hbyte : ∀ j p, p * 2 ^ (8 * j) = 256 ^ j * p := fun j p => by rw [Nat.pow_mul, Nat.mul_comm]
  simp only [bpermOp, srcA, srcB, src_toNat hv hf, hnibble, hbyte, permByte_eq, foldl_add_eq_sum]

/-! ## An immediate wider than its format -/

/-- A word in lc16, where #imm is the whole 32-bit lane (08 R175) and FMT gives 16 bits. -/
def lcWord : TOp := { fmt := .lc16, d := .v 1, a := .k 0x5A, b := .k 0x5A, imm := 0x10002 }

/-- A running scarab with one active lane, at its turn. -/
def lcState : State := { State.reset with cur := .scarab 0, scarabs := [(0, { state := .running, exec := 1 })] }

theorem lcState_turn (regs : List RegRef) : ScarabTurn lcState 0 regs := ⟨rfl, fun _ hp => nomatch hp⟩

/-- m1 of the scarab at its turn. -/
def maskOne (s : State) : DWord := (scarabAt s 0).mregs.look 0 1

/-- v1 of the scarab at its turn, in lane 0. -/
def vectorOne (s : State) : Nat := scLane (scarabAt s 0) 1 0

/-- Refutes O2: with #imm for A and B the lane is 0x10002, past the 16 bits of lc16, and the carry it makes sets m1, where the
statement's `src` keeps 0x0002. Decode refuses lc16 here (R153): `addc_writes` and `subb_writes` give both parts for every word it accepts. -/
theorem not_carryChains : ¬ Obligations.CarryChains := by
  rintro ⟨haddc, -⟩
  have hstate := scarab_eq_of_writes (f := addcOp) (fun _ => rfl) (haddc { lcWord with c := .m 1 } 1 rfl) (lcState_turn _)
  exact absurd (congrArg maskOne hstate) (by decide)

/-- Refutes O3: selector 2 of the byte permute takes the 1 of #imm = 0x10002, past the 16 bits of lc16, where the statement's `src`
has 0 there. Decode refuses lc16 here (R160): `shfl_writes`, `bcast_writes`, `bcastFirst_writes` and `bperm_writes` give these parts
for every word it accepts, and `ballot_writes` its part for every word. -/
theorem not_laneOperations : ¬ Obligations.LaneOperations := by
  rintro ⟨-, -, -, -, hbperm⟩
  have hstate := scarab_eq_of_writes (f := bpermOp) (fun _ => rfl) (hbperm lcWord) (lcState_turn _)
  exact absurd (congrArg vectorOne hstate) (by decide)

end Sys2Proof.Claims
